-- ==== Sys2Proof/Word.lean ====
section
/-!
DEFINITION. Word types of the Kelgevi Fraset: bytes, slot words, scalar, vector and mask values.
-/

namespace Sys2Proof

/-- One byte of any memory. -/
abbrev Byte := BitVec 8
/-- A slot word (R12). -/
abbrev SlotWord := BitVec 32
/-- A scalar register value (R23). -/
abbrev W64 := BitVec 64
/-- A vector register value: 256 bytes, byte 0 in the low bits (R113). -/
abbrev Vec := BitVec 2048
/-- A lane mask value (R113). -/
abbrev KMask := BitVec 128
/-- A 64-byte record: Palette entry, node record, submission entry; doubleword 0 in the low bits. -/
abbrev Rec64 := BitVec 512
/-- A bundle address (R12, R61): 15 bits, so that 0x4000 can be held. -/
abbrev BAddr := BitVec 15

end Sys2Proof
end

