-- ==== Sys2Proof/Config.lean ====
section
/-!
DEFINITION. What the manual leaves to the implementation or names without defining it: free values and the
signature scheme. None has a body, so no proof can see a value (assumption log 7 and 9).
-/

namespace Sys2Proof.Config

/-- A free number, one for each value of the counter State.fresh (log 9, DESIGN CHOICE). -/
opaque freeNat : Nat → Nat

/-- An Ed448 signature of a prehash, as a number, under the device's identity key (R331, R332; log 7, DESIGN CHOICE). -/
opaque ed448Sign : List Byte → BitVec 912

/-- An Ed448 signature of a prehash under the manufacturer's factory key (R331; log 7, DESIGN CHOICE). -/
opaque factorySign : List Byte → BitVec 912

/-- The identity key's public half (R331; log 7, DESIGN CHOICE). -/
opaque identityKey : BitVec 456

/-- The lowest speed bin of the signed record (R333, R335). -/
opaque lowestBin : Nat

end Sys2Proof.Config
end

