-- ==== Sys2Proof/Syntax.lean ====
section
/-!
DEFINITION. The instructions of Ifeard 1 and the device's events: one constructor for each row of the opcode table.
A slot word carries no slot: the slot it stands in gives its map (R13), and exec reads the slot from State.issue.
-/

namespace Sys2Proof

/-- The fields of the general slot word (R15): N, P, EA, EB, D, A, B. -/
structure G where
  n : Bool
  p : BitVec 3
  ea : Bool
  eb : Bool
  d : BitVec 6
  a : BitVec 6
  b : BitVec 6
deriving DecidableEq, Repr

/-- Form J (R19). -/
structure J where
  n : Bool
  p : BitVec 3
  t : BitVec 20
deriving DecidableEq, Repr

/-- Form LP of `lp` (R20). -/
structure LpReg where
  n : Bool
  p : BitVec 3
  c : BitVec 6
  e : BitVec 14
deriving DecidableEq, Repr

/-- Form LP of `lpi` (R20). -/
structure LpImm where
  n : Bool
  p : BitVec 3
  c : BitVec 10
  e : BitVec 10
deriving DecidableEq, Repr

/-- 0 to 511: the compute core with that core id (R3); 512 + 2t + i: control core i of tower t (R62). -/
abbrev CoreRef := Fin 516

/-- A context of a core: `q` true names the secondary (R32). -/
structure CtxRef where
  core : CoreRef
  q : Bool
deriving DecidableEq, Repr

/-- One constructor for each row of the opcode table. -/
inductive Instr where
  /-- NOP (R42). -/
  | nop
  /-- BR (R54). -/
  | br (j : J)
  /-- BRL (R54). -/
  | brl (j : J)
  /-- BRI (R54). -/
  | bri (g : G)
  /-- BRIL (R54). -/
  | bril (g : G)
  /-- LP (R57). -/
  | lp (l : LpReg)
  /-- LPI (R57). -/
  | lpi (l : LpImm)
  /-- LPX (R57). -/
  | lpx (g : G)
  /-- YIELD (R254). -/
  | yield (g : G)
  /-- WAIT_GE (R154). -/
  | waitGe (g : G)
  /-- WAIT_F (R256). -/
  | waitF (g : G)
  /-- RETIRE (R258). -/
  | retire (g : G)
  /-- SPAWN (R245). -/
  | spawn (g : G)
  /-- TRAP (R63). -/
  | trap (g : G)
  /-- RTI (R65). -/
  | rti (g : G)
  /-- MFS (R58). -/
  | mfs (g : G)
  /-- MTS (R58). -/
  | mts (g : G)
  /-- FENCE_REL (R141). -/
  | fenceRel (g : G)
  /-- FENCE_ACQ (R141). -/
  | fenceAcq (g : G)
  /-- FENCE_SC (R142). -/
  | fenceSc (g : G)
  /-- XFENCE (R148). -/
  | xfence (g : G)
  /-- GBAR (R260). -/
  | gbar (g : G)
  /-- CBAR (R261). -/
  | cbar (g : G)
  /-- SOPEN (R266). -/
  | sopen (g : G)
  /-- SCLOSE (R267). -/
  | sclose (g : G)
  /-- CANCEL (R268). -/
  | cancel (g : G)
  /-- SEGACQ (R92). -/
  | segacq (g : G)
  /-- SEGREL (R93). -/
  | segrel (g : G)
  /-- TICKW (R264). -/
  | tickw (g : G)
  /-- BRK (R66). -/
  | brk (g : G)
  /-- ADD (R47). -/
  | add (g : G)
  /-- SUB (R47). -/
  | sub (g : G)
  /-- ADDI (R47). -/
  | addi (g : G)
  /-- MUL (R47). -/
  | mul (g : G)
  /-- MULH (R47). -/
  | mulh (g : G)
  /-- MULHN (R47). -/
  | mulhn (g : G)
  /-- DIV (R48). -/
  | div (g : G)
  /-- DIVN (R48). -/
  | divn (g : G)
  /-- REM (R48). -/
  | rem (g : G)
  /-- REMN (R48). -/
  | remn (g : G)
  /-- MIN (R47). -/
  | min (g : G)
  /-- MAX (R47). -/
  | max (g : G)
  /-- MINN (R47). -/
  | minn (g : G)
  /-- MAXN (R47). -/
  | maxn (g : G)
  /-- ABS (R47). -/
  | abs (g : G)
  /-- AND (R47). -/
  | and (g : G)
  /-- OR (R47). -/
  | or (g : G)
  /-- XOR (R47). -/
  | xor (g : G)
  /-- ANDN (R47). -/
  | andn (g : G)
  /-- ANDI (R47). -/
  | andi (g : G)
  /-- ORI (R47). -/
  | ori (g : G)
  /-- XORI (R47). -/
  | xori (g : G)
  /-- SHL (R47). -/
  | shl (g : G)
  /-- SHR (R47). -/
  | shr (g : G)
  /-- SRA (R47). -/
  | sra (g : G)
  /-- ROTL (R47). -/
  | rotl (g : G)
  /-- SHLI (R47). -/
  | shli (g : G)
  /-- SHRI (R47). -/
  | shri (g : G)
  /-- SRAI (R47). -/
  | srai (g : G)
  /-- CLZ (R47). -/
  | clz (g : G)
  /-- CTZ (R47). -/
  | ctz (g : G)
  /-- POPC (R47). -/
  | popc (g : G)
  /-- BEXT (R49). -/
  | bext (g : G)
  /-- BDEP (R49). -/
  | bdep (g : G)
  /-- BREV (R47). -/
  | brev (g : G)
  /-- CMP_EQ (R50). -/
  | cmpEq (g : G)
  /-- CMP_NE (R50). -/
  | cmpNe (g : G)
  /-- CMP_LT (R50). -/
  | cmpLt (g : G)
  /-- CMP_LE (R50). -/
  | cmpLe (g : G)
  /-- CMP_LTN (R50). -/
  | cmpLtn (g : G)
  /-- CMP_LEN (R50). -/
  | cmpLen (g : G)
  /-- CMPI_EQ (R50). -/
  | cmpiEq (g : G)
  /-- CMPI_LT (R50). -/
  | cmpiLt (g : G)
  /-- PAND (R50). -/
  | pand (g : G)
  /-- POR (R50). -/
  | por (g : G)
  /-- PXOR (R50). -/
  | pxor (g : G)
  /-- PNOT (R50). -/
  | pnot (g : G)
  /-- MOV (R47). -/
  | mov (g : G)
  /-- MOVI (R47). -/
  | movi (g : G)
  /-- LIMM (R22). -/
  | limm (g : G) (imm : BitVec 32)
  /-- LIMMH (R47). -/
  | limmh (g : G) (imm : BitVec 32)
  /-- LEA_1 (R47). -/
  | lea1 (g : G)
  /-- LEA_2 (R47). -/
  | lea2 (g : G)
  /-- LEA_4 (R47). -/
  | lea4 (g : G)
  /-- LEA_8 (R47). -/
  | lea8 (g : G)
  /-- CHK_EQ (R52). -/
  | chkEq (g : G)
  /-- CHK_P (R52). -/
  | chkP (g : G)
  /-- RNG (R53). -/
  | rng (g : G)
  /-- FADD_F32 (R51). -/
  | faddF32 (g : G)
  /-- FSUB_F32 (R51). -/
  | fsubF32 (g : G)
  /-- FMUL_F32 (R51). -/
  | fmulF32 (g : G)
  /-- FMA_F32 (R51). -/
  | fmaF32 (g : G)
  /-- FCMP_LT (R51). -/
  | fcmpLt (g : G)
  /-- FCMP_EQ (R51). -/
  | fcmpEq (g : G)
  /-- CVT_F32_I64 (R51). -/
  | cvtF32I64 (g : G)
  /-- CVT_I64_F32 (R51). -/
  | cvtI64F32 (g : G)
  /-- CVT_I64_F32_RZ (R51). -/
  | cvtI64F32Rz (g : G)
  /-- VADD (R115). -/
  | vadd (g : G)
  /-- VSUB (R115). -/
  | vsub (g : G)
  /-- VMUL (R115). -/
  | vmul (g : G)
  /-- VMULH (R115). -/
  | vmulh (g : G)
  /-- VMIN (R115). -/
  | vmin (g : G)
  /-- VMAX (R115). -/
  | vmax (g : G)
  /-- VMIN_N32 (R115). -/
  | vminN32 (g : G)
  /-- VMAX_N32 (R115). -/
  | vmaxN32 (g : G)
  /-- VABS (R115). -/
  | vabs (g : G)
  /-- VCMP_EQ (R116). -/
  | vcmpEq (g : G)
  /-- VCMP_LT (R116). -/
  | vcmpLt (g : G)
  /-- VCMP_LT_N32 (R116). -/
  | vcmpLtN32 (g : G)
  /-- VADD_H (R115). -/
  | vaddH (g : G)
  /-- VSUB_H (R115). -/
  | vsubH (g : G)
  /-- VMUL_H (R115). -/
  | vmulH (g : G)
  /-- VMULH_H (R115). -/
  | vmulhH (g : G)
  /-- VMIN_H (R115). -/
  | vminH (g : G)
  /-- VMAX_H (R115). -/
  | vmaxH (g : G)
  /-- VMIN_N16 (R115). -/
  | vminN16 (g : G)
  /-- VMAX_N16 (R115). -/
  | vmaxN16 (g : G)
  /-- VABS_H (R115). -/
  | vabsH (g : G)
  /-- VCMP_EQ_H (R116). -/
  | vcmpEqH (g : G)
  /-- VCMP_LT_H (R116). -/
  | vcmpLtH (g : G)
  /-- VCMP_LT_N16 (R116). -/
  | vcmpLtN16 (g : G)
  /-- VADD_B (R115). -/
  | vaddB (g : G)
  /-- VSUB_B (R115). -/
  | vsubB (g : G)
  /-- VMUL_B (R115). -/
  | vmulB (g : G)
  /-- VMULH_B (R115). -/
  | vmulhB (g : G)
  /-- VMIN_B (R115). -/
  | vminB (g : G)
  /-- VMAX_B (R115). -/
  | vmaxB (g : G)
  /-- VMIN_N8 (R115). -/
  | vminN8 (g : G)
  /-- VMAX_N8 (R115). -/
  | vmaxN8 (g : G)
  /-- VABS_B (R115). -/
  | vabsB (g : G)
  /-- VCMP_EQ_B (R116). -/
  | vcmpEqB (g : G)
  /-- VCMP_LT_B (R116). -/
  | vcmpLtB (g : G)
  /-- VCMP_LT_N8 (R116). -/
  | vcmpLtN8 (g : G)
  /-- VAND (R117). -/
  | vand (g : G)
  /-- VOR (R117). -/
  | vor (g : G)
  /-- VXOR (R117). -/
  | vxor (g : G)
  /-- VNOT (R117). -/
  | vnot (g : G)
  /-- VSHL (R117). -/
  | vshl (g : G)
  /-- VSHR (R117). -/
  | vshr (g : G)
  /-- VSRA (R117). -/
  | vsra (g : G)
  /-- VSHLI (R117). -/
  | vshli (g : G)
  /-- VSHRI (R117). -/
  | vshri (g : G)
  /-- VSRAI (R117). -/
  | vsrai (g : G)
  /-- VFADD (R172). -/
  | vfadd (g : G)
  /-- VFSUB (R172). -/
  | vfsub (g : G)
  /-- VFMUL (R172). -/
  | vfmul (g : G)
  /-- VFMA (R172). -/
  | vfma (g : G)
  /-- VFMS (R172). -/
  | vfms (g : G)
  /-- VFMIN (R173). -/
  | vfmin (g : G)
  /-- VFMAX (R173). -/
  | vfmax (g : G)
  /-- VFABS (R172). -/
  | vfabs (g : G)
  /-- VFNEG (R172). -/
  | vfneg (g : G)
  /-- VFCMP_EQ (R174). -/
  | vfcmpEq (g : G)
  /-- VFCMP_LT (R174). -/
  | vfcmpLt (g : G)
  /-- VFCMP_LE (R174). -/
  | vfcmpLe (g : G)
  /-- VRCP (R175). -/
  | vrcp (g : G)
  /-- VRSQRT (R175). -/
  | vrsqrt (g : G)
  /-- VEXP2 (R175). -/
  | vexp2 (g : G)
  /-- VLOG2 (R175). -/
  | vlog2 (g : G)
  /-- VFADD_F16 (R172). -/
  | vfaddF16 (g : G)
  /-- VFSUB_F16 (R172). -/
  | vfsubF16 (g : G)
  /-- VFMUL_F16 (R172). -/
  | vfmulF16 (g : G)
  /-- VFMA_F16 (R172). -/
  | vfmaF16 (g : G)
  /-- VFMS_F16 (R172). -/
  | vfmsF16 (g : G)
  /-- VFMIN_F16 (R173). -/
  | vfminF16 (g : G)
  /-- VFMAX_F16 (R173). -/
  | vfmaxF16 (g : G)
  /-- VFABS_F16 (R172). -/
  | vfabsF16 (g : G)
  /-- VFNEG_F16 (R172). -/
  | vfnegF16 (g : G)
  /-- VFCMP_EQ_F16 (R174). -/
  | vfcmpEqF16 (g : G)
  /-- VFCMP_LT_F16 (R174). -/
  | vfcmpLtF16 (g : G)
  /-- VFCMP_LE_F16 (R174). -/
  | vfcmpLeF16 (g : G)
  /-- VFADD_BF16 (R172). -/
  | vfaddBf16 (g : G)
  /-- VFSUB_BF16 (R172). -/
  | vfsubBf16 (g : G)
  /-- VFMUL_BF16 (R172). -/
  | vfmulBf16 (g : G)
  /-- VFMA_BF16 (R172). -/
  | vfmaBf16 (g : G)
  /-- VFMS_BF16 (R172). -/
  | vfmsBf16 (g : G)
  /-- VFMIN_BF16 (R173). -/
  | vfminBf16 (g : G)
  /-- VFMAX_BF16 (R173). -/
  | vfmaxBf16 (g : G)
  /-- VFABS_BF16 (R172). -/
  | vfabsBf16 (g : G)
  /-- VFNEG_BF16 (R172). -/
  | vfnegBf16 (g : G)
  /-- VFCMP_EQ_BF16 (R174). -/
  | vfcmpEqBf16 (g : G)
  /-- VFCMP_LT_BF16 (R174). -/
  | vfcmpLtBf16 (g : G)
  /-- VFCMP_LE_BF16 (R174). -/
  | vfcmpLeBf16 (g : G)
  /-- VCVT_F16_F32 (R176). -/
  | vcvtF16F32 (g : G)
  /-- VCVT_BF16_F32 (R176). -/
  | vcvtBf16F32 (g : G)
  /-- VCVT_F32_F16 (R176). -/
  | vcvtF32F16 (g : G)
  /-- VCVT_F32_BF16 (R176). -/
  | vcvtF32Bf16 (g : G)
  /-- VCVT_I32_F32 (R176). -/
  | vcvtI32F32 (g : G)
  /-- VCVT_I32_F32_RZ (R176). -/
  | vcvtI32F32Rz (g : G)
  /-- VCVT_F32_I32 (R176). -/
  | vcvtF32I32 (g : G)
  /-- VSR_BF16_F32 (R177). -/
  | vsrBf16F32 (g : G)
  /-- VSR_F16_F32 (R177). -/
  | vsrF16F32 (g : G)
  /-- VQMX_E4M3 (R179). -/
  | vqmxE4m3 (g : G)
  /-- VQMX_E5M2 (R179). -/
  | vqmxE5m2 (g : G)
  /-- VQMX_E3M2 (R179). -/
  | vqmxE3m2 (g : G)
  /-- VQMX_E2M3 (R179). -/
  | vqmxE2m3 (g : G)
  /-- VQMX_E2M1 (R179). -/
  | vqmxE2m1 (g : G)
  /-- VQMX_MXI8 (R179). -/
  | vqmxMxi8 (g : G)
  /-- VQMX_SR_E4M3 (R179). -/
  | vqmxSrE4m3 (g : G)
  /-- VQMX_SR_E5M2 (R179). -/
  | vqmxSrE5m2 (g : G)
  /-- VQMX_SR_E3M2 (R179). -/
  | vqmxSrE3m2 (g : G)
  /-- VQMX_SR_E2M3 (R179). -/
  | vqmxSrE2m3 (g : G)
  /-- VQMX_SR_E2M1 (R179). -/
  | vqmxSrE2m1 (g : G)
  /-- VQMX_SR_MXI8 (R179). -/
  | vqmxSrMxi8 (g : G)
  /-- VDQMX_E4M3 (R180). -/
  | vdqmxE4m3 (g : G)
  /-- VDQMX_E5M2 (R180). -/
  | vdqmxE5m2 (g : G)
  /-- VDQMX_E3M2 (R180). -/
  | vdqmxE3m2 (g : G)
  /-- VDQMX_E2M3 (R180). -/
  | vdqmxE2m3 (g : G)
  /-- VDQMX_E2M1 (R180). -/
  | vdqmxE2m1 (g : G)
  /-- VDQMX_MXI8 (R180). -/
  | vdqmxMxi8 (g : G)
  /-- VBCAST_W (R118). -/
  | vbcastW (g : G)
  /-- VBCAST_H (R118). -/
  | vbcastH (g : G)
  /-- VBCAST_B (R118). -/
  | vbcastB (g : G)
  /-- VMOV (R118). -/
  | vmov (g : G)
  /-- VSEL (R118). -/
  | vsel (g : G)
  /-- VPERM_W (R119). -/
  | vpermW (g : G)
  /-- VPERM_H (R119). -/
  | vpermH (g : G)
  /-- VROT (R119). -/
  | vrot (g : G)
  /-- VEXT_W (R120). -/
  | vextW (g : G)
  /-- VINS_W (R120). -/
  | vinsW (g : G)
  /-- VIOTA_W (R118). -/
  | viotaW (g : G)
  /-- VLANE (R181). -/
  | vlane (g : G)
  /-- VUNLANE (R181). -/
  | vunlane (g : G)
  /-- VRED_ADD_F32 (R182). -/
  | vredAddF32 (g : G)
  /-- VRED_MAX_F32 (R182). -/
  | vredMaxF32 (g : G)
  /-- VRED_MIN_F32 (R182). -/
  | vredMinF32 (g : G)
  /-- VRED_ADD_I32 (R182). -/
  | vredAddI32 (g : G)
  /-- VSCAN_ADD_F32 (R183). -/
  | vscanAddF32 (g : G)
  /-- VSCAN_MAX_I32 (R155). -/
  | vscanMaxI32 (g : G)
  /-- VSCAN_ADD_I32 (R183). -/
  | vscanAddI32 (g : G)
  /-- KAND (R121). -/
  | kand (g : G)
  /-- KOR (R121). -/
  | kor (g : G)
  /-- KXOR (R121). -/
  | kxor (g : G)
  /-- KNOT (R121). -/
  | knot (g : G)
  /-- KPOP (R121). -/
  | kpop (g : G)
  /-- KSET (R121). -/
  | kset (g : G)
  /-- KGET (R121). -/
  | kget (g : G)
  /-- VRNG (R122). -/
  | vrng (g : G)
  /-- VCHK (R123). -/
  | vchk (g : G)
  /-- LD_B (R77). -/
  | ldB (g : G)
  /-- LD_H (R77). -/
  | ldH (g : G)
  /-- LD_W (R77). -/
  | ldW (g : G)
  /-- LD_D (R77). -/
  | ldD (g : G)
  /-- LD_BZ (R77). -/
  | ldBz (g : G)
  /-- LD_HZ (R77). -/
  | ldHz (g : G)
  /-- LD_WZ (R77). -/
  | ldWz (g : G)
  /-- ST_B (R77). -/
  | stB (g : G)
  /-- ST_H (R77). -/
  | stH (g : G)
  /-- ST_W (R77). -/
  | stW (g : G)
  /-- ST_D (R77). -/
  | stD (g : G)
  /-- VLD (R78). -/
  | vld (g : G)
  /-- VLD_O (R78). -/
  | vldO (g : G)
  /-- VLD_Q (R78). -/
  | vldQ (g : G)
  /-- VST (R78). -/
  | vst (g : G)
  /-- VST_O (R78). -/
  | vstO (g : G)
  /-- VST_Q (R78). -/
  | vstQ (g : G)
  /-- VLDS_W (R79). -/
  | vldsW (g : G)
  /-- VLDS_H (R79). -/
  | vldsH (g : G)
  /-- VLDX_W (R79). -/
  | vldxW (g : G)
  /-- VSTX_W (R79). -/
  | vstxW (g : G)
  /-- SMV_H (R6). -/
  | smvH (g : G)
  /-- SMV_W (R81). -/
  | smvW (g : G)
  /-- SMV_D (R81). -/
  | smvD (g : G)
  /-- SDUP (R83). -/
  | sdup (g : G)
  /-- VAC (R85). -/
  | vac (g : G)
  /-- VTST (R87). -/
  | vtst (g : G)
  /-- VTAKE (R84). -/
  | vtake (g : G)
  /-- AMO_ADD_W (R88). -/
  | amoAddW (g : G)
  /-- AMO_ADD_D (R88). -/
  | amoAddD (g : G)
  /-- AMO_MAX_D (R88). -/
  | amoMaxD (g : G)
  /-- AMO_XCHG_D (R88). -/
  | amoXchgD (g : G)
  /-- AMO_CAS_D (R88). -/
  | amoCasD (g : G)
  /-- PTST (R87). -/
  | ptst (g : G)
  /-- RLD_W (R109). -/
  | rldW (g : G)
  /-- RLD_D (R109). -/
  | rldD (g : G)
  /-- RLD_Q (R109). -/
  | rldQ (g : G)
  /-- RLD_O (R109). -/
  | rldO (g : G)
  /-- RST_W (R109). -/
  | rstW (g : G)
  /-- RST_D (R109). -/
  | rstD (g : G)
  /-- RST_Q (R109). -/
  | rstQ (g : G)
  /-- RST_O (R109). -/
  | rstO (g : G)
  /-- RVLD (R131). -/
  | rvld (g : G)
  /-- RVST (R131). -/
  | rvst (g : G)
  /-- RMV_H (R132). -/
  | rmvH (g : G)
  /-- RTST (R133). -/
  | rtst (g : G)
  /-- RAMO_ADD_RLX (R134). -/
  | ramoAddRlx (g : G)
  /-- RAMO_ADD_ACQ (R134). -/
  | ramoAddAcq (g : G)
  /-- RAMO_ADD_REL (R134). -/
  | ramoAddRel (g : G)
  /-- RAMO_ADD_AR (R134). -/
  | ramoAddAr (g : G)
  /-- RAMO_MAX_RLX (R134). -/
  | ramoMaxRlx (g : G)
  /-- RAMO_MAX_ACQ (R134). -/
  | ramoMaxAcq (g : G)
  /-- RAMO_MAX_REL (R134). -/
  | ramoMaxRel (g : G)
  /-- RAMO_MAX_AR (R134). -/
  | ramoMaxAr (g : G)
  /-- RAMO_XCHG_RLX (R134). -/
  | ramoXchgRlx (g : G)
  /-- RAMO_XCHG_ACQ (R134). -/
  | ramoXchgAcq (g : G)
  /-- RAMO_XCHG_REL (R134). -/
  | ramoXchgRel (g : G)
  /-- RAMO_XCHG_AR (R134). -/
  | ramoXchgAr (g : G)
  /-- RAMO_CAS_RLX (R134). -/
  | ramoCasRlx (g : G)
  /-- RAMO_CAS_ACQ (R134). -/
  | ramoCasAcq (g : G)
  /-- RAMO_CAS_REL (R134). -/
  | ramoCasRel (g : G)
  /-- RAMO_CAS_AR (R134). -/
  | ramoCasAr (g : G)
  /-- PSET (R188). -/
  | pset (g : G)
  /-- PGET (R189). -/
  | pget (g : G)
  /-- PINV (R190). -/
  | pinv (g : G)
  /-- MMQ (R152). -/
  | mmq (g : G)
  /-- MMQ_Z (R152). -/
  | mmqZ (g : G)
  /-- MMQ_RC (R152). -/
  | mmqRc (g : G)
  /-- MMQ_Z_RC (R152). -/
  | mmqZRc (g : G)
  /-- MMQ_TA (R152). -/
  | mmqTa (g : G)
  /-- MMQ_Z_TA (R152). -/
  | mmqZTa (g : G)
  /-- MMQ_RC_TA (R152). -/
  | mmqRcTa (g : G)
  /-- MMQ_Z_RC_TA (R152). -/
  | mmqZRcTa (g : G)
  /-- MMQ_TB (R152). -/
  | mmqTb (g : G)
  /-- MMQ_Z_TB (R152). -/
  | mmqZTb (g : G)
  /-- MMQ_RC_TB (R152). -/
  | mmqRcTb (g : G)
  /-- MMQ_Z_RC_TB (R152). -/
  | mmqZRcTb (g : G)
  /-- MMQ_TA_TB (R152). -/
  | mmqTaTb (g : G)
  /-- MMQ_Z_TA_TB (R152). -/
  | mmqZTaTb (g : G)
  /-- MMQ_RC_TA_TB (R152). -/
  | mmqRcTaTb (g : G)
  /-- MMQ_Z_RC_TA_TB (R152). -/
  | mmqZRcTaTb (g : G)
  /-- MDRAIN (R153). -/
  | mdrain (g : G)
  /-- MZERO (R199). -/
  | mzero (g : G)
  /-- MSTAT (R200). -/
  | mstat (g : G)
  /-- CPY (R215). -/
  | cpy (g : G)
  /-- ENGINE_MOVE (R221). -/
  | engineMove (g : G)
  /-- MOV_NP (R221). -/
  | movNp (g : G)
  /-- CPY_NP (R215). -/
  | cpyNp (g : G)
  /-- PUB (R216). -/
  | pub (g : G)
  /-- DSC (R228). -/
  | dsc (g : G)
  /-- FILL (R222). -/
  | fill (g : G)
  /-- CTRADD (R214). -/
  | ctradd (g : G)
  /-- FRETRY (R227). -/
  | fretry (g : G)
  /-- FSKIP (R227). -/
  | fskip (g : G)
  /-- KVSHARE (R239). -/
  | kvshare (g : G)
  /-- KVDROP (R240). -/
  | kvdrop (g : G)
  /-- KVSTAT (R241). -/
  | kvstat (g : G)
  /-- COLL (R211). -/
  | coll (g : G)
  /-- QPUSH (R296). -/
  | qpush (g : G)
  /-- KSCAN (R300). -/
  | kscan (g : G)
  /-- QREAD (R301). -/
  | qread (g : G)
  /-- JAPPEND (R302). -/
  | jappend (g : G)
  /-- JCOMMIT (R302). -/
  | jcommit (g : G)
  /-- JREAD (R302). -/
  | jread (g : G)
  /-- NPUSH (R303). -/
  | npush (g : G)
  /-- CPOST (R304). -/
  | cpost (g : G)
  /-- CHOLD (R308). -/
  | chold (g : G)
  /-- CREL (R306). -/
  | crel (g : G)
  /-- HBEAT (R305). -/
  | hbeat (g : G)
  /-- TKO (R306). -/
  | tko (g : G)
  /-- TLBINV (R309). -/
  | tlbinv (g : G)
  /-- EXTENSION_OPCODE (R42). -/
  | extensionOpcode (op : BitVec 5) (g : G)
  /-- ISSUE_PAST_END (R12). -/
  | issuePastEnd
  /-- RESULT_LANDING (R25). -/
  | resultLanding (c : CtxRef) (n : Nat)
  /-- SNAPSHOT_LANDING (R101). -/
  | snapshotLanding (c : CtxRef) (n : Nat)
  /-- ASYNC_TRAP_DELIVERY (R96). -/
  | asyncTrapDelivery (c : CtxRef)
  /-- STREAM_ELEMENT_STEP (R6). -/
  | streamElementStep (c : CtxRef)
  /-- LOCK_EVENT (R351). -/
  | lockEvent (c : CtxRef) (dst : Bool)
  /-- PIECE_PERFORMED (R127). -/
  | piecePerformed (n : Nat)
  /-- COMMAND_START (R219). -/
  | commandStart (id : Nat)
  /-- TRANSFER_COMPLETION (R221). -/
  | transferCompletion (id : Nat)
  /-- PUBLISH (R216). -/
  | publish (id : Nat)
  /-- DISCARD (R228). -/
  | discard (id : Nat)
  /-- ENGINE_COUNTER_ADD (R348). -/
  | engineCounterAdd (n : Nat)
  /-- MATRIX_COMMAND_START (R193). -/
  | matrixCommandStart (c : CoreRef)
  /-- MATRIX_STEP (R193). -/
  | matrixStep (c : CoreRef)
  /-- OPERANDS_CONSUMED (R197). -/
  | operandsConsumed (c : CoreRef)
  /-- DRAIN_START (R206). -/
  | drainStart (c : CoreRef)
  /-- DRAIN_PUBLISH (R207). -/
  | drainPublish (c : CoreRef)
  /-- CANVAS_NAME_UPDATE (R242). -/
  | canvasNameUpdate (id : Nat)
  /-- COLLECTIVE_START (R212). -/
  | collectiveStart (id : Nat)
  /-- COLLECTIVE_PUBLISH (R212). -/
  | collectivePublish (id : Nat)
  /-- RCTR_RETEST (R283). -/
  | rctrRetest (id : Nat)
  /-- WAIT_RETEST (R257). -/
  | waitRetest (c : CtxRef)
  /-- QPUSH_POST (R296). -/
  | qpushPost (id : Nat)
  /-- COMPLETION_WRITE (R293). -/
  | completionWrite (tower : Bool) (n : Nat)
  /-- CANCEL_ARRIVAL (R269). -/
  | cancelArrival (id core : Nat)
  /-- SUBTREE_QUIET (R275). -/
  | subtreeQuiet (id : Nat)
  /-- DISPATCH (R248). -/
  | dispatch (tower : Bool) (nodes : List (Nat × CtxRef))
  /-- FRAME_TICK (R262). -/
  | frameTick (job : Nat)
  /-- PREEMPTION (R314). -/
  | preemption (c : CtxRef)
  /-- SLICE_BOUNDARY (R320). -/
  | sliceBoundary (tower : Bool) (slice : Nat)
  /-- SEGMENT_SAVE (R321). -/
  | segmentSave (c : CoreRef) (seg : Nat)
  /-- SEGMENT_POWER_DOWN (R94). -/
  | segmentPowerDown (c : CoreRef) (seg : Nat)
  /-- TAKE_OVER (R305). -/
  | takeOver (tower : Bool)
  /-- STANDBY_RELOAD (R313). -/
  | standbyReload (tower agree : Bool)
  /-- INVALIDATION_ACK (R233). -/
  | invalidationAck (id : Nat) (tower : Bool)
  /-- SCRUB (R323). -/
  | scrub (space tower : Bool) (line : Nat)
  /-- DEVICE_FAULT (R325). -/
  | deviceFault (cause : Nat) (tower : Bool) (column : Nat)
  /-- THERMAL_LIMIT (R335). -/
  | thermalLimit (tower : Bool)
  /-- CLOCK_RESTORE (R335). -/
  | clockRestore (tower : Bool)
  /-- BRING_UP (R333). -/
  | bringUp (outs : List (Nat × Nat × Nat × Nat))
  /-- WARM_RESET (R326). -/
  | warmReset
  /-- DATA_FLIT (R286). -/
  | dataFlit (port : Nat) (dw0 dw1 : W64) (payload : List Byte) (tagOk : Bool)
  /-- ACK_FLIT (R287). -/
  | ackFlit (port : Nat) (seq : BitVec 12)
  /-- RETRY_REQUEST (R287). -/
  | retryRequest (port : Nat) (seq : BitVec 12)
  /-- ABORT_FLIT (R284). -/
  | abortFlit (port id : Nat)
  /-- TIME_FLIT (R286, R288): one leaves a port, or one arrives, with the device number of the clock that its time is from and its
  time stamp. -/
  | timeFlit (port : Nat) (arrives : Option (W64 × W64))
  /-- HELLO_FLIT (R278, R280): a hello for a collective, its STREAM, and whether the sender's kind, format, operation, bucket
  size and root agree. -/
  | helloFlit (port id : Nat) (stream : BitVec 8) (device ringid : W64) (agrees : Bool)
  /-- LINK_LOSS (R284). -/
  | linkLoss (port : Nat)
  /-- LINK_REKEY (R330). -/
  | linkRekey (port : Nat) (peer : BitVec 456) (secret : BitVec 448) (signed : Bool)
  /-- QUEUE_CREATE (R290). -/
  | queueCreate (q : Nat) (cfg : BitVec 256)
  /-- QUEUE_DISABLE (R290). -/
  | queueDisable (q : Nat)
  /-- SQTAIL (R291). -/
  | sqtail (q : Nat) (tail : BitVec 32)
  /-- CQHEAD (R293). -/
  | cqhead (q : Nat) (head : BitVec 32)
  /-- REGISTER_WRITE (R289). -/
  | registerWrite (tower : Bool) (off : Nat) (x : W64)
  /-- HOST_CXL_MEM_WRITE (R235): to a job's page, or to a physical address. -/
  | hostCxlMemWrite (job : Option Nat) (addr : Nat) (bytes : List Byte)
  /-- HOST_CXL_MEM_READ (R235): of a job's page, or of a physical address. -/
  | hostCxlMemRead (job : Option Nat) (addr len : Nat)
  /-- LAUNCH (R347). -/
  | launch (q : Nat) (e : Rec64)
  /-- NODE (R292). -/
  | node (q : Nat) (e : Rec64)
  /-- GROUP (R259). -/
  | group (q : Nat) (e : Rec64)
  /-- INVAL (R233). -/
  | inval (q : Nat) (e : Rec64)
  /-- PIN (R234). -/
  | pin (q : Nat) (e : Rec64)
  /-- HOST_CANCEL (R276). -/
  | hostCancel (q : Nat) (e : Rec64)
  /-- RELEASE (R66). -/
  | release (q : Nat) (e : Rec64)
  /-- SCOPERING (R265). -/
  | scopering (q : Nat) (e : Rec64)
  /-- PREEMPT (R314). -/
  | preempt (q : Nat) (e : Rec64)
  /-- LAYERPWR (R327). -/
  | layerpwr (q : Nat) (e : Rec64)
  /-- SLIPLOG (R294). -/
  | sliplog (q : Nat) (e : Rec64)
  /-- ARBW (R294). -/
  | arbw (q : Nat) (e : Rec64)
  /-- CLOCK (R294). -/
  | clock (q : Nat) (e : Rec64)
  /-- SEAL (R295). -/
  | seal (q : Nat) (e : Rec64)
  /-- INJECT (R350). -/
  | inject (q : Nat) (e : Rec64)
  /-- ILLOP (R42). -/
  | illop (w : SlotWord)
  /-- IMEMUE (R108). -/
  | imemue (c : CtxRef)
  /-- SOFT_ERROR (R70). -/
  | softError (space : BitVec 3) (unit addr bit : Nat)
  /-- COMMAND_HELD (R227). -/
  | commandHeld (id : Nat)
  /-- LAYER_POWER_ON (R327). -/
  | layerPowerOn (q : Nat) (seq : BitVec 32) (tower : Bool) (layer : BitVec 2)
  /-- FULL_SERVICE (R333). -/
  | fullService (passed : Bool)
  /-- POWER_LOSS (R334). -/
  | powerLoss
  /-- PRECISION_TIME_MEASUREMENT (R294). -/
  | precisionTimeMeasurement (time : Nat)
  /-- BAD_OPCODE (R293). -/
  | badOpcode (q : Nat) (e : Rec64)
deriving DecidableEq, Repr

end Sys2Proof
end

