-- ==== Sys2Proof/Machine/Shapes.lean ====
section
/-!
DEFINITION. Which fields of its slot word each instruction uses (R15 to R18, R114 and each instruction's own rule),
and which slot map it belongs to (R35 to R41).
-/

namespace Sys2Proof.Machine

/-- The slot maps (R35 to R41). `k` is the control profile's slot 6; `ev` marks an event, which has no word. -/
inductive SlotMap where
  | any | c | s | v | l | n | t | k | ev
deriving DecidableEq, Repr

/-- What a 6-bit field holds: nothing (must be 0, R18), a register, or an immediate up to a bound. -/
inductive FieldKind where
  | unused | s | v | p | k
  | imm (max : Nat)
deriving DecidableEq, Repr

/-- What P and N name: a guard predicate (R16), a lane mask (R17), or nothing (R114). -/
inductive Guard where
  | pred | mask | plain
deriving DecidableEq, Repr

/-- The use of the fields of a general slot word: `dsrc` D is read, `ddst` D is written, `bdst` B is written,
`ea` and `eb` say whether the policy bits may be set. -/
structure Shape where
  guard : Guard := .pred
  d : FieldKind := .unused
  ddst : Bool := false
  dsrc : Bool := false
  a : FieldKind := .unused
  b : FieldKind := .unused
  bdst : Bool := false
  ea : Bool := false
  eb : Bool := false
deriving DecidableEq, Repr

/-- The shape of LPX, YIELD, RETIRE, RTI, BRK, CHOLD and others. -/
def Shape.bare : Shape := {}

/-- The shape of BRI, SCLOSE, SEGACQ, SEGREL, TICKW, PINV and others. -/
def Shape.srcA : Shape := { a := .s, ea := true }

/-- The shape of BRIL, ABS, CLZ, CTZ, POPC, BREV and others. -/
def Shape.unaryS : Shape := { d := .s, ddst := true, a := .s, ea := true }

/-- The shape of WAIT_GE, CANCEL, CHK_EQ, VAC, PSET, CPY and others. -/
def Shape.srcAB : Shape := { a := .s, b := .s, ea := true, eb := true }

/-- The shape of WAIT_F. -/
def Shape.immB63 : Shape := { b := .imm 63 }

/-- The shape of FENCE_REL, FENCE_ACQ, FENCE_SC. -/
def Shape.immB4 : Shape := { b := .imm 4 }

/-- The shape of XFENCE. -/
def Shape.immB2 : Shape := { b := .imm 2 }

/-- The shape of SPAWN. -/
def Shape.spawn : Shape := { d := .s, ddst := true, a := .s, b := .p, bdst := true, ea := true }

/-- The shape of TRAP. -/
def Shape.imm12 : Shape := { a := .imm 63, b := .imm 63 }

/-- The shape of MFS, MOVI. -/
def Shape.dstImm12 : Shape := { d := .s, ddst := true, a := .imm 63, b := .imm 63 }

/-- The shape of MTS. -/
def Shape.srcDImm12 : Shape := { d := .s, dsrc := true, a := .imm 63, b := .imm 63, ea := true }

/-- The shape of GBAR. -/
def Shape.gbar : Shape := { d := .p, ddst := true, a := .s, ea := true }

/-- The shape of CBAR. -/
def Shape.dstP : Shape := { d := .p, ddst := true }

/-- The shape of SOPEN, LIMM, RNG, TKO. -/
def Shape.dstS : Shape := { d := .s, ddst := true }

/-- The shape of LIMMH. -/
def Shape.modS : Shape := { d := .s, ddst := true, dsrc := true, ea := true }

/-- The shape of ADD, SUB, MUL, MULH, MULHN, DIV and others. -/
def Shape.sss : Shape := { d := .s, ddst := true, a := .s, b := .s, ea := true, eb := true }

/-- The shape of FMA_F32, SMV_H, SMV_W, SMV_D, SDUP, AMO_CAS_D and others. -/
def Shape.sssD : Shape := { d := .s, ddst := true, dsrc := true, a := .s, b := .s, ea := true, eb := true }

/-- The shape of ADDI, ANDI, ORI, XORI, SHLI, SHRI and others. -/
def Shape.ssImm : Shape := { d := .s, ddst := true, a := .s, b := .imm 63, ea := true }

/-- The shape of CMP_EQ, CMP_NE, CMP_LT, CMP_LE, CMP_LTN, CMP_LEN and others. -/
def Shape.pss : Shape := { d := .p, ddst := true, a := .s, b := .s, ea := true, eb := true }

/-- The shape of CMPI_EQ, CMPI_LT. -/
def Shape.psImm : Shape := { d := .p, ddst := true, a := .s, b := .imm 63, ea := true }

/-- The shape of PAND, POR, PXOR. -/
def Shape.ppp : Shape := { d := .p, ddst := true, a := .p, b := .p, ea := true, eb := true }

/-- The shape of PNOT. -/
def Shape.pp : Shape := { d := .p, ddst := true, a := .p, ea := true }

/-- The shape of CHK_P. -/
def Shape.srcPP : Shape := { a := .p, b := .p, ea := true, eb := true }

/-- The shape of VABS, VABS_H, VABS_B, VNOT, VFABS, VFNEG and others. -/
def Shape.unaryV : Shape := { guard := .mask, d := .v, ddst := true, a := .v, ea := true }

/-- The shape of VCMP_EQ, VCMP_LT, VCMP_LT_N32, VCMP_EQ_H, VCMP_LT_H, VCMP_LT_N16 and others. -/
def Shape.kvv : Shape := { guard := .mask, d := .k, ddst := true, a := .v, b := .v, ea := true, eb := true }

/-- The shape of VSHLI, VSHRI, VSRAI. -/
def Shape.vvImm31 : Shape := { guard := .mask, d := .v, ddst := true, a := .v, b := .imm 31, ea := true }

/-- The shape of VFMA, VFMS, VFMA_F16, VFMS_F16, VFMA_BF16, VFMS_BF16 and others. -/
def Shape.vvvD : Shape := { guard := .mask, d := .v, ddst := true, dsrc := true, a := .v, b := .v, ea := true, eb := true }

/-- The shape of VADD, VSUB, VMUL, VMULH, VMIN, VMAX and others. -/
def Shape.vvv : Shape := { guard := .mask, d := .v, ddst := true, a := .v, b := .v, ea := true, eb := true }

/-- The shape of VCVT_F32_F16, VCVT_F32_BF16, VDQMX_E4M3, VDQMX_E5M2, VDQMX_E3M2, VDQMX_E2M3 and others. -/
def Shape.vvImm1 : Shape := { guard := .mask, d := .v, ddst := true, a := .v, b := .imm 1, ea := true }

/-- The shape of VQMX_SR_E4M3, VQMX_SR_E5M2, VQMX_SR_E3M2, VQMX_SR_E2M3, VQMX_SR_E2M1, VQMX_SR_MXI8. -/
def Shape.plainVvvD : Shape := { guard := .plain, d := .v, ddst := true, dsrc := true, a := .v, b := .v, ea := true, eb := true }

/-- The shape of VQMX_E4M3, VQMX_E5M2, VQMX_E3M2, VQMX_E2M3, VQMX_E2M1, VQMX_MXI8. -/
def Shape.plainVvv : Shape := { guard := .plain, d := .v, ddst := true, a := .v, b := .v, ea := true, eb := true }

/-- The shape of VBCAST_W, VBCAST_H, VBCAST_B, VIOTA_W. -/
def Shape.vs : Shape := { guard := .mask, d := .v, ddst := true, a := .s, ea := true }

/-- The shape of VROT. -/
def Shape.vvs : Shape := { guard := .mask, d := .v, ddst := true, a := .v, b := .s, ea := true, eb := true }

/-- The shape of VEXT_W. -/
def Shape.plainSvs : Shape := { guard := .plain, d := .s, ddst := true, a := .v, b := .s, ea := true, eb := true }

/-- The shape of VINS_W. -/
def Shape.vss : Shape := { guard := .mask, d := .v, ddst := true, a := .s, b := .s, ea := true, eb := true }

/-- The shape of VLANE, VUNLANE. -/
def Shape.plainVvImm2 : Shape := { guard := .plain, d := .v, ddst := true, a := .v, b := .imm 2, ea := true }

/-- The shape of KAND, KOR, KXOR. -/
def Shape.plainKkk : Shape := { guard := .plain, d := .k, ddst := true, a := .k, b := .k, ea := true, eb := true }

/-- The shape of KNOT. -/
def Shape.plainKk : Shape := { guard := .plain, d := .k, ddst := true, a := .k, ea := true }

/-- The shape of KPOP. -/
def Shape.plainSk : Shape := { guard := .plain, d := .s, ddst := true, a := .k, ea := true }

/-- The shape of KSET. -/
def Shape.plainKss : Shape := { guard := .plain, d := .k, ddst := true, a := .s, b := .s, ea := true, eb := true }

/-- The shape of KGET. -/
def Shape.plainSkImm1 : Shape := { guard := .plain, d := .s, ddst := true, a := .k, b := .imm 1, ea := true }

/-- The shape of VRNG. -/
def Shape.dstV : Shape := { guard := .mask, d := .v, ddst := true }

/-- The shape of VCHK. -/
def Shape.srcVV : Shape := { guard := .mask, a := .v, b := .v, ea := true, eb := true }

/-- The shape of LD_B, LD_H, LD_W, LD_D, LD_BZ, LD_HZ and others. -/
def Shape.ldS : Shape := { d := .s, ddst := true, a := .s, b := .imm 63, ea := true }

/-- The shape of ST_B, ST_H, ST_W, ST_D, RST_W, RST_D. -/
def Shape.stS : Shape := { d := .s, dsrc := true, a := .s, b := .imm 63, ea := true }

/-- The shape of VLD, VLD_O, VLD_Q, VTAKE, RLD_Q, RLD_O and others. -/
def Shape.ldV : Shape := { d := .v, ddst := true, a := .s, b := .imm 63, ea := true }

/-- The shape of VST, VST_O, VST_Q, RST_Q, RST_O, RVST. -/
def Shape.stV : Shape := { d := .v, dsrc := true, a := .s, b := .imm 63, ea := true }

/-- The shape of VLDS_W, VLDS_H. -/
def Shape.ldVss : Shape := { d := .v, ddst := true, a := .s, b := .s, ea := true, eb := true }

/-- The shape of VLDX_W. -/
def Shape.ldVsv : Shape := { d := .v, ddst := true, a := .s, b := .v, ea := true, eb := true }

/-- The shape of VSTX_W. -/
def Shape.stVsv : Shape := { d := .v, dsrc := true, a := .s, b := .v, ea := true, eb := true }

/-- The shape of PGET. -/
def Shape.sImm7 : Shape := { d := .s, ddst := true, a := .s, b := .imm 7, ea := true }

/-- The shape of MMQ, MMQ_Z, MMQ_RC, MMQ_Z_RC, MMQ_TA, MMQ_Z_TA and others. -/
def Shape.rawSs : Shape := { d := .imm 63, a := .s, b := .s, ea := true, eb := true }

/-- The shape of MZERO. -/
def Shape.rawD : Shape := { d := .imm 63 }

/-- The shape of MSTAT. -/
def Shape.dstRawB : Shape := { d := .s, ddst := true, b := .imm 63 }

/-- The shape of FILL, CPOST. -/
def Shape.srcDAB : Shape := { d := .s, dsrc := true, a := .s, b := .s, ea := true, eb := true }

/-- The shape of JREAD. -/
def Shape.sImm2 : Shape := { d := .s, ddst := true, a := .s, b := .imm 2, ea := true }

/-- The slot map of an instruction. -/
def mapOf : Instr → SlotMap
  | .nop | .extensionOpcode _ _ | .illop _ => .any
  | .br _ | .brl _ | .bri _ | .bril _ | .lp _ | .lpi _ | .lpx _ | .yield _ | .waitGe _ | .waitF _ | .retire _
    | .spawn _ | .trap _ | .rti _ | .mfs _ | .mts _ | .fenceRel _ | .fenceAcq _ | .fenceSc _ | .xfence _
    | .gbar _ | .cbar _ | .sopen _ | .sclose _ | .cancel _ | .segacq _ | .segrel _ | .tickw _ | .brk _ => .c
  | .add _ | .sub _ | .addi _ | .mul _ | .mulh _ | .mulhn _ | .div _ | .divn _ | .rem _ | .remn _ | .min _
    | .max _ | .minn _ | .maxn _ | .abs _ | .and _ | .or _ | .xor _ | .andn _ | .andi _ | .ori _ | .xori _
    | .shl _ | .shr _ | .sra _ | .rotl _ | .shli _ | .shri _ | .srai _ | .clz _ | .ctz _ | .popc _ | .bext _
    | .bdep _ | .brev _ | .cmpEq _ | .cmpNe _ | .cmpLt _ | .cmpLe _ | .cmpLtn _ | .cmpLen _ | .cmpiEq _
    | .cmpiLt _ | .pand _ | .por _ | .pxor _ | .pnot _ | .mov _ | .movi _ | .limm _ _ | .limmh _ _ | .lea1 _
    | .lea2 _ | .lea4 _ | .lea8 _ | .chkEq _ | .chkP _ | .rng _ | .faddF32 _ | .fsubF32 _ | .fmulF32 _
    | .fmaF32 _ | .fcmpLt _ | .fcmpEq _ | .cvtF32I64 _ | .cvtI64F32 _ | .cvtI64F32Rz _ => .s
  | .vadd _ | .vsub _ | .vmul _ | .vmulh _ | .vmin _ | .vmax _ | .vminN32 _ | .vmaxN32 _ | .vabs _ | .vcmpEq _
    | .vcmpLt _ | .vcmpLtN32 _ | .vaddH _ | .vsubH _ | .vmulH _ | .vmulhH _ | .vminH _ | .vmaxH _ | .vminN16 _
    | .vmaxN16 _ | .vabsH _ | .vcmpEqH _ | .vcmpLtH _ | .vcmpLtN16 _ | .vaddB _ | .vsubB _ | .vmulB _
    | .vmulhB _ | .vminB _ | .vmaxB _ | .vminN8 _ | .vmaxN8 _ | .vabsB _ | .vcmpEqB _ | .vcmpLtB _
    | .vcmpLtN8 _ | .vand _ | .vor _ | .vxor _ | .vnot _ | .vshl _ | .vshr _ | .vsra _ | .vshli _ | .vshri _
    | .vsrai _ | .vfadd _ | .vfsub _ | .vfmul _ | .vfma _ | .vfms _ | .vfmin _ | .vfmax _ | .vfabs _ | .vfneg _
    | .vfcmpEq _ | .vfcmpLt _ | .vfcmpLe _ | .vrcp _ | .vrsqrt _ | .vexp2 _ | .vlog2 _ | .vfaddF16 _
    | .vfsubF16 _ | .vfmulF16 _ | .vfmaF16 _ | .vfmsF16 _ | .vfminF16 _ | .vfmaxF16 _ | .vfabsF16 _
    | .vfnegF16 _ | .vfcmpEqF16 _ | .vfcmpLtF16 _ | .vfcmpLeF16 _ | .vfaddBf16 _ | .vfsubBf16 _ | .vfmulBf16 _
    | .vfmaBf16 _ | .vfmsBf16 _ | .vfminBf16 _ | .vfmaxBf16 _ | .vfabsBf16 _ | .vfnegBf16 _ | .vfcmpEqBf16 _
    | .vfcmpLtBf16 _ | .vfcmpLeBf16 _ | .vcvtF16F32 _ | .vcvtBf16F32 _ | .vcvtF32F16 _ | .vcvtF32Bf16 _
    | .vcvtI32F32 _ | .vcvtI32F32Rz _ | .vcvtF32I32 _ | .vsrBf16F32 _ | .vsrF16F32 _ | .vqmxE4m3 _
    | .vqmxE5m2 _ | .vqmxE3m2 _ | .vqmxE2m3 _ | .vqmxE2m1 _ | .vqmxMxi8 _ | .vqmxSrE4m3 _ | .vqmxSrE5m2 _
    | .vqmxSrE3m2 _ | .vqmxSrE2m3 _ | .vqmxSrE2m1 _ | .vqmxSrMxi8 _ | .vdqmxE4m3 _ | .vdqmxE5m2 _
    | .vdqmxE3m2 _ | .vdqmxE2m3 _ | .vdqmxE2m1 _ | .vdqmxMxi8 _ | .vbcastW _ | .vbcastH _ | .vbcastB _
    | .vmov _ | .vsel _ | .vpermW _ | .vpermH _ | .vrot _ | .vextW _ | .vinsW _ | .viotaW _ | .vlane _
    | .vunlane _ | .vredAddF32 _ | .vredMaxF32 _ | .vredMinF32 _ | .vredAddI32 _ | .vscanAddF32 _
    | .vscanMaxI32 _ | .vscanAddI32 _ | .kand _ | .kor _ | .kxor _ | .knot _ | .kpop _ | .kset _ | .kget _
    | .vrng _ | .vchk _ => .v
  | .ldB _ | .ldH _ | .ldW _ | .ldD _ | .ldBz _ | .ldHz _ | .ldWz _ | .stB _ | .stH _ | .stW _ | .stD _
    | .vld _ | .vldO _ | .vldQ _ | .vst _ | .vstO _ | .vstQ _ | .vldsW _ | .vldsH _ | .vldxW _ | .vstxW _
    | .smvH _ | .smvW _ | .smvD _ | .sdup _ | .vac _ | .vtst _ | .vtake _ | .amoAddW _ | .amoAddD _
    | .amoMaxD _ | .amoXchgD _ | .amoCasD _ | .ptst _ => .l
  | .rldW _ | .rldD _ | .rldQ _ | .rldO _ | .rstW _ | .rstD _ | .rstQ _ | .rstO _ | .rvld _ | .rvst _ | .rmvH _
    | .rtst _ | .ramoAddRlx _ | .ramoAddAcq _ | .ramoAddRel _ | .ramoAddAr _ | .ramoMaxRlx _ | .ramoMaxAcq _
    | .ramoMaxRel _ | .ramoMaxAr _ | .ramoXchgRlx _ | .ramoXchgAcq _ | .ramoXchgRel _ | .ramoXchgAr _
    | .ramoCasRlx _ | .ramoCasAcq _ | .ramoCasRel _ | .ramoCasAr _ => .n
  | .pset _ | .pget _ | .pinv _ | .mmq _ | .mmqZ _ | .mmqRc _ | .mmqZRc _ | .mmqTa _ | .mmqZTa _ | .mmqRcTa _
    | .mmqZRcTa _ | .mmqTb _ | .mmqZTb _ | .mmqRcTb _ | .mmqZRcTb _ | .mmqTaTb _ | .mmqZTaTb _ | .mmqRcTaTb _
    | .mmqZRcTaTb _ | .mdrain _ | .mzero _ | .mstat _ | .cpy _ | .engineMove _ | .movNp _ | .cpyNp _ | .pub _
    | .dsc _ | .fill _ | .ctradd _ | .fretry _ | .fskip _ | .kvshare _ | .kvdrop _ | .kvstat _ | .coll _
    | .qpush _ => .t
  | .kscan _ | .qread _ | .jappend _ | .jcommit _ | .jread _ | .npush _ | .cpost _ | .chold _ | .crel _
    | .hbeat _ | .tko _ | .tlbinv _ => .k
  | _ => .ev

/-- The shape of an instruction of the general form; form J, form LP, `nop` and events have none. -/
def shapeOf : Instr → Option Shape
  | .lpx _ | .yield _ | .retire _ | .rti _ | .brk _ | .chold _ | .crel _ | .hbeat _ => some .bare
  | .bri _ | .sclose _ | .segacq _ | .segrel _ | .tickw _ | .pinv _ | .fretry _ | .fskip _ | .kvdrop _
    | .coll _ | .jcommit _ => some .srcA
  | .bril _ | .abs _ | .clz _ | .ctz _ | .popc _ | .brev _ | .mov _ | .cvtF32I64 _ | .cvtI64F32 _
    | .cvtI64F32Rz _ | .vtst _ | .ptst _ | .rtst _ | .kvstat _ | .kscan _ | .tlbinv _ => some .unaryS
  | .waitGe _ | .cancel _ | .chkEq _ | .vac _ | .pset _ | .cpy _ | .engineMove _ | .movNp _ | .cpyNp _ | .pub _
    | .dsc _ | .ctradd _ | .kvshare _ | .qpush _ => some .srcAB
  | .waitF _ => some .immB63
  | .fenceRel _ | .fenceAcq _ | .fenceSc _ => some .immB4
  | .xfence _ => some .immB2
  | .spawn _ => some .spawn
  | .trap _ => some .imm12
  | .mfs _ | .movi _ => some .dstImm12
  | .mts _ => some .srcDImm12
  | .gbar _ => some .gbar
  | .cbar _ => some .dstP
  | .sopen _ | .limm _ _ | .rng _ | .tko _ => some .dstS
  | .limmh _ _ => some .modS
  | .add _ | .sub _ | .mul _ | .mulh _ | .mulhn _ | .div _ | .divn _ | .rem _ | .remn _ | .min _ | .max _
    | .minn _ | .maxn _ | .and _ | .or _ | .xor _ | .andn _ | .shl _ | .shr _ | .sra _ | .rotl _ | .bext _
    | .bdep _ | .lea1 _ | .lea2 _ | .lea4 _ | .lea8 _ | .faddF32 _ | .fsubF32 _ | .fmulF32 _ | .amoAddW _
    | .amoAddD _ | .amoMaxD _ | .amoXchgD _ | .ramoAddRlx _ | .ramoAddAcq _ | .ramoAddRel _ | .ramoAddAr _
    | .ramoMaxRlx _ | .ramoMaxAcq _ | .ramoMaxRel _ | .ramoMaxAr _ | .ramoXchgRlx _ | .ramoXchgAcq _
    | .ramoXchgRel _ | .ramoXchgAr _ | .qread _ | .jappend _ | .npush _ => some .sss
  | .fmaF32 _ | .smvH _ | .smvW _ | .smvD _ | .sdup _ | .amoCasD _ | .rmvH _ | .ramoCasRlx _ | .ramoCasAcq _
    | .ramoCasRel _ | .ramoCasAr _ => some .sssD
  | .addi _ | .andi _ | .ori _ | .xori _ | .shli _ | .shri _ | .srai _ => some .ssImm
  | .cmpEq _ | .cmpNe _ | .cmpLt _ | .cmpLe _ | .cmpLtn _ | .cmpLen _ | .fcmpLt _ | .fcmpEq _ => some .pss
  | .cmpiEq _ | .cmpiLt _ => some .psImm
  | .pand _ | .por _ | .pxor _ => some .ppp
  | .pnot _ => some .pp
  | .chkP _ => some .srcPP
  | .vabs _ | .vabsH _ | .vabsB _ | .vnot _ | .vfabs _ | .vfneg _ | .vrcp _ | .vrsqrt _ | .vexp2 _ | .vlog2 _
    | .vfabsF16 _ | .vfnegF16 _ | .vfabsBf16 _ | .vfnegBf16 _ | .vcvtI32F32 _ | .vcvtI32F32Rz _ | .vcvtF32I32 _
    | .vmov _ | .vredAddF32 _ | .vredMaxF32 _ | .vredMinF32 _ | .vredAddI32 _ | .vscanAddF32 _ | .vscanMaxI32 _
    | .vscanAddI32 _ => some .unaryV
  | .vcmpEq _ | .vcmpLt _ | .vcmpLtN32 _ | .vcmpEqH _ | .vcmpLtH _ | .vcmpLtN16 _ | .vcmpEqB _ | .vcmpLtB _
    | .vcmpLtN8 _ | .vfcmpEq _ | .vfcmpLt _ | .vfcmpLe _ | .vfcmpEqF16 _ | .vfcmpLtF16 _ | .vfcmpLeF16 _
    | .vfcmpEqBf16 _ | .vfcmpLtBf16 _ | .vfcmpLeBf16 _ => some .kvv
  | .vshli _ | .vshri _ | .vsrai _ => some .vvImm31
  | .vfma _ | .vfms _ | .vfmaF16 _ | .vfmsF16 _ | .vfmaBf16 _ | .vfmsBf16 _ | .vsrBf16F32 _ | .vsrF16F32 _
    => some .vvvD
  | .vadd _ | .vsub _ | .vmul _ | .vmulh _ | .vmin _ | .vmax _ | .vminN32 _ | .vmaxN32 _ | .vaddH _ | .vsubH _
    | .vmulH _ | .vmulhH _ | .vminH _ | .vmaxH _ | .vminN16 _ | .vmaxN16 _ | .vaddB _ | .vsubB _ | .vmulB _
    | .vmulhB _ | .vminB _ | .vmaxB _ | .vminN8 _ | .vmaxN8 _ | .vand _ | .vor _ | .vxor _ | .vshl _ | .vshr _
    | .vsra _ | .vfadd _ | .vfsub _ | .vfmul _ | .vfmin _ | .vfmax _ | .vfaddF16 _ | .vfsubF16 _ | .vfmulF16 _
    | .vfminF16 _ | .vfmaxF16 _ | .vfaddBf16 _ | .vfsubBf16 _ | .vfmulBf16 _ | .vfminBf16 _ | .vfmaxBf16 _
    | .vcvtF16F32 _ | .vcvtBf16F32 _ | .vsel _ | .vpermW _ | .vpermH _ => some .vvv
  | .vcvtF32F16 _ | .vcvtF32Bf16 _ | .vdqmxE4m3 _ | .vdqmxE5m2 _ | .vdqmxE3m2 _ | .vdqmxE2m3 _ | .vdqmxE2m1 _
    | .vdqmxMxi8 _ => some .vvImm1
  | .vqmxSrE4m3 _ | .vqmxSrE5m2 _ | .vqmxSrE3m2 _ | .vqmxSrE2m3 _ | .vqmxSrE2m1 _ | .vqmxSrMxi8 _
    => some .plainVvvD
  | .vqmxE4m3 _ | .vqmxE5m2 _ | .vqmxE3m2 _ | .vqmxE2m3 _ | .vqmxE2m1 _ | .vqmxMxi8 _ => some .plainVvv
  | .vbcastW _ | .vbcastH _ | .vbcastB _ | .viotaW _ => some .vs
  | .vrot _ => some .vvs
  | .vextW _ => some .plainSvs
  | .vinsW _ => some .vss
  | .vlane _ | .vunlane _ => some .plainVvImm2
  | .kand _ | .kor _ | .kxor _ => some .plainKkk
  | .knot _ => some .plainKk
  | .kpop _ => some .plainSk
  | .kset _ => some .plainKss
  | .kget _ => some .plainSkImm1
  | .vrng _ => some .dstV
  | .vchk _ => some .srcVV
  | .ldB _ | .ldH _ | .ldW _ | .ldD _ | .ldBz _ | .ldHz _ | .ldWz _ | .rldW _ | .rldD _ => some .ldS
  | .stB _ | .stH _ | .stW _ | .stD _ | .rstW _ | .rstD _ => some .stS
  | .vld _ | .vldO _ | .vldQ _ | .vtake _ | .rldQ _ | .rldO _ | .rvld _ => some .ldV
  | .vst _ | .vstO _ | .vstQ _ | .rstQ _ | .rstO _ | .rvst _ => some .stV
  | .vldsW _ | .vldsH _ => some .ldVss
  | .vldxW _ => some .ldVsv
  | .vstxW _ => some .stVsv
  | .pget _ => some .sImm7
  | .mmq _ | .mmqZ _ | .mmqRc _ | .mmqZRc _ | .mmqTa _ | .mmqZTa _ | .mmqRcTa _ | .mmqZRcTa _ | .mmqTb _
    | .mmqZTb _ | .mmqRcTb _ | .mmqZRcTb _ | .mmqTaTb _ | .mmqZTaTb _ | .mmqRcTaTb _ | .mmqZRcTaTb _
    | .mdrain _ => some .rawSs
  | .mzero _ => some .rawD
  | .mstat _ => some .dstRawB
  | .fill _ | .cpost _ => some .srcDAB
  | .jread _ => some .sImm2
  | _ => none

/-- The general fields of an instruction; all zero where it has none. -/
def fieldsOf : Instr → G
  | .bri g | .bril g | .lpx g | .yield g | .waitGe g | .waitF g | .retire g | .spawn g | .trap g | .rti g
    | .mfs g | .mts g | .fenceRel g | .fenceAcq g | .fenceSc g | .xfence g | .gbar g | .cbar g | .sopen g
    | .sclose g | .cancel g | .segacq g | .segrel g | .tickw g | .brk g | .add g | .sub g | .addi g | .mul g
    | .mulh g | .mulhn g | .div g | .divn g | .rem g | .remn g | .min g | .max g | .minn g | .maxn g | .abs g
    | .and g | .or g | .xor g | .andn g | .andi g | .ori g | .xori g | .shl g | .shr g | .sra g | .rotl g
    | .shli g | .shri g | .srai g | .clz g | .ctz g | .popc g | .bext g | .bdep g | .brev g | .cmpEq g
    | .cmpNe g | .cmpLt g | .cmpLe g | .cmpLtn g | .cmpLen g | .cmpiEq g | .cmpiLt g | .pand g | .por g
    | .pxor g | .pnot g | .mov g | .movi g | .limm g _ | .limmh g _ | .lea1 g | .lea2 g | .lea4 g | .lea8 g
    | .chkEq g | .chkP g | .rng g | .faddF32 g | .fsubF32 g | .fmulF32 g | .fmaF32 g | .fcmpLt g | .fcmpEq g
    | .cvtF32I64 g | .cvtI64F32 g | .cvtI64F32Rz g | .vadd g | .vsub g | .vmul g | .vmulh g | .vmin g | .vmax g
    | .vminN32 g | .vmaxN32 g | .vabs g | .vcmpEq g | .vcmpLt g | .vcmpLtN32 g | .vaddH g | .vsubH g | .vmulH g
    | .vmulhH g | .vminH g | .vmaxH g | .vminN16 g | .vmaxN16 g | .vabsH g | .vcmpEqH g | .vcmpLtH g
    | .vcmpLtN16 g | .vaddB g | .vsubB g | .vmulB g | .vmulhB g | .vminB g | .vmaxB g | .vminN8 g | .vmaxN8 g
    | .vabsB g | .vcmpEqB g | .vcmpLtB g | .vcmpLtN8 g | .vand g | .vor g | .vxor g | .vnot g | .vshl g
    | .vshr g | .vsra g | .vshli g | .vshri g | .vsrai g | .vfadd g | .vfsub g | .vfmul g | .vfma g | .vfms g
    | .vfmin g | .vfmax g | .vfabs g | .vfneg g | .vfcmpEq g | .vfcmpLt g | .vfcmpLe g | .vrcp g | .vrsqrt g
    | .vexp2 g | .vlog2 g | .vfaddF16 g | .vfsubF16 g | .vfmulF16 g | .vfmaF16 g | .vfmsF16 g | .vfminF16 g
    | .vfmaxF16 g | .vfabsF16 g | .vfnegF16 g | .vfcmpEqF16 g | .vfcmpLtF16 g | .vfcmpLeF16 g | .vfaddBf16 g
    | .vfsubBf16 g | .vfmulBf16 g | .vfmaBf16 g | .vfmsBf16 g | .vfminBf16 g | .vfmaxBf16 g | .vfabsBf16 g
    | .vfnegBf16 g | .vfcmpEqBf16 g | .vfcmpLtBf16 g | .vfcmpLeBf16 g | .vcvtF16F32 g | .vcvtBf16F32 g
    | .vcvtF32F16 g | .vcvtF32Bf16 g | .vcvtI32F32 g | .vcvtI32F32Rz g | .vcvtF32I32 g | .vsrBf16F32 g
    | .vsrF16F32 g | .vqmxE4m3 g | .vqmxE5m2 g | .vqmxE3m2 g | .vqmxE2m3 g | .vqmxE2m1 g | .vqmxMxi8 g
    | .vqmxSrE4m3 g | .vqmxSrE5m2 g | .vqmxSrE3m2 g | .vqmxSrE2m3 g | .vqmxSrE2m1 g | .vqmxSrMxi8 g
    | .vdqmxE4m3 g | .vdqmxE5m2 g | .vdqmxE3m2 g | .vdqmxE2m3 g | .vdqmxE2m1 g | .vdqmxMxi8 g | .vbcastW g
    | .vbcastH g | .vbcastB g | .vmov g | .vsel g | .vpermW g | .vpermH g | .vrot g | .vextW g | .vinsW g
    | .viotaW g | .vlane g | .vunlane g | .vredAddF32 g | .vredMaxF32 g | .vredMinF32 g | .vredAddI32 g
    | .vscanAddF32 g | .vscanMaxI32 g | .vscanAddI32 g | .kand g | .kor g | .kxor g | .knot g | .kpop g
    | .kset g | .kget g | .vrng g | .vchk g | .ldB g | .ldH g | .ldW g | .ldD g | .ldBz g | .ldHz g | .ldWz g
    | .stB g | .stH g | .stW g | .stD g | .vld g | .vldO g | .vldQ g | .vst g | .vstO g | .vstQ g | .vldsW g
    | .vldsH g | .vldxW g | .vstxW g | .smvH g | .smvW g | .smvD g | .sdup g | .vac g | .vtst g | .vtake g
    | .amoAddW g | .amoAddD g | .amoMaxD g | .amoXchgD g | .amoCasD g | .ptst g | .rldW g | .rldD g | .rldQ g
    | .rldO g | .rstW g | .rstD g | .rstQ g | .rstO g | .rvld g | .rvst g | .rmvH g | .rtst g | .ramoAddRlx g
    | .ramoAddAcq g | .ramoAddRel g | .ramoAddAr g | .ramoMaxRlx g | .ramoMaxAcq g | .ramoMaxRel g
    | .ramoMaxAr g | .ramoXchgRlx g | .ramoXchgAcq g | .ramoXchgRel g | .ramoXchgAr g | .ramoCasRlx g
    | .ramoCasAcq g | .ramoCasRel g | .ramoCasAr g | .pset g | .pget g | .pinv g | .mmq g | .mmqZ g | .mmqRc g
    | .mmqZRc g | .mmqTa g | .mmqZTa g | .mmqRcTa g | .mmqZRcTa g | .mmqTb g | .mmqZTb g | .mmqRcTb g
    | .mmqZRcTb g | .mmqTaTb g | .mmqZTaTb g | .mmqRcTaTb g | .mmqZRcTaTb g | .mdrain g | .mzero g | .mstat g
    | .cpy g | .engineMove g | .movNp g | .cpyNp g | .pub g | .dsc g | .fill g | .ctradd g | .fretry g
    | .fskip g | .kvshare g | .kvdrop g | .kvstat g | .coll g | .qpush g | .kscan g | .qread g | .jappend g
    | .jcommit g | .jread g | .npush g | .cpost g | .chold g | .crel g | .hbeat g | .tko g | .tlbinv g => g
  | .extensionOpcode _ g => g
  | _ => ⟨false, 0, false, false, 0, 0, 0⟩

end Sys2Proof.Machine
end

