-- ==== Sys2Proof/WellFormed.lean ====
section
/-!
DEFINITION. Well-formedness of instructions: the field rules of R16 to R21, R114 and of each instruction (R42).
-/

namespace Sys2Proof

open Machine (Shape FieldKind Guard shapeOf fieldsOf)

/-- A guard predicate that can be true (R16). -/
def guardOk (n : Bool) (p : BitVec 3) : Bool := !(n && p == 0)

/-- What P and N may hold (R16, R17, R114). -/
def Machine.Guard.ok : Guard → Bool → BitVec 3 → Bool
  | .pred, n, p => guardOk n p
  | .mask, _, _ => true
  | .plain, n, p => !n && p == 0

/-- What a 6-bit field may hold (R18). -/
def Machine.FieldKind.ok : FieldKind → BitVec 6 → Bool
  | .unused, x => x == 0
  | .s, _ => true
  | .v, _ => true
  | .p, x => decide (x.toNat < 8)
  | .k, x => decide (x.toNat < 8)
  | .imm m, x => decide (x.toNat ≤ m)

/-- The field rules of a general slot word. -/
def Machine.Shape.ok (h : Shape) (g : G) : Bool :=
  h.guard.ok g.n g.p && h.d.ok g.d && h.a.ok g.a && h.b.ok g.b && (h.ea || !g.ea) && (h.eb || !g.eb)

/-- The 12-bit immediate in A:B (R21, R47, R63). -/
def G.imm12 (g : G) : BitVec 12 := g.a ++ g.b

/-- The special registers that R21 lists. -/
def specNums : List (BitVec 12) :=
  [0x000, 0x001, 0x002, 0x003, 0x004, 0x005, 0x006, 0x007, 0x010, 0x011, 0x012, 0x020, 0x021, 0x022, 0x023,
   0x030, 0x031, 0x040, 0x041, 0x050, 0xFF0, 0xFF1]

/-- The special registers without an RW field, which `mts` may not name (R58). -/
def noRwSpecs : List (BitVec 12) :=
  [0x003, 0x005, 0x006, 0x007, 0x012, 0x020, 0x021, 0x022, 0x023, 0x030, 0x031, 0xFF0, 0xFF1]

/-- Well-formedness: what a slot word that raises no decoding ILLOP decodes to. An extension opcode has no field
rule beyond R16 (R42), which slots 2 and 3 do not apply (R17). An event has no word. -/
def Instr.wf (i : Instr) : Bool :=
  match i with
  | .nop => true
  | .br j => guardOk j.n j.p
  | .brl j => guardOk j.n j.p
  | .lp l => guardOk l.n l.p && l.e != 0
  | .lpi l => guardOk l.n l.p && l.e != 0
  | .mfs g => Shape.dstImm12.ok g && specNums.contains g.imm12
  | .mts g => Shape.srcDImm12.ok g && specNums.contains g.imm12 && !noRwSpecs.contains g.imm12
  | .jread g => Shape.sImm2.ok g && (g.b == 2 || g.a == 0)
  | i => match shapeOf i with
    | some h => h.ok (fieldsOf i)
    | none => true

end Sys2Proof
end

