-- ==== Sys2Proof/Decode.lean ====
section
/-!
DEFINITION. Decoding slot words (R15 to R22, R35 to R42) and, after it, the encoder. The slot map of a word is given
by its slot and profile, so the decoder takes the map; the word 0 is `nop` in every map. A word that is no
instruction decodes to `illop`, which carries it; an extension opcode to `extensionOpcode`. The word noncomputable
marks only that Lean's compiler cannot build a constructor with fields beyond the 244th; the kernel evaluates all.
-/

namespace Sys2Proof

open Machine (SlotMap Shape fieldsOf)

/-- The fields of a general slot word (R15). -/
def unpackG (w : SlotWord) : G :=
  { n := w.getLsbD 31, p := w.extractLsb' 28 3, ea := w.getLsbD 19, eb := w.getLsbD 18,
    d := w.extractLsb' 12 6, a := w.extractLsb' 6 6, b := w.extractLsb' 0 6 }

/-- The fields of form J (R19). -/
def unpackJ (w : SlotWord) : J := { n := w.getLsbD 31, p := w.extractLsb' 28 3, t := w.extractLsb' 0 20 }

/-- The fields of `lp` (R20). -/
def unpackLp (w : SlotWord) : LpReg :=
  { n := w.getLsbD 31, p := w.extractLsb' 28 3, c := w.extractLsb' 14 6, e := w.extractLsb' 0 14 }

/-- The fields of `lpi` (R20). -/
def unpackLpi (w : SlotWord) : LpImm :=
  { n := w.getLsbD 31, p := w.extractLsb' 28 3, c := w.extractLsb' 10 10, e := w.extractLsb' 0 10 }

/-- The opcode of a slot word (R15). -/
def opcodeOf (w : SlotWord) : Nat := (w.extractLsb' 20 8).toNat

/-- Looks an opcode up in a map. -/
def findOp : List (Nat × (G → Instr)) → Nat → Option (G → Instr)
  | [], _ => none
  | (a, f) :: l, k => if a = k then some f else findOp l k

/-- The opcodes of slot 0 (R35). -/
noncomputable def controlMap : List (Nat × (G → Instr)) := [
  (0x03, .bri), (0x04, .bril), (0x07, .lpx), (0x08, .yield), (0x09, .waitGe), (0x0A, .waitF), (0x0B, .retire),
  (0x0C, .spawn), (0x0D, .trap), (0x0E, .rti), (0x0F, .mfs), (0x10, .mts), (0x11, .fenceRel), (0x12, .fenceAcq),
  (0x13, .fenceSc), (0x14, .xfence), (0x15, .gbar), (0x16, .cbar), (0x17, .sopen), (0x18, .sclose),
  (0x19, .cancel), (0x1A, .segacq), (0x1B, .segrel), (0x1C, .tickw), (0x1D, .brk)]

/-- The opcodes of slots 1 and 7, part 1 (R36). -/
noncomputable def scalarMap1 : List (Nat × (G → Instr)) := [
  (0x01, .add), (0x02, .sub), (0x03, .addi), (0x04, .mul), (0x05, .mulh), (0x06, .mulhn), (0x07, .div),
  (0x08, .divn), (0x09, .rem), (0x0A, .remn), (0x0B, .min), (0x0C, .max), (0x0D, .minn), (0x0E, .maxn),
  (0x0F, .abs), (0x10, .and), (0x11, .or), (0x12, .xor), (0x13, .andn), (0x14, .andi), (0x15, .ori), (0x16, .xori),
  (0x18, .shl), (0x19, .shr), (0x1A, .sra), (0x1B, .rotl), (0x1C, .shli), (0x1D, .shri), (0x1E, .srai),
  (0x20, .clz)]

/-- The opcodes of slots 1 and 7, part 2 (R36). -/
noncomputable def scalarMap2 : List (Nat × (G → Instr)) := [
  (0x21, .ctz), (0x22, .popc), (0x23, .bext), (0x24, .bdep), (0x25, .brev), (0x28, .cmpEq), (0x29, .cmpNe),
  (0x2A, .cmpLt), (0x2B, .cmpLe), (0x2C, .cmpLtn), (0x2D, .cmpLen), (0x2E, .cmpiEq), (0x2F, .cmpiLt),
  (0x30, .pand), (0x31, .por), (0x32, .pxor), (0x33, .pnot), (0x34, .mov), (0x35, .movi), (0x38, .lea1),
  (0x39, .lea2), (0x3A, .lea4), (0x3B, .lea8), (0x40, .chkEq), (0x41, .chkP), (0x44, .rng), (0x50, .faddF32),
  (0x51, .fsubF32), (0x52, .fmulF32), (0x53, .fmaF32)]

/-- The opcodes of slots 1 and 7, part 3 (R36). -/
noncomputable def scalarMap3 : List (Nat × (G → Instr)) := [
  (0x54, .fcmpLt), (0x55, .fcmpEq), (0x56, .cvtF32I64), (0x57, .cvtI64F32), (0x58, .cvtI64F32Rz)]

/-- The opcodes of that map (R36). -/
noncomputable def scalarMap : List (Nat × (G → Instr)) := scalarMap1 ++ scalarMap2 ++ scalarMap3

/-- The opcodes of slots 2 and 3, part 1 (R37). -/
noncomputable def vectorMap1 : List (Nat × (G → Instr)) := [
  (0x01, .vadd), (0x02, .vsub), (0x03, .vmul), (0x04, .vmulh), (0x05, .vmin), (0x06, .vmax), (0x07, .vminN32),
  (0x08, .vmaxN32), (0x09, .vabs), (0x0A, .vcmpEq), (0x0B, .vcmpLt), (0x0C, .vcmpLtN32), (0x11, .vaddH),
  (0x12, .vsubH), (0x13, .vmulH), (0x14, .vmulhH), (0x15, .vminH), (0x16, .vmaxH), (0x17, .vminN16),
  (0x18, .vmaxN16), (0x19, .vabsH), (0x1A, .vcmpEqH), (0x1B, .vcmpLtH), (0x1C, .vcmpLtN16), (0x21, .vaddB),
  (0x22, .vsubB), (0x23, .vmulB), (0x24, .vmulhB), (0x25, .vminB), (0x26, .vmaxB)]

/-- The opcodes of slots 2 and 3, part 2 (R37). -/
noncomputable def vectorMap2 : List (Nat × (G → Instr)) := [
  (0x27, .vminN8), (0x28, .vmaxN8), (0x29, .vabsB), (0x2A, .vcmpEqB), (0x2B, .vcmpLtB), (0x2C, .vcmpLtN8),
  (0x30, .vand), (0x31, .vor), (0x32, .vxor), (0x33, .vnot), (0x34, .vshl), (0x35, .vshr), (0x36, .vsra),
  (0x37, .vshli), (0x38, .vshri), (0x39, .vsrai), (0x40, .vfadd), (0x41, .vfsub), (0x42, .vfmul), (0x43, .vfma),
  (0x44, .vfms), (0x45, .vfmin), (0x46, .vfmax), (0x47, .vfabs), (0x48, .vfneg), (0x49, .vfcmpEq),
  (0x4A, .vfcmpLt), (0x4B, .vfcmpLe), (0x4C, .vrcp), (0x4D, .vrsqrt)]

/-- The opcodes of slots 2 and 3, part 3 (R37). -/
noncomputable def vectorMap3 : List (Nat × (G → Instr)) := [
  (0x4E, .vexp2), (0x4F, .vlog2), (0x50, .vfaddF16), (0x51, .vfsubF16), (0x52, .vfmulF16), (0x53, .vfmaF16),
  (0x54, .vfmsF16), (0x55, .vfminF16), (0x56, .vfmaxF16), (0x57, .vfabsF16), (0x58, .vfnegF16),
  (0x59, .vfcmpEqF16), (0x5A, .vfcmpLtF16), (0x5B, .vfcmpLeF16), (0x60, .vfaddBf16), (0x61, .vfsubBf16),
  (0x62, .vfmulBf16), (0x63, .vfmaBf16), (0x64, .vfmsBf16), (0x65, .vfminBf16), (0x66, .vfmaxBf16),
  (0x67, .vfabsBf16), (0x68, .vfnegBf16), (0x69, .vfcmpEqBf16), (0x6A, .vfcmpLtBf16), (0x6B, .vfcmpLeBf16),
  (0x70, .vcvtF16F32), (0x71, .vcvtBf16F32), (0x72, .vcvtF32F16), (0x73, .vcvtF32Bf16)]

/-- The opcodes of slots 2 and 3, part 4 (R37). -/
noncomputable def vectorMap4 : List (Nat × (G → Instr)) := [
  (0x74, .vcvtI32F32), (0x75, .vcvtI32F32Rz), (0x76, .vcvtF32I32), (0x77, .vsrBf16F32), (0x78, .vsrF16F32),
  (0x79, .vqmxE4m3), (0x7A, .vqmxE5m2), (0x7B, .vqmxE3m2), (0x7C, .vqmxE2m3), (0x7D, .vqmxE2m1), (0x7E, .vqmxMxi8),
  (0x80, .vqmxSrE4m3), (0x81, .vqmxSrE5m2), (0x82, .vqmxSrE3m2), (0x83, .vqmxSrE2m3), (0x84, .vqmxSrE2m1),
  (0x85, .vqmxSrMxi8), (0x88, .vdqmxE4m3), (0x89, .vdqmxE5m2), (0x8A, .vdqmxE3m2), (0x8B, .vdqmxE2m3),
  (0x8C, .vdqmxE2m1), (0x8D, .vdqmxMxi8), (0x90, .vbcastW), (0x91, .vbcastH), (0x92, .vbcastB), (0x93, .vmov),
  (0x94, .vsel), (0x95, .vpermW), (0x96, .vpermH)]

/-- The opcodes of slots 2 and 3, part 5 (R37). -/
noncomputable def vectorMap5 : List (Nat × (G → Instr)) := [
  (0x97, .vrot), (0x98, .vextW), (0x99, .vinsW), (0x9A, .viotaW), (0x9B, .vlane), (0x9C, .vunlane),
  (0xA0, .vredAddF32), (0xA1, .vredMaxF32), (0xA2, .vredMinF32), (0xA3, .vredAddI32), (0xA4, .vscanAddF32),
  (0xA5, .vscanMaxI32), (0xA6, .vscanAddI32), (0xB0, .kand), (0xB1, .kor), (0xB2, .kxor), (0xB3, .knot),
  (0xB4, .kpop), (0xB5, .kset), (0xB6, .kget), (0xC0, .vrng), (0xC4, .vchk)]

/-- The opcodes of that map (R37). -/
noncomputable def vectorMap : List (Nat × (G → Instr)) := vectorMap1 ++ vectorMap2 ++ vectorMap3 ++ vectorMap4 ++ vectorMap5

/-- The opcodes of slot 4, part 1 (R38). -/
noncomputable def localMap1 : List (Nat × (G → Instr)) := [
  (0x01, .ldB), (0x02, .ldH), (0x03, .ldW), (0x04, .ldD), (0x05, .ldBz), (0x06, .ldHz), (0x07, .ldWz),
  (0x08, .stB), (0x09, .stH), (0x0A, .stW), (0x0B, .stD), (0x10, .vld), (0x11, .vldO), (0x12, .vldQ), (0x13, .vst),
  (0x14, .vstO), (0x15, .vstQ), (0x16, .vldsW), (0x17, .vldsH), (0x18, .vldxW), (0x19, .vstxW), (0x20, .smvH),
  (0x21, .smvW), (0x22, .smvD), (0x23, .sdup), (0x24, .vac), (0x25, .vtst), (0x26, .vtake), (0x30, .amoAddW),
  (0x31, .amoAddD)]

/-- The opcodes of slot 4, part 2 (R38). -/
noncomputable def localMap2 : List (Nat × (G → Instr)) := [
  (0x32, .amoMaxD), (0x33, .amoXchgD), (0x34, .amoCasD), (0x38, .ptst)]

/-- The opcodes of that map (R38). -/
noncomputable def localMap : List (Nat × (G → Instr)) := localMap1 ++ localMap2

/-- The opcodes of slot 5 (R39). -/
noncomputable def atelierMap : List (Nat × (G → Instr)) := [
  (0x01, .rldW), (0x02, .rldD), (0x03, .rldQ), (0x04, .rldO), (0x05, .rstW), (0x06, .rstD), (0x07, .rstQ),
  (0x08, .rstO), (0x09, .rvld), (0x0A, .rvst), (0x0B, .rmvH), (0x0C, .rtst), (0x10, .ramoAddRlx),
  (0x11, .ramoAddAcq), (0x12, .ramoAddRel), (0x13, .ramoAddAr), (0x14, .ramoMaxRlx), (0x15, .ramoMaxAcq),
  (0x16, .ramoMaxRel), (0x17, .ramoMaxAr), (0x18, .ramoXchgRlx), (0x19, .ramoXchgAcq), (0x1A, .ramoXchgRel),
  (0x1B, .ramoXchgAr), (0x1C, .ramoCasRlx), (0x1D, .ramoCasAcq), (0x1E, .ramoCasRel), (0x1F, .ramoCasAr)]

/-- The opcodes of slot 6, part 1 (R40). -/
noncomputable def tileMap1 : List (Nat × (G → Instr)) := [
  (0x01, .pset), (0x02, .pget), (0x03, .pinv), (0x10, .mmq), (0x11, .mmqZ), (0x12, .mmqRc), (0x13, .mmqZRc),
  (0x14, .mmqTa), (0x15, .mmqZTa), (0x16, .mmqRcTa), (0x17, .mmqZRcTa), (0x18, .mmqTb), (0x19, .mmqZTb),
  (0x1A, .mmqRcTb), (0x1B, .mmqZRcTb), (0x1C, .mmqTaTb), (0x1D, .mmqZTaTb), (0x1E, .mmqRcTaTb),
  (0x1F, .mmqZRcTaTb), (0x20, .mdrain), (0x21, .mzero), (0x22, .mstat), (0x30, .cpy), (0x31, .engineMove),
  (0x32, .movNp), (0x33, .cpyNp), (0x34, .pub), (0x35, .dsc), (0x36, .fill), (0x37, .ctradd)]

/-- The opcodes of slot 6, part 2 (R40). -/
noncomputable def tileMap2 : List (Nat × (G → Instr)) := [
  (0x38, .fretry), (0x39, .fskip), (0x42, .kvshare), (0x43, .kvdrop), (0x44, .kvstat), (0x48, .coll),
  (0x50, .qpush)]

/-- The opcodes of that map (R40). -/
noncomputable def tileMap : List (Nat × (G → Instr)) := tileMap1 ++ tileMap2

/-- The opcodes of slot 6 of a control core (R41). -/
noncomputable def easelMap : List (Nat × (G → Instr)) := [
  (0x01, .kscan), (0x02, .qread), (0x03, .jappend), (0x04, .jcommit), (0x05, .jread), (0x06, .npush),
  (0x07, .cpost), (0x08, .chold), (0x09, .crel), (0x0A, .hbeat), (0x0B, .tko), (0x0C, .tlbinv)]

/-- The general opcodes of a slot map. -/
noncomputable def generalMap : SlotMap → List (Nat × (G → Instr))
  | .c => controlMap
  | .s => scalarMap
  | .v => vectorMap
  | .l => localMap
  | .n => atelierMap
  | .t => tileMap
  | .k => easelMap
  | .any => []
  | .ev => []

/-- What a nonzero word names in a slot map, its field rules aside; `imm` is the word of the twin slot (R22). -/
noncomputable def rawDecode (m : SlotMap) (w imm : SlotWord) : Instr :=
  let op := opcodeOf w
  if 0xE0 ≤ op then .extensionOpcode (w.extractLsb' 20 5) (unpackG w)
  else match m, op with
  | .c, 0x01 => .br (unpackJ w)
  | .c, 0x02 => .brl (unpackJ w)
  | .c, 0x05 => .lp (unpackLp w)
  | .c, 0x06 => .lpi (unpackLpi w)
  | .s, 0x36 => .limm (unpackG w) imm
  | .s, 0x37 => .limmh (unpackG w) imm
  | m, op => match findOp (generalMap m) op with
    | some f => f (unpackG w)
    | none => .illop w

/-- Whether an instruction obeys its field rules in a slot map: an extension opcode obeys R16 but in the vector
slots (R42). -/
def wfIn (m : SlotMap) (i : Instr) : Bool :=
  match i with
  | .extensionOpcode _ g => m == .v || guardOk g.n g.p
  | i => i.wf

/-- The instruction that a word is in a slot map (R42). -/
noncomputable def decodeWord (m : SlotMap) (w imm : SlotWord) : Instr :=
  if w = 0 then .nop
  else if wfIn m (rawDecode m w imm) then rawDecode m w imm else .illop w

/-- What the control profile accepts of slots 0 and 4 (R41); an extension opcode stays one (R42). -/
def controlAccepts : Instr → Bool
  | .yield _ | .waitF _ | .retire _ | .spawn _ | .xfence _ | .gbar _ | .cbar _ | .sopen _ | .sclose _ | .cancel _
  | .segacq _ | .segrel _ | .tickw _ => false
  | .vld _ | .vldO _ | .vldQ _ | .vst _ | .vstO _ | .vstQ _ | .vldsW _ | .vldsH _ | .vldxW _ | .vstxW _ | .smvH _
  | .smvW _ | .smvD _ | .sdup _ | .vac _ | .vtst _ | .vtake _ | .ptst _ => false
  | _ => true

/-- The slot map of a slot under a profile (R13, R35 to R41); `any` where the profile has no unit. -/
def slotMap (ctl : Bool) (k : Nat) : SlotMap :=
  match k with
  | 0 => .c
  | 1 => .s
  | 7 => .s
  | 2 => if ctl then .any else .v
  | 3 => if ctl then .any else .v
  | 4 => .l
  | 5 => if ctl then .any else .n
  | _ => if ctl then .k else .t

/-- The instruction in slot k, for a compute or a control core; `imm` is the twin slot's word (R22). -/
noncomputable def decodeSlot (ctl : Bool) (k : Nat) (w imm : SlotWord) : Instr :=
  if w = 0 then .nop
  else match slotMap ctl k with
  | .any => .illop w
  | m => if !ctl || controlAccepts (decodeWord m w imm) then decodeWord m w imm else .illop w

/-- Whether a word is `limm` or `limmh` (R22). -/
def isLongImm (w : SlotWord) : Bool := opcodeOf w == 0x36 || opcodeOf w == 0x37

/-- Word k of a bundle. -/
def wordAt (ws : List SlotWord) (k : Nat) : SlotWord := ws.getD k 0

/-- The slot whose word is an immediate, if the bundle holds a long-immediate pair (R22). -/
def immSlot (ws : List SlotWord) : Option Nat :=
  if isLongImm (wordAt ws 1) then some 7 else if isLongImm (wordAt ws 7) then some 1 else none

/-- The twin slot whose word slot k takes as its immediate. -/
def twinWord (ws : List SlotWord) (k : Nat) : SlotWord :=
  if k = 1 then wordAt ws 7 else if k = 7 then wordAt ws 1 else 0

/-- Slot k of a bundle, with the slots of EMUL treated as `nop` (R45); an immediate word is not decoded (R22). -/
noncomputable def decodeAt (ctl : Bool) (emul : BitVec 8) (ws : List SlotWord) (k : Nat) : Instr :=
  if emul.getLsbD k || immSlot ws == some k then .nop else decodeSlot ctl k (wordAt ws k) (twinWord ws k)

/-- A bundle: its slots in order with their instructions (R28). -/
noncomputable def decodeBundle (ctl : Bool) (emul : BitVec 8) (ws : List SlotWord) : List (Nat × Instr) :=
  (List.range 8).map fun k => (k, decodeAt ctl emul ws k)

/-- The slot map in which a word alone is read: the first, in the order of R35 to R41, in which it is an instruction; a
word does not say its slot (log 14, DESIGN CHOICE). -/
noncomputable def tableMap (x : SlotWord) : Option SlotMap :=
  [SlotMap.c, .s, .v, .l, .n, .t, .k].find? fun m => match decodeWord m x 0 with
    | .illop _ => false
    | _ => true

/-- The instruction of the opcode table that a word names. -/
noncomputable def decodeTableWord (nbits w : Nat) : Option Instr :=
  if nbits = 32 ∧ w < 2 ^ 32 then (tableMap (BitVec.ofNat 32 w)).map fun m => decodeWord m (BitVec.ofNat 32 w) 0 else none

/-! The encoder. -/

/-- The word of general fields under an opcode (R15). -/
def packG (op : BitVec 8) (g : G) : SlotWord :=
  BitVec.ofBool g.n ++ g.p ++ op ++ BitVec.ofBool g.ea ++ BitVec.ofBool g.eb ++ g.d ++ g.a ++ g.b

/-- Form J (R19). -/
def packJ (op : BitVec 8) (j : J) : SlotWord := BitVec.ofBool j.n ++ j.p ++ op ++ j.t

/-- Form LP of `lp` (R20). -/
def packLp (op : BitVec 8) (l : LpReg) : SlotWord := BitVec.ofBool l.n ++ l.p ++ op ++ l.c ++ l.e

/-- Form LP of `lpi` (R20). -/
def packLpi (op : BitVec 8) (l : LpImm) : SlotWord := BitVec.ofBool l.n ++ l.p ++ op ++ l.c ++ l.e

/-- The opcode of each instruction of the general form (R35 to R41). -/
def opOf : Instr → BitVec 8
  | .br _ => 0x01
  | .brl _ => 0x02
  | .bri _ => 0x03
  | .bril _ => 0x04
  | .lp _ => 0x05
  | .lpi _ => 0x06
  | .lpx _ => 0x07
  | .yield _ => 0x08
  | .waitGe _ => 0x09
  | .waitF _ => 0x0A
  | .retire _ => 0x0B
  | .spawn _ => 0x0C
  | .trap _ => 0x0D
  | .rti _ => 0x0E
  | .mfs _ => 0x0F
  | .mts _ => 0x10
  | .fenceRel _ => 0x11
  | .fenceAcq _ => 0x12
  | .fenceSc _ => 0x13
  | .xfence _ => 0x14
  | .gbar _ => 0x15
  | .cbar _ => 0x16
  | .sopen _ => 0x17
  | .sclose _ => 0x18
  | .cancel _ => 0x19
  | .segacq _ => 0x1A
  | .segrel _ => 0x1B
  | .tickw _ => 0x1C
  | .brk _ => 0x1D
  | .add _ => 0x01
  | .sub _ => 0x02
  | .addi _ => 0x03
  | .mul _ => 0x04
  | .mulh _ => 0x05
  | .mulhn _ => 0x06
  | .div _ => 0x07
  | .divn _ => 0x08
  | .rem _ => 0x09
  | .remn _ => 0x0A
  | .min _ => 0x0B
  | .max _ => 0x0C
  | .minn _ => 0x0D
  | .maxn _ => 0x0E
  | .abs _ => 0x0F
  | .and _ => 0x10
  | .or _ => 0x11
  | .xor _ => 0x12
  | .andn _ => 0x13
  | .andi _ => 0x14
  | .ori _ => 0x15
  | .xori _ => 0x16
  | .shl _ => 0x18
  | .shr _ => 0x19
  | .sra _ => 0x1A
  | .rotl _ => 0x1B
  | .shli _ => 0x1C
  | .shri _ => 0x1D
  | .srai _ => 0x1E
  | .clz _ => 0x20
  | .ctz _ => 0x21
  | .popc _ => 0x22
  | .bext _ => 0x23
  | .bdep _ => 0x24
  | .brev _ => 0x25
  | .cmpEq _ => 0x28
  | .cmpNe _ => 0x29
  | .cmpLt _ => 0x2A
  | .cmpLe _ => 0x2B
  | .cmpLtn _ => 0x2C
  | .cmpLen _ => 0x2D
  | .cmpiEq _ => 0x2E
  | .cmpiLt _ => 0x2F
  | .pand _ => 0x30
  | .por _ => 0x31
  | .pxor _ => 0x32
  | .pnot _ => 0x33
  | .mov _ => 0x34
  | .movi _ => 0x35
  | .limm _ _ => 0x36
  | .limmh _ _ => 0x37
  | .lea1 _ => 0x38
  | .lea2 _ => 0x39
  | .lea4 _ => 0x3A
  | .lea8 _ => 0x3B
  | .chkEq _ => 0x40
  | .chkP _ => 0x41
  | .rng _ => 0x44
  | .faddF32 _ => 0x50
  | .fsubF32 _ => 0x51
  | .fmulF32 _ => 0x52
  | .fmaF32 _ => 0x53
  | .fcmpLt _ => 0x54
  | .fcmpEq _ => 0x55
  | .cvtF32I64 _ => 0x56
  | .cvtI64F32 _ => 0x57
  | .cvtI64F32Rz _ => 0x58
  | .vadd _ => 0x01
  | .vsub _ => 0x02
  | .vmul _ => 0x03
  | .vmulh _ => 0x04
  | .vmin _ => 0x05
  | .vmax _ => 0x06
  | .vminN32 _ => 0x07
  | .vmaxN32 _ => 0x08
  | .vabs _ => 0x09
  | .vcmpEq _ => 0x0A
  | .vcmpLt _ => 0x0B
  | .vcmpLtN32 _ => 0x0C
  | .vaddH _ => 0x11
  | .vsubH _ => 0x12
  | .vmulH _ => 0x13
  | .vmulhH _ => 0x14
  | .vminH _ => 0x15
  | .vmaxH _ => 0x16
  | .vminN16 _ => 0x17
  | .vmaxN16 _ => 0x18
  | .vabsH _ => 0x19
  | .vcmpEqH _ => 0x1A
  | .vcmpLtH _ => 0x1B
  | .vcmpLtN16 _ => 0x1C
  | .vaddB _ => 0x21
  | .vsubB _ => 0x22
  | .vmulB _ => 0x23
  | .vmulhB _ => 0x24
  | .vminB _ => 0x25
  | .vmaxB _ => 0x26
  | .vminN8 _ => 0x27
  | .vmaxN8 _ => 0x28
  | .vabsB _ => 0x29
  | .vcmpEqB _ => 0x2A
  | .vcmpLtB _ => 0x2B
  | .vcmpLtN8 _ => 0x2C
  | .vand _ => 0x30
  | .vor _ => 0x31
  | .vxor _ => 0x32
  | .vnot _ => 0x33
  | .vshl _ => 0x34
  | .vshr _ => 0x35
  | .vsra _ => 0x36
  | .vshli _ => 0x37
  | .vshri _ => 0x38
  | .vsrai _ => 0x39
  | .vfadd _ => 0x40
  | .vfsub _ => 0x41
  | .vfmul _ => 0x42
  | .vfma _ => 0x43
  | .vfms _ => 0x44
  | .vfmin _ => 0x45
  | .vfmax _ => 0x46
  | .vfabs _ => 0x47
  | .vfneg _ => 0x48
  | .vfcmpEq _ => 0x49
  | .vfcmpLt _ => 0x4A
  | .vfcmpLe _ => 0x4B
  | .vrcp _ => 0x4C
  | .vrsqrt _ => 0x4D
  | .vexp2 _ => 0x4E
  | .vlog2 _ => 0x4F
  | .vfaddF16 _ => 0x50
  | .vfsubF16 _ => 0x51
  | .vfmulF16 _ => 0x52
  | .vfmaF16 _ => 0x53
  | .vfmsF16 _ => 0x54
  | .vfminF16 _ => 0x55
  | .vfmaxF16 _ => 0x56
  | .vfabsF16 _ => 0x57
  | .vfnegF16 _ => 0x58
  | .vfcmpEqF16 _ => 0x59
  | .vfcmpLtF16 _ => 0x5A
  | .vfcmpLeF16 _ => 0x5B
  | .vfaddBf16 _ => 0x60
  | .vfsubBf16 _ => 0x61
  | .vfmulBf16 _ => 0x62
  | .vfmaBf16 _ => 0x63
  | .vfmsBf16 _ => 0x64
  | .vfminBf16 _ => 0x65
  | .vfmaxBf16 _ => 0x66
  | .vfabsBf16 _ => 0x67
  | .vfnegBf16 _ => 0x68
  | .vfcmpEqBf16 _ => 0x69
  | .vfcmpLtBf16 _ => 0x6A
  | .vfcmpLeBf16 _ => 0x6B
  | .vcvtF16F32 _ => 0x70
  | .vcvtBf16F32 _ => 0x71
  | .vcvtF32F16 _ => 0x72
  | .vcvtF32Bf16 _ => 0x73
  | .vcvtI32F32 _ => 0x74
  | .vcvtI32F32Rz _ => 0x75
  | .vcvtF32I32 _ => 0x76
  | .vsrBf16F32 _ => 0x77
  | .vsrF16F32 _ => 0x78
  | .vqmxE4m3 _ => 0x79
  | .vqmxE5m2 _ => 0x7A
  | .vqmxE3m2 _ => 0x7B
  | .vqmxE2m3 _ => 0x7C
  | .vqmxE2m1 _ => 0x7D
  | .vqmxMxi8 _ => 0x7E
  | .vqmxSrE4m3 _ => 0x80
  | .vqmxSrE5m2 _ => 0x81
  | .vqmxSrE3m2 _ => 0x82
  | .vqmxSrE2m3 _ => 0x83
  | .vqmxSrE2m1 _ => 0x84
  | .vqmxSrMxi8 _ => 0x85
  | .vdqmxE4m3 _ => 0x88
  | .vdqmxE5m2 _ => 0x89
  | .vdqmxE3m2 _ => 0x8A
  | .vdqmxE2m3 _ => 0x8B
  | .vdqmxE2m1 _ => 0x8C
  | .vdqmxMxi8 _ => 0x8D
  | .vbcastW _ => 0x90
  | .vbcastH _ => 0x91
  | .vbcastB _ => 0x92
  | .vmov _ => 0x93
  | .vsel _ => 0x94
  | .vpermW _ => 0x95
  | .vpermH _ => 0x96
  | .vrot _ => 0x97
  | .vextW _ => 0x98
  | .vinsW _ => 0x99
  | .viotaW _ => 0x9A
  | .vlane _ => 0x9B
  | .vunlane _ => 0x9C
  | .vredAddF32 _ => 0xA0
  | .vredMaxF32 _ => 0xA1
  | .vredMinF32 _ => 0xA2
  | .vredAddI32 _ => 0xA3
  | .vscanAddF32 _ => 0xA4
  | .vscanMaxI32 _ => 0xA5
  | .vscanAddI32 _ => 0xA6
  | .kand _ => 0xB0
  | .kor _ => 0xB1
  | .kxor _ => 0xB2
  | .knot _ => 0xB3
  | .kpop _ => 0xB4
  | .kset _ => 0xB5
  | .kget _ => 0xB6
  | .vrng _ => 0xC0
  | .vchk _ => 0xC4
  | .ldB _ => 0x01
  | .ldH _ => 0x02
  | .ldW _ => 0x03
  | .ldD _ => 0x04
  | .ldBz _ => 0x05
  | .ldHz _ => 0x06
  | .ldWz _ => 0x07
  | .stB _ => 0x08
  | .stH _ => 0x09
  | .stW _ => 0x0A
  | .stD _ => 0x0B
  | .vld _ => 0x10
  | .vldO _ => 0x11
  | .vldQ _ => 0x12
  | .vst _ => 0x13
  | .vstO _ => 0x14
  | .vstQ _ => 0x15
  | .vldsW _ => 0x16
  | .vldsH _ => 0x17
  | .vldxW _ => 0x18
  | .vstxW _ => 0x19
  | .smvH _ => 0x20
  | .smvW _ => 0x21
  | .smvD _ => 0x22
  | .sdup _ => 0x23
  | .vac _ => 0x24
  | .vtst _ => 0x25
  | .vtake _ => 0x26
  | .amoAddW _ => 0x30
  | .amoAddD _ => 0x31
  | .amoMaxD _ => 0x32
  | .amoXchgD _ => 0x33
  | .amoCasD _ => 0x34
  | .ptst _ => 0x38
  | .rldW _ => 0x01
  | .rldD _ => 0x02
  | .rldQ _ => 0x03
  | .rldO _ => 0x04
  | .rstW _ => 0x05
  | .rstD _ => 0x06
  | .rstQ _ => 0x07
  | .rstO _ => 0x08
  | .rvld _ => 0x09
  | .rvst _ => 0x0A
  | .rmvH _ => 0x0B
  | .rtst _ => 0x0C
  | .ramoAddRlx _ => 0x10
  | .ramoAddAcq _ => 0x11
  | .ramoAddRel _ => 0x12
  | .ramoAddAr _ => 0x13
  | .ramoMaxRlx _ => 0x14
  | .ramoMaxAcq _ => 0x15
  | .ramoMaxRel _ => 0x16
  | .ramoMaxAr _ => 0x17
  | .ramoXchgRlx _ => 0x18
  | .ramoXchgAcq _ => 0x19
  | .ramoXchgRel _ => 0x1A
  | .ramoXchgAr _ => 0x1B
  | .ramoCasRlx _ => 0x1C
  | .ramoCasAcq _ => 0x1D
  | .ramoCasRel _ => 0x1E
  | .ramoCasAr _ => 0x1F
  | .pset _ => 0x01
  | .pget _ => 0x02
  | .pinv _ => 0x03
  | .mmq _ => 0x10
  | .mmqZ _ => 0x11
  | .mmqRc _ => 0x12
  | .mmqZRc _ => 0x13
  | .mmqTa _ => 0x14
  | .mmqZTa _ => 0x15
  | .mmqRcTa _ => 0x16
  | .mmqZRcTa _ => 0x17
  | .mmqTb _ => 0x18
  | .mmqZTb _ => 0x19
  | .mmqRcTb _ => 0x1A
  | .mmqZRcTb _ => 0x1B
  | .mmqTaTb _ => 0x1C
  | .mmqZTaTb _ => 0x1D
  | .mmqRcTaTb _ => 0x1E
  | .mmqZRcTaTb _ => 0x1F
  | .mdrain _ => 0x20
  | .mzero _ => 0x21
  | .mstat _ => 0x22
  | .cpy _ => 0x30
  | .engineMove _ => 0x31
  | .movNp _ => 0x32
  | .cpyNp _ => 0x33
  | .pub _ => 0x34
  | .dsc _ => 0x35
  | .fill _ => 0x36
  | .ctradd _ => 0x37
  | .fretry _ => 0x38
  | .fskip _ => 0x39
  | .kvshare _ => 0x42
  | .kvdrop _ => 0x43
  | .kvstat _ => 0x44
  | .coll _ => 0x48
  | .qpush _ => 0x50
  | .kscan _ => 0x01
  | .qread _ => 0x02
  | .jappend _ => 0x03
  | .jcommit _ => 0x04
  | .jread _ => 0x05
  | .npush _ => 0x06
  | .cpost _ => 0x07
  | .chold _ => 0x08
  | .crel _ => 0x09
  | .hbeat _ => 0x0A
  | .tko _ => 0x0B
  | .tlbinv _ => 0x0C
  | .extensionOpcode op _ => 7#3 ++ op
  | _ => 0

/-- The word of an instruction, and the word of the twin slot where it has an immediate there (R22); 0 for events. -/
def encode (i : Instr) : SlotWord × SlotWord :=
  match i with
  | .nop => (0, 0)
  | .br j => (packJ 0x01 j, 0)
  | .brl j => (packJ 0x02 j, 0)
  | .lp l => (packLp 0x05 l, 0)
  | .lpi l => (packLpi 0x06 l, 0)
  | .limm g imm => (packG 0x36 g, imm)
  | .limmh g imm => (packG 0x37 g, imm)
  | .extensionOpcode op g => (packG (7#3 ++ op) g, 0)
  | .illop w => (w, 0)
  | i => match Machine.mapOf i with
    | .ev => (0, 0)
    | _ => (packG (opOf i) (fieldsOf i), 0)

end Sys2Proof
end

