-- ==== Sys2Proof/Machine/Bits.lean ====
section
/-!
DEFINITION. Bit fields, little-endian bytes, lanes, and the sparse tables and sets in which the state keeps its
memories: lists in one canonical form, keys strictly rising, no entry equal to what an unlisted key reads as.
-/

namespace Sys2Proof.Machine

/-- Bits hi to lo of a number. -/
def nfld (x hi lo : Nat) : Nat := x / 2 ^ lo % 2 ^ (hi + 1 - lo)

/-- Bits hi to lo of a bit vector, as a number. -/
def fld {w : Nat} (x : BitVec w) (hi lo : Nat) : Nat := nfld x.toNat hi lo

/-- One bit. -/
def bit {w : Nat} (x : BitVec w) (i : Nat) : Bool := x.getLsbD i

/-- Doubleword n of a record. -/
def dw {w : Nat} (x : BitVec w) (n : Nat) : W64 := x.extractLsb' (64 * n) 64

/-- A value placed at bit lo. -/
def at_ (w lo : Nat) (x : Nat) : BitVec w := BitVec.ofNat w (x * 2 ^ lo)

/-- A record made of doublewords, doubleword 0 first. -/
def ofDws (w : Nat) (l : List W64) : BitVec w :=
  BitVec.ofNat w (l.foldr (fun x acc => x.toNat + 2 ^ 64 * acc) 0)

/-- A record with doubleword n replaced. -/
def setDw {w : Nat} (x : BitVec w) (n : Nat) (v : W64) : BitVec w :=
  BitVec.ofNat w (x.toNat - (dw x n).toNat * 2 ^ (64 * n) + v.toNat * 2 ^ (64 * n))

/-- The number a list of bytes stands for, lowest byte first. -/
def leNat : List Byte → Nat
  | [] => 0
  | b :: bs => b.toNat + 256 * leNat bs

/-- The n low bytes of a number, lowest first. -/
def leBytes : Nat → Nat → List Byte
  | 0, _ => []
  | n + 1, x => BitVec.ofNat 8 x :: leBytes n (x / 256)

/-- Sign extension of the low w bits of a number to 64 bits. -/
def sext64 (w x : Nat) : W64 := (BitVec.ofNat w x).signExtend 64

/-- Lane i of width w of a vector register (R113). -/
def lane (w : Nat) (x : Vec) (i : Nat) : BitVec w := x.extractLsb' (w * i) w

/-- The number whose lanes 0 to n − 1 of width w are given. -/
def lanesNat (w : Nat) (f : Nat → BitVec w) : Nat → Nat
  | 0 => 0
  | n + 1 => lanesNat w f n + (f n).toNat * 2 ^ (w * n)

/-- The vector with n lanes of width w. -/
def ofLanes (w n : Nat) (f : Nat → BitVec w) : Vec := BitVec.ofNat 2048 (lanesNat w f n)

/-- The bytes of a vector register, byte 0 first. -/
def vecBytes (x : Vec) (n : Nat) : List Byte := leBytes n x.toNat

/-- A vector from its low bytes; every other byte 0. -/
def bytesVec (l : List Byte) : Vec := BitVec.ofNat 2048 (leNat l)

/-! Tables: finite maps from numbers, `d` the value of an unlisted key. -/

/-- The value at key k. -/
def tabGet {α : Type} (d : α) : List (Nat × α) → Nat → α
  | [], _ => d
  | (a, b) :: m, k => if k = a then b else if k < a then d else tabGet d m k

/-- The table with key k set to v; setting the default removes the entry. -/
def tabSet {α : Type} [DecidableEq α] (d : α) : List (Nat × α) → Nat → α → List (Nat × α)
  | [], k, v => if v = d then [] else [(k, v)]
  | (a, b) :: m, k, v =>
    if k < a then (if v = d then (a, b) :: m else (k, v) :: (a, b) :: m)
    else if k = a then (if v = d then m else (k, v) :: m)
    else (a, b) :: tabSet d m k v

/-- The canonical form, keys from lo upward. -/
def tabWfFrom {α : Type} [DecidableEq α] (d : α) : Nat → List (Nat × α) → Bool
  | _, [] => true
  | lo, (a, b) :: m => decide (lo ≤ a) && decide (b ≠ d) && tabWfFrom d (a + 1) m

/-- The canonical form of a table. -/
def tabWf {α : Type} [DecidableEq α] (d : α) (m : List (Nat × α)) : Bool := tabWfFrom d 0 m

/-- Entries of a run of values from key k on, without defaults. -/
def tabEntries {α : Type} [DecidableEq α] (d : α) (k : Nat) : List α → List (Nat × α)
  | [] => []
  | v :: vs => if v = d then tabEntries d (k + 1) vs else (k, v) :: tabEntries d (k + 1) vs

/-- Writes a run of values from key k on. -/
def tabPut {α : Type} [DecidableEq α] (d : α) (m : List (Nat × α)) (k : Nat) (vs : List α) : List (Nat × α) :=
  m.filter (fun e => decide (e.1 < k)) ++ tabEntries d k vs ++ m.filter fun e => decide (k + vs.length ≤ e.1)

/-- The entries with keys from k to k + n − 1. -/
def tabNear {α : Type} (m : List (Nat × α)) (k n : Nat) : List (Nat × α) :=
  m.filter fun e => decide (k ≤ e.1 ∧ e.1 < k + n)

/-- Reads n values from key k on. -/
def tabRun {α : Type} (d : α) (m : List (Nat × α)) (k n : Nat) : List α :=
  let w := tabNear m k n
  (List.range n).map fun i => tabGet d w (k + i)

/-! Sets of numbers, strictly rising. -/

/-- Membership. -/
def setHas : List Nat → Nat → Bool
  | [], _ => false
  | a :: m, k => if k = a then true else if k < a then false else setHas m k

/-- Insertion. -/
def setAdd : List Nat → Nat → List Nat
  | [], k => [k]
  | a :: m, k => if k < a then k :: a :: m else if k = a then a :: m else a :: setAdd m k

/-- Removal. -/
def setDel : List Nat → Nat → List Nat
  | [], _ => []
  | a :: m, k => if k < a then a :: m else if k = a then m else a :: setDel m k

/-- The canonical form of a set, elements from lo upward. -/
def setWfFrom : Nat → List Nat → Bool
  | _, [] => true
  | lo, a :: m => decide (lo ≤ a) && setWfFrom (a + 1) m

/-- The canonical form of a set. -/
def setWf (m : List Nat) : Bool := setWfFrom 0 m

/-- Adds n numbers from k on. -/
def setAddRun (m : List Nat) (k n : Nat) : List Nat :=
  m.filter (fun e => decide (e < k)) ++ (List.range n).map (k + ·) ++ m.filter fun e => decide (k + n ≤ e)

/-- Removes n numbers from k on. -/
def setDelRun (m : List Nat) (k n : Nat) : List Nat := m.filter fun e => !decide (k ≤ e ∧ e < k + n)

/-- The units of size u that bytes off to off + len − 1 touch. -/
def touched (u off len : Nat) : List Nat :=
  if len = 0 then [] else (List.range ((off + len - 1) / u - off / u + 1)).map (· + off / u)

end Sys2Proof.Machine
end

