-- ==== Sys2Proof/Machine/State.lean ====
section
/-!
DEFINITION. The state of the whole NK-F1 device as plain data: 512 compute cores and 4 Easel control cores with
their contexts, scratchpads and matrix engines; the bundle in issue; both towers' fabric state; device memory,
Canvas, engines, links, jobs, scopes, nodes and the host's queues. INVENTORY.md lists every field with its rule.
-/

namespace Sys2Proof.Machine

/-- Why the machine stops. -/
inductive Fault where
  /-- raised by TRANSFER_COMPLETION and by the host's CXL.mem accesses for a physical address outside every memory the
  spec gives (R4, R231); safe: the hardware has no such memory. -/
  | noSuchMemory
deriving DecidableEq, Repr

/-- Why a step has no meaning. -/
inductive Refusal where
  /-- raised by exec for an instruction without a meaning yet; safe. -/
  | notModelled (mnemonic : String)
deriving DecidableEq, Repr

/-- A register that carries a full/empty bit (R23). -/
inductive Reg where
  | s (i : BitVec 6)
  | v (i : BitVec 6)
  | p (i : BitVec 3)
  | k (i : BitVec 3)
deriving DecidableEq, Repr

/-- A value on its way to a register. -/
inductive RVal where
  | s (i : BitVec 6) (x : W64)
  | v (i : BitVec 6) (x : Vec)
  | p (i : BitVec 3) (x : Bool)
  | k (i : BitVec 3) (x : KMask)
deriving DecidableEq, Repr

/-- The register that a value is for. -/
def RVal.reg : RVal → Reg
  | .s i _ => .s i
  | .v i _ => .v i
  | .p i _ => .p i
  | .k i _ => .k i

/-- A result in flight (R25): `due = none` is a result of variable latency. `vac` sets STATUS.VAC as it lands
(R127); `copy` is written to control memory at `copyTo` as it lands (R298, R301, R302), and without a copy `copyTo` is
one more than the number of the slot 5 operation it answers, 0 for none. -/
structure InFlight where
  val : RVal
  flags : BitVec 5
  due : Option Nat
  vac : Bool
  copyTo : Nat
  copy : List Byte
deriving DecidableEq, Repr

/-- A snapshot buffer entry (R100). `outer` marks one captured at a trap entry, which waits for the `rti`; an entry
captured by a pre-emption inside a handler is put back when the handler resumes (log 17, DEDUCED). `copy` is written to control
memory at `copyTo` as it lands (R298). -/
structure SnapEntry where
  val : RVal
  flags : BitVec 5
  tag : Nat
  outer : Bool
  copyTo : Nat
  copy : List Byte
deriving DecidableEq, Repr

/-- A loop stack entry (R57). -/
structure LoopEntry where
  start : BAddr
  stop : BAddr
  count : BitVec 32
deriving DecidableEq, Repr

/-- A pending asynchronous trap or refusal (R96, R97, R129). -/
structure AsyncTrap where
  code : BitVec 8
  opa : W64
  opb : W64
deriving DecidableEq, Repr

/-- Kinds of stream operation (R6, R81, R83, R132). -/
inductive StreamKind where
  | smv
  | sdup
  | rmv
deriving DecidableEq, Repr

/-- How far a range of an `rmv.h` is locked (R351). -/
inductive LockState where
  | requested
  | locked
  | failed (elem : Nat) (cause : BitVec 7)
deriving DecidableEq, Repr

/-- A stream operation of a context (R6, R8, R82, R132): the stream record of the context image. `resumed`: restored with
its context, whose first bundle waits for the next element step (R8). -/
structure Stream where
  kind : StreamKind
  esize : Nat
  srcCore : CoreRef
  src : Nat
  dstCore : CoreRef
  dst : Nat
  n : Nat
  moved : Nat
  dreg : BitVec 6
  next : Nat
  stopped : Bool
  srcLock : LockState
  dstLock : LockState
  seq : Nat
  srcAtl : Nat
  dstAtl : Nat
  resumed : Bool
deriving DecidableEq, Repr

/-- A locked halfword range of one core (R72), held for a node's stream operation. -/
structure Lock where
  owner : Nat
  first : Nat
  count : Nat
deriving DecidableEq, Repr

/-- Kinds of slot 5 operation (R109, R131, R133, R134). `atomic op acq rel`: op 0 add, 1 max, 2 xchg, 3 cas. -/
inductive S5Kind where
  | load
  | store
  | test
  | atomic (op : BitVec 2) (acq rel : Bool)
deriving DecidableEq, Repr

/-- An outstanding slot 5 operation (R129) on `size` bytes from offset `first` of a member: `left` pieces to perform; `got`
collects the bytes of a load, byte i of the access at i; `vac` whether any was fill; `filled` once its result is on its way
back; `issued` its cycle of issue (R31). -/
structure S5Op where
  seq : Nat
  issued : Nat
  kind : S5Kind
  dst : Option Reg
  target : CoreRef
  first : Nat
  size : Nat
  left : Nat
  got : List (Nat × Byte)
  vac : Bool
  filled : Bool
deriving DecidableEq, Repr

/-- A slot 5 piece on its way to its target (R110, R127): `at_` the place of its bytes in the access's result or data, `atl`
its atelier address; its access is `alen` bytes from offset `first`; a write piece comes after the context's reads numbered
below `after` (R140, R141). -/
structure Piece where
  issuer : CtxRef
  node : Nat
  job : Nat
  seq : Nat
  kind : S5Kind
  target : CoreRef
  off : Nat
  at_ : Nat
  len : Nat
  data : List Byte
  expect : W64
  vtrap : Bool
  atl : Nat
  scope : Nat
  tenant : Nat
  first : Nat
  alen : Nat
  after : Nat
deriving DecidableEq, Repr

/-- What a parked context waits for (R154, R256, R260, R261, R264, R66). -/
inductive Park where
  | waitGe (off : Nat) (thr : W64)
  | waitF (n : BitVec 6)
  | tick (v : W64)
  | gbar (group : Nat) (pd : BitVec 3) (arrival : Nat)
  | cbar (pd : BitVec 3) (arrival : Nat)
  | brk
deriving DecidableEq, Repr

/-- Whether a context holds a continuation and whether it issues (R32, R253, R305); `stopped` after a double trap
(R64) or an unreadable bundle (R108), until its scope's cancel arrives. -/
inductive CtxStatus where
  | free
  | running
  | parked (p : Park)
  | stopped
deriving DecidableEq, Repr

/-- The special registers of a context (R58 to R62); SEGATTR's kinds are held with the core's segments (R90). -/
structure Spec where
  status : W64
  fflags : W64
  trapinfo : W64
  trappc : W64
  trapvec : W64
  faultmask : W64
  trapopa : W64
  trapopb : W64
  vlive : W64
  segown : BitVec 32
  il : Bool
  scope : BitVec 12
  tenant : BitVec 6
  rngseed : W64
  rngctr : W64
  arbw : W64
deriving DecidableEq, Repr

/-- The full/empty bits of a context, 1 for full (R25). -/
structure Full where
  s : BitVec 64
  v : BitVec 64
  p : BitVec 8
  k : BitVec 8
deriving DecidableEq, Repr

/-- One context (R23, R32). `flagsNow`: the flags of results that landed in cycle `flagsAt` (R171); `relHere`, `relWide`: the
slot 5 number up to which reads come before the context's later writes to its own core, to other members (R140, R141). -/
structure Ctx where
  status : CtxStatus
  node : Nat
  job : Nat
  pc : BAddr
  npc : Option BAddr
  emul : BitVec 8
  sregs : Vector W64 64
  vregs : Vector Vec 64
  pregs : BitVec 8
  kregs : Vector KMask 8
  full : Full
  spec : Spec
  loops : List LoopEntry
  inflight : List InFlight
  snap : List SnapEntry
  replay : Bool
  replayAt : Option Nat
  asyncQ : List AsyncTrap
  refusals : List AsyncTrap
  flagFile : BitVec 64
  cmdSeq : Nat
  s5Seq : Nat
  palette : List (Nat × Rec64)
  stream : Option Stream
  s5 : List S5Op
  relZero : Bool
  relHere : Nat
  relWide : Nat
  readFar : Bool
  flagsAt : Nat
  flagsNow : BitVec 5
  groups : List Nat
  atelier : Option Nat
  cbarDone : Bool
  notBefore : Nat
  preempt : Bool
  ptag : Nat
deriving DecidableEq, Repr

/-- A scratchpad (R68, R69): `data` lists bytes other than 0xFF; `pres` the present halfwords; `pois` the poisoned
sectors; `flips` the inverted stored bits (word × 77 + bit, R350); `told` the sectors in which an uncorrectable error has been found and
reported since their poison was last clear (R10, R105). -/
structure Scratch where
  data : List Host.Cell
  pres : List Nat
  pois : List Nat
  flips : List Nat
  told : List Nat
deriving DecidableEq, Repr

/-- Where an engine command adds when it completes (R255, R348). -/
inductive Ctr where
  | none
  | mem (off : Nat)
  | flag (n : BitVec 6)
deriving DecidableEq, Repr

/-- An accumulator with its counters and checksum state (R196, R207). `cells`, `ck` and `mg` list what is not +0. -/
structure Acc where
  cells : List (Nat × BitVec 32)
  inx : Nat
  ovf : Nat
  nan : Nat
  pois : Bool
  chkf : Bool
  ck : List (Nat × BitVec 64)
  mg : List (Nat × BitVec 64)
  g : Nat
  rho : BitVec 64
deriving DecidableEq, Repr

/-- An engine command as it was issued: its slot word and the values of its sA, sB and sD (R316). -/
structure Issued where
  word : SlotWord
  a : W64
  b : W64
  d : W64
deriving DecidableEq, Repr

/-- What a queued matrix command does (R152, R199). -/
inductive MxOp where
  | mmq (z rc ta tb : Bool)
  | mzero
deriving DecidableEq, Repr

/-- A command of the matrix queue (R152, R193). `started`: its start cycle; `step`: steps completed; `firstStep`: the
step it began or resumed with; `opA`, `opB`: the operands' bytes as read. -/
structure MxCmd where
  id : Nat
  seq : Nat
  issued : Issued
  op : MxOp
  acc : Bool
  a : Rec64
  b : Rec64
  aId : Nat
  bId : Nat
  ctr : Ctr
  started : Option Nat
  firstStep : Nat
  step : Nat
  consumed : Bool
  opA : List Byte
  opB : List Byte
deriving DecidableEq, Repr

/-- A drain of an accumulator (R153, R205, R206). `after`: the ids of the commands it waits for; once started, `out`
holds the destination's bytes, `outPois` whether they are poisoned, `failCol` the first column to fail its test. -/
structure Drain where
  id : Nat
  ctx : CtxRef
  node : Nat
  job : Nat
  scope : Nat
  tenant : Nat
  seq : Nat
  issued : Issued
  acc : Bool
  dst : Rec64
  dstId : Nat
  epi : Rec64
  bias : Option Rec64
  biasId : Nat
  ctr : Ctr
  seed : W64
  rctr : W64
  after : List Nat
  started : Option Nat
  out : List (Nat × Byte)
  outPois : Bool
  failCol : Option Nat
  discard : Bool
deriving DecidableEq, Repr

/-- The matrix engine of a core (R191): `owner` is the bound context, true for the secondary. -/
structure Matrix where
  owner : Option Bool
  queue : List MxCmd
  drains : List Drain
  acc0 : Acc
  acc1 : Acc
  readyAt : Nat
deriving DecidableEq, Repr

/-- A segment declaration of a loaded image (R91, R346). `node = none`: every node of the core. -/
structure SegDecl where
  job : Nat
  node : Option Nat
  mask : BitVec 32
  kinds : W64
deriving DecidableEq, Repr

/-- One core. `streamTurn`: the stream engine's next step is Q's where both contexts have one (R82); `banks` were touched
by slot 4 operations in cycle `bankCycle` (R82); `mirror`: segments that a retired atelier context still owns in the members'
mirrors (R126). -/
structure Core where
  imem : List Host.Cell
  imemBad : List Nat
  mem : Scratch
  pend : List (Nat × Nat)
  transit : List (Nat × Nat)
  holds : List (Nat × Nat)
  locks : List Lock
  segKind : W64
  segTenant : Vector (BitVec 6) 32
  segDown : BitVec 32
  segDecls : List SegDecl
  palInit : List (Nat × Rec64)
  entries : List BAddr
  p : Ctx
  q : Ctx
  qWait : Nat
  streamTurn : Bool
  banks : BitVec 32
  bankCycle : Nat
  mirror : BitVec 32
  mx : Matrix
deriving DecidableEq, Repr

/-- What a copy engine queue entry does (R214 to R216, R221, R222, R228, R239 to R241). -/
inductive CmdOp where
  | cpy
  | mov
  | movNp
  | cpyNp
  | pub
  | dsc
  | fill (vacate : Bool)
  | ctradd (amount : W64)
  | kvshare (a b : W64)
  | kvdrop (a : W64)
  | kvstat (d : BitVec 6) (a : W64)
deriving DecidableEq, Repr

/-- States of an engine command (R224, R227). `evicting` runs but waits for a frame while Easel asks the host to evict (R234);
`waiting` is to run again and waits for a place among the 16 (R219, R227); `skipped` is to end and waits for room for its DEVUE
(R96, R227). -/
inductive CmdState where
  | queued
  | running
  | evicting
  | waiting
  | skipped
  | held (code : BitVec 8) (opa opb : W64)
  | complete
deriving DecidableEq, Repr

/-- A page that a command has reached: the page's address, or a Canvas name, with the new frame or block of its shadow, and
the leaf entry that the command translated through, with its address (R226, R233, R238). -/
structure CmdPage where
  base : Nat
  frame : Nat
  at_ : Nat
  entry : W64
  big : Bool
deriving DecidableEq, Repr

/-- A command of a column's copy engine (R219), with the Palette snapshots it took (R184). `shadow`: the
destination bytes written so far, none for a vacant byte; `shPois`: its poisoned sectors; `frames`: the pages with new frames;
`vacPages`: the pages it is to vacate; `readPages`: the pages it has
read through (R233); `found`: the first element whose read found an uncorrectable error, with the address
that its DEVUE gives (R105). -/
structure Cmd where
  id : Nat
  ctx : Option CtxRef
  node : Nat
  job : Nat
  scope : Nat
  tenant : Nat
  core : CoreRef
  tag : Nat
  issued : Issued
  op : CmdOp
  srcId : Nat
  dstId : Nat
  src : Rec64
  dst : Rec64
  ctr : Ctr
  fill : W64
  state : CmdState
  pos : Nat
  shadow : List (Nat × Option Byte)
  shPois : List Nat
  claims : List (Nat × Nat)
  frames : List CmdPage
  vacPages : List CmdPage
  readPages : List CmdPage
  found : Option (Nat × Nat)
  killed : Bool
deriving DecidableEq, Repr

/-- A collective command (R211, R212, R280): `inst` its number among the ring's instances, `engine` the engine it runs
on, its ring snapshot, `ready` its place in the order of readiness, 0 while not ready, the step it is in, the bucket's
elements as worked on with its poisoned elements, the bytes received for the chunk in progress and the poisoned elements of
that chunk; `peer`: the previous member's STREAM once its hello has passed; `lastSeq`: the SEQ of the last flit taken for it (R280); `failing`: the cause of an ending whose trap waits
for room (R96); `aborted`: an abort has come for it (R284). -/
structure CollCmd where
  id : Nat
  ctx : Option CtxRef
  node : Nat
  job : Nat
  scope : Nat
  tenant : Nat
  core : CoreRef
  tag : Nat
  issued : Issued
  desc : Rec64
  descId : Nat
  bucket : Rec64
  bucketId : Nat
  ring : Rec64
  arbw : W64
  inst : Nat
  engine : Nat
  ready : Nat
  started : Bool
  step : Nat
  work : List (BitVec 32)
  workPois : List Nat
  rx : List Byte
  rxPois : List Nat
  peer : Option (BitVec 8)
  lastSeq : BitVec 12
  failing : Option (BitVec 7)
  aborted : Bool
  killed : Bool
deriving DecidableEq, Repr

/-- A `qpush` message not yet written (R296). -/
structure QMsg where
  id : Nat
  ctx : CtxRef
  node : Nat
  job : Nat
  scope : Nat
  tenant : Nat
  core : CoreRef
  tag : Nat
  issued : Issued
  data : BitVec 256
  ctr : Ctr
  posted : Bool
deriving DecidableEq, Repr

/-- A control-core operation performed at commit (R299 to R309). -/
inductive CtlOp where
  | kscan (d : BitVec 6) (start : Nat)
  | qread (d : BitVec 6) (q n off : Nat)
  | jappend (d : BitVec 6) (a b : W64)
  | jcommit (n : Nat)
  | npush (d : BitVec 6) (off q n : Nat)
  | cpost (q seq : Nat) (job : Nat) (res : W64)
  | chold
  | crel
  | hbeat
  | tko (d : BitVec 6)
  | tlbinv (d : BitVec 6) (off : Nat)
deriving DecidableEq, Repr

/-- An effect of a slot at issue, as R29 lists them: data, applied when the bundle commits. -/
inductive Effect where
  | reg (v : RVal)
  | launch (v : RVal) (flags : BitVec 5) (lat : Nat)
  | empty (r : Reg)
  | status (bits : W64)
  | spec (n : BitVec 12) (x : W64)
  | branch (t : BAddr)
  | loopPush (e : LoopEntry)
  | loopPop
  | jump (t : BAddr)
  | store (off : Nat) (bytes : List Byte)
  | amo (size : Nat) (op : BitVec 2) (off : Nat) (v expect : W64) (d : BitVec 6)
  | take (off : Nat) (d : BitVec 6)
  | touch (off len : Nat)
  | banks (b : BitVec 32)
  | vacate (off len : Nat)
  | stream (st : Stream)
  | slot5 (op : S5Op) (pieces : List Piece)
  | palette (id : Nat) (e : Rec64)
  | bind
  | cmd (c : Cmd)
  | mx (c : MxCmd)
  | drain (d : Drain)
  | coll (c : CollCmd)
  | qpush (m : QMsg)
  | fretry (tag : Nat)
  | fskip (tag : Nat)
  | segGrant (mask : BitVec 32)
  | segRelease (mask : BitVec 32)
  | yield
  | retire
  | park (p : Park)
  | clearFlag (n : BitVec 6)
  | fence (wide : Bool) (rel : Bool)
  | spawn (d : BitVec 6) (pb : BitVec 3) (r : Rec64)
  | sopen (d : BitVec 6)
  | sclose (scope : Nat)
  | cancel (scope : Nat) (ctr : Nat)
  | gbar (group : Nat) (pd : BitVec 3)
  | cbar (pd : BitVec 3)
  | rti
  | brk
  | ctl (op : CtlOp)
deriving DecidableEq, Repr

/-- A precise trap of a slot: code, TRAPOPA, TRAPOPB (R45), and the words newly found uncorrectable, which become
poisoned and are reported although the bundle is cancelled (R10). -/
structure SlotFault where
  code : BitVec 8
  opa : W64
  opb : W64
  found : List Nat
deriving DecidableEq, Repr

/-- What one slot of the bundle in issue came to (R28): a decoding ILLOP, a wait, a wait only for results that the
snapshot buffer holds, a park before the bundle, a fault, or effects; how many fixed-latency results the enabled
operation has (R99), its destinations (R30) and the generator words it takes (R53). -/
structure SlotRec where
  slot : Nat
  word : SlotWord
  illop : Bool
  wait : Bool
  waitHeld : Bool
  fixed : Nat
  parks : Option Park
  fault : Option SlotFault
  dests : List Reg
  effs : List Effect
  draws : Nat
deriving DecidableEq, Repr

/-- The bundle in issue: whether one is open, the slot being evaluated, what the earlier slots came to. -/
structure Issue where
  opened : Bool
  slot : Nat
  recs : List SlotRec
deriving DecidableEq, Repr

/-- A memory with vacancy and poison per 32-byte sector and codewords of 72 symbols (R322): device memory, the
Canvas page region, the Canvas block store. `syms`: altered symbols, line × 72 + symbol; `keys`: the key value under
which a line was last written (R329); `silent`: lines that the scrubber found uncorrectable and no command has read since
(R105, R323); `told`: lines whose uncorrectable error has been found and reported and still stands (R105); `unit`: the tweak of its
line 0 (R329). -/
structure DevMem where
  data : List Host.Cell
  pres : List Nat
  pois : List Nat
  syms : List Nat
  keys : List (Nat × BitVec 512)
  silent : List Nat
  told : List Nat
  unit : Nat
deriving DecidableEq, Repr

/-- A submission queue and its completion ring (R289, R290, R293, R303); `claim`: the tail read when the queue was last claimed, the
end of the entries that are Easel's to take (R291); `busy`: the SEQ of an entry whose answer comes with
a later event, `busyJob` the job that it names. -/
structure Queue where
  index : Nat
  en : Bool
  sqm : Nat
  sqbase : Nat
  cqbase : Nat
  cqn : Nat
  sqtail : BitVec 32
  cqhead : BitVec 32
  cqwrite : BitVec 32
  claim : BitVec 32
  lastseq : BitVec 32
  busy : Option (BitVec 32)
  busyJob : Nat
deriving DecidableEq, Repr

/-- An accepted completion entry not yet written (R293). `started`: its write has begun; `held`: in the hold. -/
structure Completion where
  queue : Nat
  entry : Rec64
  held : Bool
  ctr : Ctr
  ctx : Option CtxRef
  msgId : Nat
deriving DecidableEq, Repr

/-- An origin table tag (R303). -/
structure Origin where
  queue : Nat
  seq : BitVec 32
  result : W64
deriving DecidableEq, Repr

/-- A gang slice (R320). -/
structure Slice where
  job : Nat
  len : Nat
  segmask : BitVec 32
deriving DecidableEq, Repr

/-- A saved segment with its ordering kind and what the unstarted matrix commands of its job's images hold of it, encrypted under the
key value that the job's tenant then had (R197, R198, R321, R329); `bad`: the 64-byte lines of the scratchpad whose saved codewords
have become uncorrectable (R319). -/
structure SavedSeg where
  core : CoreRef
  seg : Nat
  job : Nat
  mem : Scratch
  holds : List (Nat × Nat)
  pend : List (Nat × Nat)
  kind : Nat
  key : BitVec 512
  bad : List Nat
deriving DecidableEq, Repr

/-- A leaf entry kept by the translation buffers of a tower (R233): by the L1 of a column's engine, or by the L2 of its home
slice (`l1 = none`); the root it belongs to, the virtual page, the entry's address and value, whether it maps a 32 MiB page. -/
structure TlbEntry where
  l1 : Option Nat
  root : Nat
  vpn : Nat
  at_ : Nat
  entry : W64
  big : Bool
deriving DecidableEq, Repr

/-- A tower's clock (R333, R335): 1.2 GHz until it is trained, then a speed bin, 0 the fastest. -/
inductive Speed where
  | slow
  | bin (n : Nat)
deriving DecidableEq, Repr

/-- One tower's fabric state. `instances`: collectives issued so far on ring g, under key 4 g + class (R212, R280);
`frames`, `pageFrames`: the free frames of device memory and of the Canvas page region as (first, count), of
`frameTotal` in all (R226, R236); `qcfg`: the QCFG registers as the host wrote them (R290); `postWait`: entries that wait at
their source for room in the hold (R308); `powering`: the entries (queue, SEQ, layer) that wait for a layer to come on (R327);
`kept`: the frames in use are those from before a warm reset, `canvUp`: the Canvas has been laid out (R326); `columnsOk`: the columns
that have passed step 7 of this bring-up, `trained`: its step 8 has ended (R333); `speed`: the clock now, `baseSpeed`: the one step 8
came to, `retrain`: the one the tower goes to once its contexts are pre-empted (R333, R335); `started`: its Easel has once been
started (R307); `fwDigest`: the measured firmware (R332); `reloadDue`: a `tko` has come and the failed core has not been reloaded
(R313). -/
structure Tower where
  groups : List (Nat × Rec64)
  instances : List (Nat × Nat)
  queues : List Queue
  qcfg : List (Nat × BitVec 256)
  kick : List Nat
  slicetab : W64
  rcptring : W64
  rcptM : W64
  ctlmem : List Host.Cell
  ctlBad : Bool
  qmem : List Host.Cell
  japp : W64
  jcom : W64
  origins : List Origin
  primary : Bool
  standbyOk : Bool
  takeover : Bool
  hold : Bool
  holdTko : Bool
  beat : Option Nat
  completions : List Completion
  postWait : List Completion
  ready : List (Nat × Nat)
  dispatches : Nat
  nextNode : Nat
  poolSize : Nat
  frames : List (Nat × Nat)
  pageFrames : List (Nat × Nat)
  frameTotal : Nat
  kept : Bool
  canvUp : Bool
  canvPages : DevMem
  canvBlocks : DevMem
  canvB : Nat
  canvNames : List (Nat × Nat × Nat)
  canvFree : List Nat
  layersOff : BitVec 4
  powering : List (Nat × BitVec 32 × Nat)
  columnsBad : List Nat
  spares : List (Nat × List Nat)
  columnsOk : List Nat
  trained : Bool
  excluded : Bool
  started : Bool
  fwDigest : BitVec 512
  reloadDue : Bool
  speed : Speed
  baseSpeed : Speed
  retrain : Option Speed
  coolSince : Option Nat
  erasures : List (Nat × List Nat)
  scrubFix : List (Nat × Nat)
  slices : List Slice
  slice : Option Nat
  savedSegs : List SavedSeg
  saving : List (Nat × Nat)
  tlb : List TlbEntry
deriving DecidableEq, Repr

/-- The counters of a job's receipt (R332). -/
structure JobCounts where
  done : Nat
  cancelled : Nat
  losses : Nat
  lost : Nat
  doubles : Nat
  slips : Nat
  cancels : Nat
  mxchk : Nat
deriving DecidableEq, Repr

/-- A running job (R262, R276, R292, R294). Times are in nanoseconds; `endAt`: when a device-level error killed it (R332). -/
structure Job where
  num : Nat
  tenant : BitVec 6
  root : Nat
  home : Bool
  ptroot : Nat
  cq : Nat
  start : Nat
  interval : Nat
  frame : W64
  ticks : Nat
  slipping : List Nat
  arbwDef : BitVec 16
  arbwLim : BitVec 16
  sliplogs : List (Bool × Nat × Nat)
  digest : BitVec 512
  counts : JobCounts
  endAt : Option Nat
  dbg : Bool
deriving DecidableEq, Repr

/-- States of a scope (R265). -/
inductive ScopeState where
  | opened
  | sealed
  | dying
  | dead
deriving DecidableEq, Repr

/-- A scope of a home tower's scope table (R265). -/
structure Scope where
  home : Bool
  id : Nat
  job : Nat
  parent : Nat
  depth : Nat
  state : ScopeState
  ring : Option (Nat × Nat)
  notify : Option Nat
deriving DecidableEq, Repr

/-- A context image or frame (R254, R316): the context as saved, SEGATTR, its unstarted commands, its matrix state; `key`: the key
value that its tenant had (R329); `bad`: the device addresses of its codewords that have become uncorrectable (R319). -/
structure Image where
  core : CoreRef
  q : Bool
  ctx : Ctx
  kinds : W64
  cmds : List Cmd
  mxq : List MxCmd
  drains : List Drain
  colls : List CollCmd
  msgs : List QMsg
  mx : Option (Acc × Acc)
  yielded : Bool
  time : Nat
  key : BitVec 512
  bad : List Nat
deriving DecidableEq, Repr

/-- States of a node (R247, R248, R251). `cut`: a cancel has dropped or killed the engine's command (R270, R274). -/
inductive NodeState where
  | waiting
  | ready
  | running
  | engine (cmd : Nat) (cut : Bool)
  | checking
deriving DecidableEq, Repr

/-- A live node (R243, R244). `preds`: PRED as decremented; `pcan`: predecessors that completed cancelled. -/
structure Node where
  id : Nat
  tower : Bool
  job : Nat
  nrec : Rec64
  preds : Nat
  pcan : Nat
  state : NodeState
  deadline : Option Nat
  image : Option Image
deriving DecidableEq, Repr

/-- A spawn whose pool is full (R245), or an `npush` of (queue, index) (R303), in a job. -/
structure SpawnWait where
  ctx : CtxRef
  node : Nat
  job : Nat
  d : BitVec 6
  pb : BitVec 3
  nrec : Rec64
  push : Option (Nat × BitVec 32)
deriving DecidableEq, Repr

/-- A LAUNCH that still inserts nodes, the next one waiting for room in its pool (R245, R347): `next` its node index, `count` how
many are in, `decls` the segment declarations that name a node, with its index. -/
structure LaunchWait where
  queue : Nat
  seq : BitVec 32
  job : Nat
  next : Nat
  count : Nat
  recs : List Rec64
  decls : List (CoreRef × Nat × BitVec 32 × W64)
deriving DecidableEq, Repr

/-- A cancel in progress (R268 to R275): the scope it names with the scopes of its subtree, the cores it has not yet reached,
and for its acknowledgement the cancelling node's core, counter and scope (R348). -/
structure Cancel where
  id : Nat
  home : Bool
  job : Nat
  scopes : List Nat
  left : List Nat
  core : CoreRef
  ctr : Nat
  scope : Nat
  issuer : Nat
  tenant : Nat
deriving DecidableEq, Repr

/-- An engine counter add not yet made (R348); `andThen` is added to by 1 once it has been made (R212). `src`: the id of the command
whose add it is; `ends`: the command, a `ctradd` or collective, ends with it (R212, R214). -/
structure AddReq where
  core : CoreRef
  ctx : Option CtxRef
  ctr : Ctr
  amount : W64
  andThen : Ctr
  node : Nat
  job : Nat
  scope : Nat
  tenant : Nat
  src : Option Nat
  ends : Bool
deriving DecidableEq, Repr

/-- An invalidation request (R233, R309): acknowledgements still to come, one bit for each tower. -/
structure Inval where
  id : Nat
  job : Nat
  first : Nat
  length : Nat
  left : BitVec 2
  ctx : Option CtxRef
  d : BitVec 6
  queue : Option (Nat × BitVec 32)
deriving DecidableEq, Repr

/-- A flit as sent or held for retry (R286): header doublewords and payload. -/
structure Flit where
  dw0 : W64
  dw1 : W64
  payload : List Byte
deriving DecidableEq, Repr

/-- A Carux link port (R284, R286, R287, R330): `queue` waits for room among the `unacked`; `sent` is every flit put on
the link. -/
structure Link where
  port : Nat
  up : Bool
  listed : Bool
  txSeq : BitVec 12
  rxSeq : BitVec 12
  queue : List Flit
  unacked : List Flit
  sent : List Flit
  txCtr : Nat
  rxCtr : Nat
  txKey : BitVec 256
  rxKey : BitVec 256
  retries : Nat
  retrySince : Option Nat
deriving DecidableEq, Repr

/-- Service levels of bring-up (R333). -/
inductive Service where
  | off
  | reduced
  | full
deriving DecidableEq, Repr

/-- A host write, to a job's page or a physical address, or an injection, held by a claim (R235, R350). -/
structure HeldWrite where
  job : Option Nat
  addr : Nat
  bytes : List Byte
  inject : Option (Nat × Rec64)
deriving DecidableEq, Repr

/-- An execution receipt that waits for room in its tower's receipt ring, with what its completion carries (R332). -/
structure Receipt where
  tower : Bool
  cq : Nat
  job : Nat
  tenant : Nat
  scope : Nat
  bytes : List Byte
deriving DecidableEq, Repr

/-- A boot journal record (R334): DW0 to DW2 and the digest of the previous record. -/
structure BootRec where
  dw0 : W64
  dw1 : W64
  dw2 : W64
  prev : BitVec 256
deriving DecidableEq, Repr

/-- A signed record in flash (R323, R326, R331): kind 0 a symbol position of an erasure table, kind 1 a steered lane, with its unit
(64 × tower + rank or column); kind 2 a tower's lowest speed bin; kind 3 configuration; kind 4 the device certificate, `pos` being
the device number; `factory`: signed at manufacture, else by the device. -/
structure Repair where
  kind : Nat
  unit : Nat
  pos : Nat
  factory : Bool
  sig : BitVec 912
deriving DecidableEq, Repr

/-- The device. `jobsDone`: job numbers that have finished and are not in use again (R276); `grandmaster`: the device whose
time the clock follows (R294); `clockOffset`: its measured offset, and `steered`: how far steering has moved it since power-good, in 1/19 ns (R288, R334);
`channelsOff`: excluded GDDR channels (R333); `collsDone`: collectives that have ended otherwise than by an abort, as (id, receive port, send port, STREAM), until an abort has
been forwarded for them (R284); `toFull`: full service is under way, with the outcome of step 9, and `selfTest` that outcome once step 9 has ended (R333); `fwFile`: the
linked image in flash that holds Easel's firmware (R297, R346). -/
structure State where
  cur : CtxRef
  issue : Issue
  agenda : List Instr
  turn : List CoreRef
  running : List CoreRef
  cycle : Nat
  time19 : Nat
  fresh : Nat
  nextId : Nat
  cores : Vector Core 516
  tower0 : Tower
  tower1 : Tower
  dev : DevMem
  hostmem : List Host.Cell
  pieces : List Piece
  cmds : List Cmd
  colls : List CollCmd
  collsDone : List (Nat × Nat × Nat × BitVec 8)
  msgs : List QMsg
  adds : List AddReq
  jobs : List Job
  jobsDone : List Nat
  scopes : List Scope
  nodes : List Node
  spawnWait : List SpawnWait
  launches : List LaunchWait
  cancels : List Cancel
  invals : List Inval
  heldWrites : List HeldWrite
  links : List Link
  deviceNumber : W64
  peers : List (BitVec 456)
  keys : Vector (BitVec 512) 64
  rcmb : Bool
  mx6 : Bool
  service : Service
  faulted : Bool
  selfTest : Option Bool
  toFull : Option Bool
  idKey : BitVec 456
  fwFile : List Byte
  receipts : List Receipt
  receiptNo : Nat
  bootNo : Nat
  bootJournal : List BootRec
  bootSigs : List (BitVec 912)
  repairs : List Repair
  channelsOff : List Nat
  grandmaster : Option W64
  clockOffset : Int
  steered : Int
  hostData : List (Option Byte)
deriving DecidableEq, Repr

/-! The machine at power-good (log 1 to 8; R59 to R62, R250, R327, R333). -/

/-- A command of an engine node, which no slot word issued (R251). -/
def Issued.none : Issued := ⟨0, 0, 0, 0⟩

/-- Special registers at reset: every field 0 (R59 to R62). -/
def Spec.blank : Spec := ⟨0, 0, 0, 0, 0, 0, 0, 0, 0, 0, false, 0, 0, 0, 0, 0⟩

/-- A context that holds nothing: registers 0 and full. -/
def Ctx.blank : Ctx :=
  { status := .free, node := 0, job := 0, pc := 0, npc := none, emul := 0
    sregs := Vector.replicate 64 0, vregs := Vector.replicate 64 0, pregs := 0, kregs := Vector.replicate 8 0
    full := ⟨BitVec.allOnes 64, BitVec.allOnes 64, BitVec.allOnes 8, BitVec.allOnes 8⟩
    spec := Spec.blank, loops := [], inflight := [], snap := [], replay := false, replayAt := none
    asyncQ := [], refusals := [], flagFile := 0, cmdSeq := 0, s5Seq := 0, palette := [], stream := none, s5 := []
    relZero := false, relHere := 0, relWide := 0, readFar := false, flagsAt := 0, flagsNow := 0, groups := [], atelier := none, cbarDone := false
    notBefore := 0, preempt := false, ptag := 0 }

/-- A scratchpad wholly vacant (R327). -/
def Scratch.blank : Scratch := ⟨[], [], [], [], []⟩

/-- An accumulator as `mzero` leaves it: +0, cleared counters (R196). -/
def Acc.zero : Acc := ⟨[], 0, 0, 0, false, false, [], [], 0, 0⟩

/-- An unbound matrix engine (R191). -/
def Matrix.blank : Matrix := ⟨none, [], [], Acc.zero, Acc.zero, 0⟩

/-- A core at power-good. -/
def Core.blank : Core :=
  { imem := [], imemBad := [], mem := Scratch.blank, pend := [], transit := [], holds := [], locks := []
    segKind := 0, segTenant := Vector.replicate 32 0, segDown := 0, segDecls := [], palInit := [], entries := []
    p := Ctx.blank, q := Ctx.blank, qWait := 0, streamTurn := false, banks := 0, bankCycle := 0, mirror := 0, mx := Matrix.blank }

/-- A memory with codewords, wholly vacant; its line 0 has a tweak. -/
def DevMem.blank (unit : Nat) : DevMem := ⟨[], [], [], [], [], [], [], unit⟩

/-- A tower at power-good: nothing created, no column replayed (R333); the tower stands in bit 40 of the tweaks (R329). -/
def Tower.blank (t : Bool) : Tower :=
  { groups := [], instances := [], queues := [], qcfg := [], kick := [], slicetab := 0, rcptring := 0, rcptM := 0, ctlmem := [], ctlBad := false, qmem := []
    japp := 0, jcom := 0, origins := [], primary := false, standbyOk := true, takeover := false, hold := false
    holdTko := false, beat := none, completions := [], postWait := [], ready := [], dispatches := 0, nextNode := 1
    poolSize := 2 ^ 20, frames := [], pageFrames := [], frameTotal := 0, kept := false, canvUp := false, canvPages := DevMem.blank (if t then 2 ^ 40 else 0), canvBlocks := DevMem.blank (if t then 2 ^ 40 else 0), canvB := 0
    canvNames := [], canvFree := [], layersOff := 0, powering := [], columnsBad := List.range 64, spares := []
    columnsOk := [], trained := false, excluded := false, started := false, fwDigest := 0, reloadDue := false
    speed := .slow, baseSpeed := .slow, retrain := none, coolSince := none, erasures := [], scrubFix := [], slices := [], slice := none
    savedSegs := [], saving := [], tlb := [] }

/-- A link that is down (R286). -/
def Link.down (port : Nat) : Link := ⟨port, false, false, 0, 0, [], [], [], 0, 0, 0, 0, 0, none⟩

/-- The device right after power-good, before bring-up (R333): nothing runs. -/
def State.reset : State :=
  { cur := ⟨0, false⟩, issue := ⟨false, 0, []⟩, agenda := [], turn := [], running := [], cycle := 0, time19 := 0
    fresh := 0, nextId := 0, cores := Vector.replicate 516 Core.blank, tower0 := Tower.blank false, tower1 := Tower.blank true
    dev := DevMem.blank 0, hostmem := [], pieces := [], cmds := [], colls := [], collsDone := [], msgs := [], adds := [], jobs := [], jobsDone := []
    scopes := [], nodes := [], spawnWait := [], launches := [], cancels := [], invals := [], heldWrites := []
    links := (List.range 16).map Link.down, deviceNumber := 0, peers := [], keys := Vector.replicate 64 0
    rcmb := false, mx6 := true, service := .off, faulted := false, selfTest := none, toFull := none, idKey := 0
    fwFile := [], receipts := [], receiptNo := 0, bootNo := 0, bootJournal := [], bootSigs := [], repairs := []
    channelsOff := [], grandmaster := none, clockOffset := 0, steered := 0, hostData := [] }

end Sys2Proof.Machine
end

