-- ==== Sys2Proof/Machine/Access.lean ====
section
/-!
DEFINITION. Reading and writing the parts of the state: cores, contexts, towers, registers with their full/empty
bits, jobs and scopes. Every other file goes through these.
-/

namespace Sys2Proof.Machine

/-! Cores (R3, R62). -/

/-- Whether a core is an Easel control core. -/
def isCtl (c : CoreRef) : Bool := decide (512 ≤ c.val)

/-- The tower of a core. -/
def towerOf (c : CoreRef) : Bool := if isCtl c then decide (514 ≤ c.val) else decide (256 ≤ c.val)

/-- The column of a compute core. -/
def columnOf (c : CoreRef) : Nat := c.val / 4 % 64

/-- The layer of a compute core. -/
def layerOf (c : CoreRef) : Nat := c.val % 4

/-- The core named by a core id (R3). -/
def coreOfId (n : Nat) : CoreRef := ⟨n % 512, by omega⟩

/-- Core number n of all 516. -/
def coreAt (n : Nat) : CoreRef := ⟨n % 516, by omega⟩

/-- Control core i of a tower. -/
def ctlCore (tower i : Bool) : CoreRef :=
  if tower then (if i then 515 else 514) else if i then 513 else 512

/-- The tower as a number. -/
def towerNat (t : Bool) : Nat := if t then 1 else 0

/-- A core's state. -/
def State.core (s : State) (c : CoreRef) : Core := s.cores[c.val]

/-- Replaces a core's state. -/
def State.setCore (s : State) (c : CoreRef) (k : Core) : State := { s with cores := s.cores.set c.val k }

/-- Changes a core's state. -/
def State.modCore (s : State) (c : CoreRef) (f : Core → Core) : State := s.setCore c (f (s.core c))

/-- A context of a core (R32). -/
def Core.ctx (k : Core) (q : Bool) : Ctx := if q then k.q else k.p

/-- Replaces a context of a core. -/
def Core.setCtx (k : Core) (q : Bool) (x : Ctx) : Core := if q then { k with q := x } else { k with p := x }

/-- A context. -/
def State.ctx (s : State) (r : CtxRef) : Ctx := (s.core r.core).ctx r.q

/-- Replaces a context. -/
def State.setCtx (s : State) (r : CtxRef) (x : Ctx) : State := s.setCore r.core ((s.core r.core).setCtx r.q x)

/-- Changes a context. -/
def State.modCtx (s : State) (r : CtxRef) (f : Ctx → Ctx) : State := s.setCtx r (f (s.ctx r))

/-- A tower's fabric state. -/
def State.tower (s : State) (t : Bool) : Tower := if t then s.tower1 else s.tower0

/-- Replaces a tower's fabric state. -/
def State.setTower (s : State) (t : Bool) (w : Tower) : State :=
  if t then { s with tower1 := w } else { s with tower0 := w }

/-- Changes a tower's fabric state. -/
def State.modTower (s : State) (t : Bool) (f : Tower → Tower) : State := s.setTower t (f (s.tower t))

/-- The IEEE 1588 time in nanoseconds; one core cycle is 10/19 ns (R4, R288). -/
def State.time (s : State) : Nat := s.time19 / 19

/-- A free number, and the state after it has been taken (log 9, DESIGN CHOICE). -/
def State.draw (s : State) : Nat × State := (Config.freeNat s.fresh, { s with fresh := s.fresh + 1 })

/-! Registers (R18, R23). -/

/-- A scalar register; s0 reads 0 (R18). -/
def Ctx.s (x : Ctx) (i : BitVec 6) : W64 := if i = 0 then 0 else x.sregs[i.toNat]

/-- A vector register. -/
def Ctx.v (x : Ctx) (i : BitVec 6) : Vec := x.vregs[i.toNat]

/-- A predicate; p0 reads true (R18). -/
def Ctx.p (x : Ctx) (i : BitVec 3) : Bool := if i = 0 then true else x.pregs.getLsbD i.toNat

/-- A lane mask; k0 reads all ones (R18). -/
def Ctx.k (x : Ctx) (i : BitVec 3) : KMask := if i = 0 then BitVec.allOnes 128 else x.kregs[i.toNat]

/-- Bit i of a bit vector set to b. -/
def setBit {w : Nat} (x : BitVec w) (i : Nat) (b : Bool) : BitVec w :=
  if b then x ||| BitVec.twoPow w i else x &&& ~~~ (BitVec.twoPow w i)

/-- Whether a register discards writes and is always full (R18). -/
def Reg.zero : Reg → Bool
  | .s i => i == 0
  | .v _ => false
  | .p i => i == 0
  | .k i => i == 0

/-- Writes a register; writes to s0, p0 and k0 are discarded (R18). -/
def Ctx.write (x : Ctx) (v : RVal) : Ctx :=
  match v with
  | .s i y => if i = 0 then x else { x with sregs := x.sregs.set i.toNat y }
  | .v i y => { x with vregs := x.vregs.set i.toNat y }
  | .p i y => if i = 0 then x else { x with pregs := setBit x.pregs i.toNat y }
  | .k i y => if i = 0 then x else { x with kregs := x.kregs.set i.toNat y }

/-- A full/empty bit (R25); s0, p0 and k0 are always full. -/
def Ctx.isFull (x : Ctx) (r : Reg) : Bool :=
  match r with
  | .s i => i == 0 || x.full.s.getLsbD i.toNat
  | .v i => x.full.v.getLsbD i.toNat
  | .p i => i == 0 || x.full.p.getLsbD i.toNat
  | .k i => i == 0 || x.full.k.getLsbD i.toNat

/-- Sets a full/empty bit; s0, p0 and k0 keep theirs (R23). -/
def Ctx.mark (x : Ctx) (r : Reg) (b : Bool) : Ctx :=
  match r with
  | .s i => if i = 0 then x else { x with full.s := setBit x.full.s i.toNat b }
  | .v i => { x with full.v := setBit x.full.v i.toNat b }
  | .p i => if i = 0 then x else { x with full.p := setBit x.full.p i.toNat b }
  | .k i => if i = 0 then x else { x with full.k := setBit x.full.k i.toNat b }

/-- A result lands: the register receives it and is full (R25). -/
def Ctx.land (x : Ctx) (v : RVal) : Ctx := (x.write v).mark v.reg true

/-! Special registers and their bits (R58 to R62). -/

/-- STATUS.VAC, SCX, VTRAP, TMASK, DBG, APEND (R59). -/
def stVac : W64 := 1
/-- STATUS.SCX (R59). -/
def stScx : W64 := 2
/-- STATUS.APEND (R59). -/
def stApend : W64 := 0x200

/-- STATUS.VTRAP (R59). -/
def Ctx.vtrap (x : Ctx) : Bool := bit x.spec.status 2
/-- STATUS.TMASK (R59). -/
def Ctx.tmask (x : Ctx) : Bool := bit x.spec.status 3
/-- STATUS.DBG (R59). -/
def Ctx.dbg (x : Ctx) : Bool := bit x.spec.status 8

/-- ORs bits into STATUS. -/
def Ctx.orStatus (x : Ctx) (b : W64) : Ctx := { x with spec.status := x.spec.status ||| b }

/-- ORs flags into FFLAGS (R60). -/
def Ctx.orFlags (x : Ctx) (f : BitVec 5) : Ctx := { x with spec.fflags := x.spec.fflags ||| f.zeroExtend 64 }

/-- The value of CORE_ID (R62). -/
def coreIdReg (c : CoreRef) : W64 :=
  if isCtl c then BitVec.ofNat 64 (0x200 + (if towerOf c then 0x100 else 0) + c.val % 2) else BitVec.ofNat 64 c.val

/-- Whether a context owns a segment (R91). -/
def Ctx.owns (x : Ctx) (seg : Nat) : Bool := x.spec.segown.getLsbD seg

/-! Jobs, scopes, nodes. -/

/-- The running job of that number. -/
def State.job (s : State) (n : Nat) : Option Job := s.jobs.find? (·.num == n)

/-- Changes a job. -/
def State.modJob (s : State) (n : Nat) (f : Job → Job) : State :=
  { s with jobs := s.jobs.map fun j => if j.num == n then f j else j }

/-- The home tower of a job, tower 0 where the job is not known (R265). -/
def State.homeOf (s : State) (n : Nat) : Bool := match s.job n with
  | some j => j.home
  | none => false

/-- A scope of a home tower's table (R265). -/
def State.scope (s : State) (home : Bool) (id : Nat) : Option Scope :=
  s.scopes.find? fun c => c.home == home && c.id == id

/-- Changes a scope. -/
def State.modScope (s : State) (home : Bool) (id : Nat) (f : Scope → Scope) : State :=
  { s with scopes := s.scopes.map fun c => if c.home == home && c.id == id then f c else c }

/-- Whether scope b lies in the subtree of a, a included; fuel bounds the depth of the tree (R265). -/
def State.under (s : State) (home : Bool) (a b : Nat) : Nat → Bool
  | 0 => false
  | fuel + 1 => a == b || match s.scope home b with
    | some c => c.depth != 1 && s.under home a c.parent fuel
    | none => false

/-- Whether scope b is a or a descendant of a (R245, R267). -/
def State.inSubtree (s : State) (home : Bool) (a b : Nat) : Bool := s.under home a b 17

/-- A live node. -/
def State.node (s : State) (id : Nat) : Option Node := s.nodes.find? (·.id == id)

/-- Changes a node. -/
def State.modNode (s : State) (id : Nat) (f : Node → Node) : State :=
  { s with nodes := s.nodes.map fun n => if n.id == id then f n else n }

/-- All contexts of the compute cores and control cores. -/
def allCtxs : List CtxRef :=
  ((List.range 516).map fun n => [CtxRef.mk (coreAt n) false, CtxRef.mk (coreAt n) true]).flatten

/-- The contexts that hold a continuation. -/
def State.bound (s : State) : List CtxRef := allCtxs.filter fun r => (s.ctx r).status != .free

end Sys2Proof.Machine
end

