-- ==== Sys2Proof/Machine/Crypto.lean ====
section
/-!
DEFINITION. The published functions that the manual names without repeating them: SHAKE256 (R330 to R332, R334), as FIPS 202 gives
it, and AES-256-XTS with a data unit of 64 bytes (R329), as FIPS 197 and IEEE 1619 give it (log 67, PRESUMED).
-/

namespace Sys2Proof.Machine

/-! SHAKE256. -/

/-- The 25 lanes of Keccak's state: lane (x, y) at x + 5y. -/
abbrev Keccak := Vector W64 25

/-- The order in which ρ visits the lanes other than lane 0: from (1, 0), each (x, y) is followed by (y, 2x + 3y). -/
def Keccak.visit : Nat → Nat × Nat
  | 0 => (1, 0)
  | t + 1 =>
    let (x, y) := Keccak.visit t
    (y, (2 * x + 3 * y) % 5)

/-- How far ρ rotates lane i: the (t + 1)-th triangular number for the lane visited at t, nothing for lane 0. -/
def Keccak.turn (i : Nat) : Nat :=
  (((List.range 24).find? fun t => (Keccak.visit t).1 + 5 * (Keccak.visit t).2 == i).map fun t => (t + 1) * (t + 2) / 2 % 64).getD 0

/-- The rotations by lane. -/
def Keccak.turns : List Nat := (List.range 25).map Keccak.turn

/-- The shift register that ι's constants are read from, after t steps: feedback by x⁸ + x⁶ + x⁵ + x⁴ + 1. -/
def Keccak.feed : Nat → BitVec 8
  | 0 => 1
  | t + 1 =>
    let r := Keccak.feed t
    (r <<< 1) ^^^ (if r.getLsbD 7 then 0x71 else 0)

/-- ι's constant of a round: bit 2^j - 1 is what the register gives at step 7 round + j. -/
def Keccak.iota (round : Nat) : W64 :=
  (List.range 7).foldl (fun c j => if (Keccak.feed (7 * round + j)).getLsbD 0 then c ||| 1#64 <<< (2 ^ j - 1) else c) 0

/-- The constants of the 24 rounds. -/
def Keccak.iotas : List W64 := (List.range 24).map Keccak.iota

/-- Lane (x, y), indices modulo 5. -/
def Keccak.lane (a : Keccak) (x y : Nat) : W64 := a[x % 5 + 5 * (y % 5)]?.getD 0

/-- A state whose lane (x, y) is given. -/
def Keccak.make (f : Nat → Nat → W64) : Keccak := Vector.ofFn fun i => f (i.val % 5) (i.val / 5)

/-- θ. -/
def Keccak.theta (a : Keccak) : Keccak :=
  let c : Vector W64 5 := Vector.ofFn fun x => a.lane x 0 ^^^ a.lane x 1 ^^^ a.lane x 2 ^^^ a.lane x 3 ^^^ a.lane x 4
  let col (x : Nat) : W64 := (c.toList.getD (x % 5) 0)
  Keccak.make fun x y => a.lane x y ^^^ col (x + 4) ^^^ (col (x + 1)).rotateLeft 1

/-- ρ and π: lane (x, y) is that of (x + 3y, x), rotated. -/
def Keccak.rhoPi (a : Keccak) : Keccak :=
  Keccak.make fun x y => (a.lane (x + 3 * y) x).rotateLeft (Keccak.turns.getD ((x + 3 * y) % 5 + 5 * x) 0)

/-- χ. -/
def Keccak.chi (a : Keccak) : Keccak := Keccak.make fun x y => a.lane x y ^^^ (~~~(a.lane (x + 1) y) &&& a.lane (x + 2) y)

/-- A round with its constant (ι). -/
def Keccak.round (a : Keccak) (rc : W64) : Keccak :=
  let b := a.theta.rhoPi.chi
  Keccak.make fun x y => if x = 0 ∧ y = 0 then b.lane 0 0 ^^^ rc else b.lane x y

/-- Keccak-f[1600]. -/
def Keccak.permute (a : Keccak) : Keccak := Keccak.iotas.foldl Keccak.round a

/-- Takes in a block of 136 bytes. -/
def Keccak.absorb (a : Keccak) (block : List Byte) : Keccak :=
  (Keccak.make fun x y => a.lane x y ^^^ BitVec.ofNat 64 (leNat ((block.drop (8 * (x + 5 * y))).take 8))).permute

/-- A message with SHAKE's suffix, padded to whole blocks. -/
def shakePad (bs : List Byte) : List Byte :=
  let free := 135 - bs.length % 136
  if free = 0 then bs ++ [0x9F] else bs ++ 0x1F :: List.replicate (free - 1) 0 ++ [0x80]

/-- The blocks of a padded message taken in. -/
def Keccak.absorbAll (a : Keccak) (bs : List Byte) : Nat → Keccak
  | 0 => a
  | n + 1 => (a.absorb (bs.take 136)).absorbAll (bs.drop 136) n

/-- Gives out n blocks of 136 bytes. -/
def Keccak.squeeze (a : Keccak) : Nat → List Byte
  | 0 => []
  | n + 1 => ((a.toList.take 17).flatMap fun w => leBytes 8 w.toNat) ++ a.permute.squeeze n

/-- SHAKE256 with n bytes of output. -/
def shake256 (bs : List Byte) (n : Nat) : List Byte :=
  let m := shakePad bs
  ((Keccak.absorbAll (Vector.replicate 25 0) m (m.length / 136)).squeeze (n / 136 + 1)).take n

/-! AES-256-XTS. -/

/-- Twice a byte in GF(2^8). -/
def gfDouble (x : Byte) : Byte := (x <<< 1) ^^^ (if x.getLsbD 7 then 0x1B else 0)

/-- A product in GF(2^8), over the low n bits of the second factor. -/
def gfMul (x y : Byte) : Nat → Byte
  | 0 => 0
  | n + 1 => (if y.getLsbD 0 then x else 0) ^^^ gfMul (gfDouble x) (y >>> 1) n

/-- The inverse in GF(2^8), 0 of 0: the 254th power. -/
def gfInv (x : Byte) : Byte :=
  let sq (y : Byte) : Byte := gfMul y y 8
  (List.range 6).foldl (fun a _ => gfMul (sq a) x 8) x |> sq

/-- The S-box. -/
def aesSub (x : Byte) : Byte :=
  let b := gfInv x
  b ^^^ b.rotateLeft 1 ^^^ b.rotateLeft 2 ^^^ b.rotateLeft 3 ^^^ b.rotateLeft 4 ^^^ 0x63

/-- The inverse S-box. -/
def aesUnsub (x : Byte) : Byte := gfInv (x.rotateLeft 1 ^^^ x.rotateLeft 3 ^^^ x.rotateLeft 6 ^^^ 0x05)

/-- Two lists of bytes, exclusive or. -/
def xorBytes (a b : List Byte) : List Byte := List.zipWith (· ^^^ ·) a b

/-- The next word of a key schedule: word i from the words so far, last first. -/
def aesWord (ws : List (List Byte)) (i : Nat) : List Byte :=
  let prev := ws.headD []
  let t :=
    if i % 8 = 0 then xorBytes ((prev.drop 1 ++ prev.take 1).map aesSub) [(List.range (i / 8 - 1)).foldl (fun r _ => gfDouble r) 1, 0, 0, 0]
    else if i % 8 = 4 then prev.map aesSub
    else prev
  xorBytes t (ws.getD 7 [])

/-- The 15 round keys of a 32-byte key. -/
def aesKeys (key : List Byte) : List (List Byte) :=
  let first := ((List.range 8).map fun i => (key.drop (4 * i)).take 4).reverse
  let ws := ((List.range 52).foldl (fun l i => aesWord l (i + 8) :: l) first).reverse
  (List.range 15).map fun r => ((ws.drop (4 * r)).take 4).flatten

/-- Each column of a 16-byte block by a circulant matrix over GF(2^8), its first row given. -/
def aesMix (row : List Byte) (b : List Byte) : List Byte :=
  (List.range 16).map fun i => (List.range 4).foldl (fun acc j =>
    acc ^^^ gfMul (b.getD (i / 4 * 4 + j) 0) (row.getD ((j + 4 - i % 4) % 4) 0) 8) 0

/-- The rows of a block rotated, row r by k·r bytes. -/
def aesShift (k : Nat) (b : List Byte) : List Byte :=
  (List.range 16).map fun i => b.getD ((i + 4 * k * (i % 4)) % 16) 0

/-- AES-256 of a block under its round keys. -/
def aesEnc (keys : List (List Byte)) (b : List Byte) : List Byte :=
  let b1 := (List.range 13).foldl (fun x r => xorBytes (aesMix [2, 3, 1, 1] (aesShift 1 (x.map aesSub))) (keys.getD (r + 1) []))
    (xorBytes b (keys.getD 0 []))
  xorBytes (aesShift 1 (b1.map aesSub)) (keys.getD 14 [])

/-- The inverse of `aesEnc`. -/
def aesDec (keys : List (List Byte)) (b : List Byte) : List Byte :=
  let b1 := (List.range 13).foldl (fun x r => aesMix [14, 11, 13, 9] (xorBytes ((aesShift 3 x).map aesUnsub) (keys.getD (13 - r) [])))
    (xorBytes b (keys.getD 14 []))
  xorBytes ((aesShift 3 b1).map aesUnsub) (keys.getD 0 [])

/-- The next block's mask of XTS: times α in GF(2^128). -/
def xtsNext (t : List Byte) : List Byte :=
  let x := BitVec.ofNat 128 (leNat t)
  leBytes 16 ((x <<< 1) ^^^ (if x.getLsbD 127 then 0x87 else 0)).toNat

/-- A 64-byte line through XTS: each block masked, passed through a cipher and masked again. -/
def xtsLine (cipher : List Byte → List Byte) (mask : List Byte) (bs : List Byte) : Nat → List Byte
  | 0 => []
  | n + 1 => xorBytes (cipher (xorBytes (bs.take 16) mask)) mask ++ xtsLine cipher (xtsNext mask) (bs.drop 16) n

/-- The 32 bytes of a key register's data key, or of its tweak key (R329). -/
def keyHalf (key : BitVec 512) (tweak : Bool) : List Byte := leBytes 32 (key.toNat / (if tweak then 2 ^ 256 else 1))

/-- A line encrypted under a key register's value with a tweak (R329). -/
def xtsEncrypt (key : BitVec 512) (tweak : Nat) (bs : List Byte) : List Byte :=
  let ks := aesKeys (keyHalf key false)
  xtsLine (aesEnc ks) (aesEnc (aesKeys (keyHalf key true)) (leBytes 16 tweak)) bs 4

/-- A line decrypted. -/
def xtsDecrypt (key : BitVec 512) (tweak : Nat) (bs : List Byte) : List Byte :=
  let ks := aesKeys (keyHalf key false)
  xtsLine (aesDec ks) (aesEnc (aesKeys (keyHalf key true)) (leBytes 16 tweak)) bs 4

end Sys2Proof.Machine
end

