-- ==== Sys2Proof/Machine/Mem.lean ====
section
/-!
DEFINITION. Scratchpads: stored words and their errors (R69, R70), the states of halfwords (R71 to R74), reads, writes
and vacates, and the issue checks of slot 4 (R76); the byte memories of the control cores.
-/

namespace Sys2Proof.Machine

/-! Stored words (R69, R70). A word is uncorrectable when two or more of its 77 stored bits are inverted (log 13, DESIGN CHOICE). -/

/-- The inverted bits of a word. -/
def Scratch.flipsIn (m : Scratch) (w : Nat) : List Nat := m.flips.filter fun f => f / 77 == w

/-- Whether a word is uncorrectable. -/
def Scratch.bad (m : Scratch) (w : Nat) : Bool := decide (2 ≤ (m.flipsIn w).length)

/-- Bit number of a stored-bit error within its byte, for data bits. -/
def flipBit (f : Nat) : Nat := f % 77 % 8

/-- The errors of a byte of a word. -/
def Scratch.errMask (m : Scratch) (off : Nat) : Byte :=
  (m.flipsIn (off / 8)).foldr (fun f acc =>
    if f % 77 < 64 ∧ f % 77 / 8 = off % 8 then BitVec.twoPow 8 (flipBit f) ^^^ acc else acc) 0

/-- A byte as a read returns it: corrected, or as stored in an uncorrectable word. -/
def Scratch.byte (m : Scratch) (off : Nat) : Byte :=
  if m.bad (off / 8) then tabGet 0xFF m.data off ^^^ m.errMask off else tabGet 0xFF m.data off

/-- Whether a byte's halfword is present (R71). -/
def Scratch.has (m : Scratch) (off : Nat) : Bool := setHas m.pres (off / 2)

/-- Whether a byte's sector is poisoned (R69). -/
def Scratch.poisoned (m : Scratch) (off : Nat) : Bool := setHas m.pois (off / 32)

/-- A byte as a load returns it: fill where vacant (R73). -/
def Scratch.load (m : Scratch) (off : Nat) : Byte := if m.has off then m.byte off else 0xFF

/-- What concerns the sectors of bytes off to off + n − 1: every test and read of them answers as in the whole. -/
def Scratch.near (m : Scratch) (off n : Nat) : Scratch :=
  let lo := off / 32
  let hi := (off + n) / 32 + 1
  { data := tabNear m.data (32 * lo) (32 * (hi - lo))
    pres := m.pres.filter fun h => decide (lo ≤ h / 16 ∧ h / 16 < hi)
    pois := m.pois.filter fun p => decide (lo ≤ p ∧ p < hi)
    flips := m.flips.filter fun f => decide (lo ≤ f / 308 ∧ f / 308 < hi)
    told := m.told.filter fun p => decide (lo ≤ p ∧ p < hi) }

/-- Bytes as a load returns them. -/
def Scratch.loads (m : Scratch) (off n : Nat) : List Byte :=
  let w := m.near off n
  (List.range n).map fun i => w.load (off + i)

/-- Whether a byte range covers a word wholly. -/
def covers (off len w : Nat) : Bool := decide (off ≤ 8 * w ∧ 8 * w + 8 ≤ off + len)

/-- A word written anew: a partly written uncorrectable word keeps its other bytes as read (R70), vacant ones at 0xFF
(R75). -/
def Scratch.settleWord (m : Scratch) (off len w : Nat) : Scratch :=
  let raw := if covers off len w then m.data
    else if m.bad w then tabPut 0xFF m.data (8 * w) ((List.range 8).map fun i => m.load (8 * w + i)) else m.data
  { m with data := raw, flips := m.flips.filter fun f => f / 77 != w }

/-- The words of a range written anew. -/
def Scratch.settle (m : Scratch) (off len : Nat) : Scratch :=
  if m.flips.isEmpty then m else (touched 8 off len).foldl (fun a w => a.settleWord off len w) m

/-- Writes bytes and makes their halfwords present (R73, R75). -/
def Scratch.put (m : Scratch) (off : Nat) (bs : List Byte) : Scratch :=
  if bs.isEmpty then m else
  let a := m.settle off bs.length
  { a with data := tabPut 0xFF a.data off bs, pres := setAddRun a.pres (off / 2) ((off + bs.length - 1) / 2 - off / 2 + 1) }

/-- Poisons a sector (R69). -/
def Scratch.poison (m : Scratch) (sec : Nat) : Scratch := { m with pois := setAdd m.pois sec }

/-- Poisons a sector in which an uncorrectable error has been found (R10). -/
def Scratch.mark (m : Scratch) (sec : Nat) : Scratch := { m with pois := setAdd m.pois sec, told := setAdd m.told sec }

/-- Clears the poison of a sector that is wholly vacant, writing its words whole (R85). -/
def Scratch.unpoison (m : Scratch) (sec : Nat) : Scratch :=
  if (List.range 16).all fun i => !setHas m.pres (16 * sec + i) then
    { m with pois := setDel m.pois sec, flips := m.flips.filter fun f => f / 77 / 4 != sec, told := setDel m.told sec }
  else m

/-- Makes whole halfwords vacant, their bytes 0xFF. -/
def Scratch.vacate (m : Scratch) (off len : Nat) : Scratch :=
  if len = 0 then m else
  let a := m.settle off len
  { a with data := tabPut 0xFF a.data off (List.replicate len 0xFF), pres := setDelRun a.pres (off / 2) (len / 2) }

/-- `vac` (R85): vacates, and clears the poison of sectors then wholly vacant. -/
def Scratch.vac (m : Scratch) (off len : Nat) : Scratch :=
  (touched 32 off len).foldl (fun a sec => a.unpoison sec) (m.vacate off len)

/-- Uncorrectable words of a range whose sector has had no error found: those a read finds first, in a sector that carries poison
too (R10, R105; log 55, DESIGN CHOICE). -/
def Scratch.foundRead (m : Scratch) (off len : Nat) : List Nat :=
  if m.flips.isEmpty then []
  else (touched 8 off len).filter fun w => m.bad w && !setHas m.told (w / 4)

/-- Those that a write of the range finds: partly covered words (R70). -/
def Scratch.foundWrite (m : Scratch) (off len : Nat) : List Nat :=
  (m.foundRead off len).filter fun w => !covers off len w

/-- Corrects the single-bit errors of the words a read touches (R70). -/
def Scratch.correct (m : Scratch) (off len : Nat) : Scratch :=
  if m.flips.isEmpty then m
  else { m with flips := m.flips.filter fun f => !((touched 8 off len).contains (f / 77) && !m.bad (f / 77)) }

/-- The canonical form of a scratchpad: its tables and sets are sorted and hold no default, and a vacant byte holds
0xFF. -/
def Scratch.wf (m : Scratch) : Bool :=
  tabWf 0xFF m.data && setWf m.pres && setWf m.pois && setWf m.flips && setWf m.told &&
    m.data.all fun c => setHas m.pres (c.1 / 2)

/-! States of a core's halfwords (R71 to R74). -/

/-- Whether a sector is pending (R71). -/
def Core.pending (k : Core) (off : Nat) : Bool := k.pend.any fun t => t.1 == off / 32

/-- Whether a sector is in transit (R71). -/
def Core.inTransit (k : Core) (off : Nat) : Bool := k.transit.any fun t => t.1 == off / 32

/-- Whether a sector is under an operand hold (R73, R197). -/
def Core.held (k : Core) (off : Nat) : Bool := k.holds.any fun t => t.1 == off / 32

/-- Whether a halfword is locked (R72). -/
def Core.locked (k : Core) (off : Nat) : Bool :=
  k.locks.any fun l => decide (l.first ≤ off / 2 ∧ off / 2 < l.first + l.count)

/-- Whether a byte counts as vacant for a stream operation's source (R74). -/
def Core.countsVacant (k : Core) (off : Nat) : Bool :=
  !k.mem.has off || k.pending off || k.inTransit off || k.locked off || k.mem.poisoned off

/-- Whether a byte counts as present for a stream operation's destination (R74). -/
def Core.countsPresent (k : Core) (off : Nat) : Bool :=
  k.mem.has off || k.pending off || k.inTransit off || k.locked off || k.mem.poisoned off

/-- An engine access returns the segments that it names to power (R94). -/
def Core.powerUp (k : Core) (off len : Nat) : Core :=
  if k.segDown = 0 then k else { k with segDown := (touched 0x40000 off len).foldl (fun d g => setBit d g false) k.segDown }

/-- Kinds of slot 4 access: the columns of R73. -/
inductive Acc4 where
  | load | store | take | vac | atomic
deriving DecidableEq, Repr

/-- A precise trap without operand values. -/
def trap (code : BitVec 8) : SlotFault := ⟨code, 0, 0, []⟩

/-- The words an access finds uncorrectable (R10, R70); `vac` finds them without trapping. -/
def Core.found (k : Core) (kind : Acc4) (off len : Nat) : List Nat :=
  match kind with
  | .load => k.mem.foundRead off len
  | .take => k.mem.foundRead off len
  | .atomic => k.mem.foundRead off len
  | .store => k.mem.foundWrite off len
  | .vac => []

/-- Whether an access meets OCCUPIED at a byte (R73). -/
def Core.occupied (k : Core) (kind : Acc4) (off : Nat) : Bool :=
  match kind with
  | .load => false
  | .atomic => k.pending off || k.inTransit off || (k.locked off && k.mem.has off)
  | _ => k.pending off || k.inTransit off || k.locked off

/-- A core with what concerns the span of some ranges only: the checks below answer as on the whole. -/
def Core.near (k : Core) (rs : List (Nat × Nat)) : Core :=
  let lo := rs.foldl (fun m r => min m r.1) 0x800000
  let hi := rs.foldl (fun m r => max m (r.1 + r.2)) 0
  let inSec (t : Nat × Nat) : Bool := decide (lo / 32 ≤ t.1 ∧ t.1 ≤ hi / 32)
  { k with mem := k.mem.near lo (hi - lo), pend := k.pend.filter inSec, transit := k.transit.filter inSec,
           holds := k.holds.filter inSec }

/-- Steps 5 to 8 of R76 over ranges (offset, length) by R73. -/
def Core.stateChecks (k : Core) (vtrap : Bool) (kind : Acc4) (rs : List (Nat × Nat)) : Option SlotFault :=
  let k := k.near rs
  let bytes := rs.map fun r => (List.range r.2).map (r.1 + ·)
  let found := (rs.map fun r => k.found kind r.1 r.2).flatten
  let anyB (f : Nat → Bool) : Bool := bytes.any fun l => l.any f
  if kind != .vac && (!found.isEmpty || (!k.mem.pois.isEmpty && anyB k.mem.poisoned)) then
    some { trap 0x08 with found := found }
  else if anyB (k.occupied kind) then some (trap 0x10)
  else if kind != .load && !k.holds.isEmpty && anyB k.held then some (trap 0x09)
  else if (kind == .atomic || (vtrap && (kind == .load || kind == .take))) && anyB (fun a => !k.mem.has a) then
    some (trap 0x07)
  else none

/-- Whether a context owns every segment of a range (R91). -/
def Ctx.ownsRange (x : Ctx) (off len : Nat) : Bool := (touched 0x40000 off len).all x.owns

/-- Steps 1 to 3 of R76 for one range: alignment, bound, ownership. -/
def addrChecks (x : Ctx) (align a len : Nat) : Option SlotFault :=
  if a % align ≠ 0 then some (trap 0x05)
  else if 0x800000 < a + len then some (trap 0x06)
  else if !x.ownsRange a len then some (trap 0x06)
  else none

/-- The loss of a fill: whether any byte of the ranges reads as fill, which sets STATUS.VAC (R73). -/
def Core.anyFill (k : Core) (rs : List (Nat × Nat)) : Bool :=
  rs.any fun r =>
    let m := k.mem.near r.1 r.2
    (List.range r.2).any fun i => !m.has (r.1 + i)

/-! Byte memories. -/

/-- Reads n bytes of a memory whose unlisted bytes read 0. -/
def bytesOf (m : List Host.Cell) (off n : Nat) : List Byte := tabRun 0 m off n

/-- Writes bytes of a memory whose unlisted bytes read 0. -/
def putBytes (m : List Host.Cell) (off : Nat) (bs : List Byte) : List Host.Cell := tabPut 0 m off bs

/-- Reads a doubleword. -/
def dwordOf (m : List Host.Cell) (off : Nat) : W64 := BitVec.ofNat 64 (leNat (bytesOf m off 8))

/-- Writes a doubleword. -/
def putDword (m : List Host.Cell) (off : Nat) (v : W64) : List Host.Cell := putBytes m off (leBytes 8 v.toNat)

end Sys2Proof.Machine
end

