-- ==== Sys2Proof/Machine/Dev.lean ====
section
/-!
DEFINITION. Device memory and Canvas: codewords (R322, R323), keys (R329), vacancy and poison per sector, partial
writes (R349); page tables, translation and frames (R226, R229 to R234); accesses that Easel and the host make.
-/

namespace Sys2Proof.Machine

/-- The memories with codewords: device memory, a tower's Canvas page region, a tower's block store. -/
inductive DevSpace where
  | gddr
  | page (t : Bool)
  | block (t : Bool)
deriving DecidableEq, Repr

/-- A device memory. -/
def State.dmem (s : State) : DevSpace → DevMem
  | .gddr => s.dev
  | .page t => (s.tower t).canvPages
  | .block t => (s.tower t).canvBlocks

/-- Changes a device memory. -/
def State.modDmem (s : State) (sp : DevSpace) (f : DevMem → DevMem) : State :=
  match sp with
  | .gddr => { s with dev := f s.dev }
  | .page t => s.modTower t fun w => { w with canvPages := f w.canvPages }
  | .block t => s.modTower t fun w => { w with canvBlocks := f w.canvBlocks }

/-- The rank of a line: one of 24 GDDR channels, or 24 + die for a tower's two Canvas dies (R4, log 15, DESIGN CHOICE). -/
def rankOf (sp : DevSpace) (line : Nat) : Nat := match sp with
  | .gddr => line % 24
  | .page _ => 24 + line % 2
  | .block _ => 24 + line % 2

/-- The tower that keeps a rank's erasure table (log 15, DESIGN CHOICE). -/
def rankTower (sp : DevSpace) (line : Nat) : Bool := match sp with
  | .gddr => decide (12 ≤ line % 24)
  | .page t => t
  | .block t => t

/-- The erasure table of the rank of a line (R323). -/
def State.erasures (s : State) (sp : DevSpace) (line : Nat) : List Nat :=
  match (s.tower (rankTower sp line)).erasures.find? (·.1 == rankOf sp line) with
  | some e => e.2
  | none => []

/-- The altered symbols of a line. -/
def DevMem.symsIn (m : DevMem) (line : Nat) : List Nat :=
  (m.syms.filter fun y => y / 72 == line).map (· % 72)

/-- Whether altered symbols are uncorrectable under an erasure table: 2e + f > 6 (R322). -/
def badSyms (er syms : List Nat) : Bool :=
  let e := syms.filter fun y => !er.contains y
  decide (6 < 2 * e.length + er.length) && !e.isEmpty

/-- Whether a line's codeword is uncorrectable (R322). -/
def State.lineBad (s : State) (sp : DevSpace) (line : Nat) : Bool := badSyms (s.erasures sp line) ((s.dmem sp).symsIn line)

/-- Whether a read of a line finds its uncorrectable error first: the codeword is uncorrectable and that has not been reported, in a
line that carries poison too, or the scrubber has found it and no command has read it since (R105, R323). -/
def State.unread (s : State) (sp : DevSpace) (line : Nat) : Bool :=
  (s.lineBad sp line && !setHas (s.dmem sp).told line) || setHas (s.dmem sp).silent line

/-- Whether a sector is present (R322). -/
def DevMem.has (m : DevMem) (addr : Nat) : Bool := setHas m.pres (addr / 32)

/-- Whether a sector is poisoned (R322). -/
def DevMem.poisoned (m : DevMem) (addr : Nat) : Bool := setHas m.pois (addr / 32)

/-- The content of a line as a number. -/
def DevMem.lineNat (m : DevMem) (line : Nat) : Nat := leNat (tabRun 0xFF m.data (64 * line) 64)

/-- The tweak of a line: its physical address divided by 64, with the tower in bit 40; of device memory, whose tower 1 begins at
128 GiB (R329, log 65, DEDUCED). -/
def DevMem.tweak (m : DevMem) (line : Nat) : Nat := m.unit + line + (if 2 ^ 31 ≤ line then 2 ^ 40 else 0)

/-- A byte read under a key: fill where the sector is vacant; where the line was written under another key, what this one makes of
its ciphertext (R159, R329). -/
def DevMem.byte (m : DevMem) (key : BitVec 512) (addr : Nat) : Byte :=
  let line := addr / 64
  let was := tabGet 0 m.keys line
  if !m.has addr then 0xFF
  else if was = key then tabGet 0xFF m.data addr
  else (xtsDecrypt key (m.tweak line) (xtsEncrypt was (m.tweak line) (tabRun 0xFF m.data (64 * line) 64))).getD (addr % 64) 0

/-- Bytes read under a key. -/
def DevMem.bytes (m : DevMem) (key : BitVec 512) (addr n : Nat) : List Byte :=
  (List.range n).map fun i => m.byte key (addr + i)

/-- A sector's 16 halfwords after a write of some bytes, R349: `cov i = none` where byte i is not covered,
`some none` where it becomes vacant, `some (some b)` where it gets b. -/
def settleSector (m : DevMem) (key : BitVec 512) (sec : Nat) (cov : Nat → Option (Option Byte)) : Option (List Byte) :=
  let vac := !setHas m.pres sec
  let now (i : Nat) : Option Byte := match cov i with
    | none => if vac then none else some (m.byte key (32 * sec + i))
    | some x => x
  if (List.range 32).all fun i => (now i).isNone then none
  else some ((List.range 32).map fun i => (now i).getD 0xFF)

/-- Stores a settled sector: vacant, or present with its bytes; the line is then under the key, its other sector as
read under it, and its codeword written anew. Of a line that is uncorrectable under its rank's erasure table `er` the bytes that the
write does not cover cannot be read back: the sectors that it does not cover whole, `this` its own and `both` its other, are poisoned,
and reported at their first read unless the error has been reported (R105; log 26, DEDUCED). -/
def DevMem.setSector (m : DevMem) (er : Nat → List Nat) (key : BitVec 512) (sec : Nat) (this both : Bool) (c : Option (List Byte)) :
    DevMem :=
  let line := sec / 2
  let other := if sec % 2 = 0 then sec + 1 else sec - 1
  let m1 := if tabGet 0 m.keys line = key then m
    else { m with data := tabPut 0xFF m.data (32 * other) (m.bytes key (32 * other) 32), keys := tabSet 0 m.keys line key }
  let m2 := if m1.syms.isEmpty then m1
    else
      let bad := badSyms (er line) (m1.symsIn line)
      let p1 := if bad && !both then setAdd m1.pois other else m1.pois
      { m1 with
        syms := m1.syms.filter fun y => y / 72 != line
        pois := if bad && !this then setAdd p1 sec else p1
        silent := if bad && !(this && both) && !setHas m1.told line then setAdd m1.silent line else m1.silent
        told := setDel m1.told line }
  match c with
  | none => { m2 with data := tabPut 0xFF m2.data (32 * sec) (List.replicate 32 0xFF), pres := setDel m2.pres sec }
  | some bs => { m2 with data := tabPut 0xFF m2.data (32 * sec) bs, pres := setAdd m2.pres sec }

/-- Writes bytes, or vacancy, byte by byte from an address (R349). -/
def DevMem.write (m : DevMem) (er : Nat → List Nat) (key : BitVec 512) (addr : Nat) (bs : List (Option Byte)) : DevMem :=
  (touched 32 addr bs.length).foldl (fun a sec =>
    let whole (q : Nat) : Bool := decide (addr ≤ 32 * q ∧ 32 * q + 32 ≤ addr + bs.length)
    a.setSector er key sec (whole sec) (whole (if sec % 2 = 0 then sec + 1 else sec - 1)) (settleSector a key sec fun i =>
      if 32 * sec + i < addr then none else (bs[32 * sec + i - addr]?))) m

/-- A range made wholly vacant and clean, as a new frame is (R226, R349). -/
def DevMem.wipe (m : DevMem) (a n : Nat) : DevMem :=
  { unit := m.unit
    data := m.data.filter fun e => !decide (a ≤ e.1 ∧ e.1 < a + n)
    pres := m.pres.filter fun e => !decide (a / 32 ≤ e ∧ e < (a + n) / 32)
    pois := m.pois.filter fun e => !decide (a / 32 ≤ e ∧ e < (a + n) / 32)
    syms := m.syms.filter fun e => !decide (a / 64 * 72 ≤ e ∧ e < (a + n) / 64 * 72)
    keys := m.keys.filter fun e => !decide (a / 64 ≤ e.1 ∧ e.1 < (a + n) / 64)
    silent := m.silent.filter fun e => !decide (a / 64 ≤ e ∧ e < (a + n) / 64)
    told := m.told.filter fun e => !decide (a / 64 ≤ e ∧ e < (a + n) / 64) }

/-- Poisons a sector. -/
def DevMem.poison (m : DevMem) (sec : Nat) : DevMem := { m with pois := setAdd m.pois sec }

/-- A line in which an uncorrectable error has been found: both sectors are poison (R105). -/
def DevMem.mark (m : DevMem) (line : Nat) : DevMem :=
  { (m.poison (2 * line)).poison (2 * line + 1) with silent := setDel m.silent line, told := setAdd m.told line }

/-- The canonical form of a device memory. -/
def DevMem.wf (m : DevMem) : Bool :=
  tabWf 0xFF m.data && setWf m.pres && setWf m.pois && setWf m.syms && tabWf 0 m.keys && setWf m.silent && setWf m.told

/-- The canonical form of every memory of the device and of the host. -/
def Memory.wf (s : State) : Bool :=
  s.cores.toList.all (fun k => k.mem.wf && tabWf 0 k.imem) && s.dev.wf && tabWf 0 s.hostmem &&
    [s.tower0, s.tower1].all fun w => w.canvPages.wf && w.canvBlocks.wf && tabWf 0 w.ctlmem && tabWf 0 w.qmem

/-! Keys (R329). -/

/-- The key of an index. -/
def State.key (s : State) (i : Nat) : BitVec 512 := s.keys[i % 64]'(Nat.mod_lt _ (by decide))

/-! The page table (R229 to R232). -/

/-- Whether an address is canonical (R229). -/
def canonical (a : Nat) : Bool := decide (a % 2 ^ 64 < 2 ^ 48) || decide (2 ^ 64 - 2 ^ 48 ≤ a % 2 ^ 64)

/-- A page table entry's fields (R231). -/
def pteV (e : W64) : Bool := bit e 63
/-- W (R231). -/
def pteW (e : W64) : Bool := bit e 62
/-- PIN (R231). -/
def ptePin (e : W64) : Bool := bit e 61
/-- LEAF (R231). -/
def pteLeaf (e : W64) : Bool := bit e 60
/-- KIND (R231). -/
def pteKind (e : W64) : Nat := fld e 59 58
/-- TGT (R231). -/
def pteTgt (e : W64) : Nat := fld e 57 56
/-- KEY (R231). -/
def pteKey (e : W64) : Nat := fld e 55 50
/-- NEAR (R231). -/
def pteNear (e : W64) : Nat := fld e 49 48
/-- VACP (R231). -/
def pteVacp (e : W64) : Bool := bit e 47
/-- FRAME (R231). -/
def pteFrame (e : W64) : Nat := fld e 43 0

/-- A leaf found by a walk: the entry's address and value, and whether it maps a 32 MiB page. -/
structure Leaf where
  at_ : Nat
  entry : W64
  big : Bool
deriving DecidableEq, Repr

/-- The size of a leaf's page. -/
def Leaf.size (l : Leaf) : Nat := if l.big then 2 ^ 25 else 2 ^ 16

/-- What a walk comes to: a leaf, or the line of an entry that is uncorrectable, or found so before and poisoned, or none where
an entry is not valid (R230, R323, R324). -/
inductive Walk where
  | leaf (l : Leaf)
  | invalid (bad : Option Nat)
deriving DecidableEq, Repr

/-- An entry of a table, read under key 0 (R329). -/
def State.pte (s : State) (addr : Nat) : W64 := BitVec.ofNat 64 (leNat (s.dev.bytes (s.key 0) addr 8))

/-- Whether an entry is valid at all (R231). -/
def pteOk (e : W64) : Bool := pteV e && fld e 46 44 == 0

/-- Whether a leaf entry is valid for its page size; FRAME of a VACP page is ignored (R230, R231). That a leaf with TGT 0b11, or a 32 MiB
leaf whose FRAME[8:0] is not 0, reads as not valid is the model's: the rule gives the fields' form alone (log 73, DESIGN CHOICE). -/
def leafOk (e : W64) (big : Bool) : Bool :=
  pteOk e && pteLeaf e && pteKind e != 3 && pteTgt e != 3 && (!big || pteVacp e || pteFrame e % 512 == 0)

/-- Whether an entry points to a next table (R230, R231). -/
def tableOk (e : W64) : Bool := pteOk e && !pteLeaf e && pteKind e != 3 && pteTgt e == 3

/-- Whether a line of the page table cannot be used: its codeword is uncorrectable, or it has been found so and is poison
(R323, R324). -/
def State.tableBad (s : State) (line : Nat) : Bool :=
  s.lineBad .gddr line || setHas s.dev.pois (2 * line) || setHas s.dev.pois (2 * line + 1)

/-- The walk (R230). -/
def State.walk (s : State) (root va : Nat) : Walk :=
  let a0 := root + 8 * nfld va 48 37
  let e0 := s.pte a0
  if s.tableBad (a0 / 64) then .invalid (some (a0 / 64))
  else if !tableOk e0 then .invalid none
  else
    let a1 := pteFrame e0 * 4096 + 8 * nfld va 36 25
    let e1 := s.pte a1
    if s.tableBad (a1 / 64) then .invalid (some (a1 / 64))
    else if leafOk e1 true then .leaf ⟨a1, e1, true⟩
    else if !tableOk e1 then .invalid none
    else
      let a2 := pteFrame e1 * 4096 + 8 * nfld va 24 16
      let e2 := s.pte a2
      if s.tableBad (a2 / 64) then .invalid (some (a2 / 64))
      else if leafOk e2 false then .leaf ⟨a2, e2, false⟩ else .invalid none

/-! Translation buffers (R233). -/

/-- The virtual page number of an address (R233). -/
def vpnOf (va : Nat) : Nat := nfld va 48 16

/-- The page number under which a page is kept: of a 32 MiB page, address bits [24:16] are taken as 0 (R233). -/
def pageKey (big : Bool) (va : Nat) : Nat := if big then vpnOf va / 512 * 512 else vpnOf va

/-- The home slice of a page number (R233). -/
def homeSlice (vpn : Nat) : Nat :=
  nfld vpn 5 0 ^^^ nfld vpn 11 6 ^^^ nfld vpn 17 12 ^^^ nfld vpn 23 18 ^^^ nfld vpn 29 24 ^^^ nfld vpn 32 30

/-- Whether an entry of a tower's buffers serves an address under a root. -/
def TlbEntry.serves (e : TlbEntry) (root va : Nat) : Bool := e.root == root && e.vpn == pageKey e.big va

/-- The entry that a lookup by a column's engine meets: in its L1, else in the L2 of the page's home slice (R233). -/
def Tower.lookup (w : Tower) (col root va : Nat) : Option TlbEntry :=
  (w.tlb.find? fun e => e.l1 == some col && e.serves root va).or (w.tlb.find? fun e => e.l1.isNone && e.serves root va)

/-- The leaf that a column's engine uses: where its translation buffers keep an entry that the table no longer holds, a
free choice between the old and the new (R233, log 16, DESIGN CHOICE). -/
def State.leaf (s : State) (t : Bool) (col root va : Nat) : Walk :=
  let new := s.walk root va
  match (s.tower t).lookup col root va with
  | none => new
  | some e =>
    let old := Walk.leaf ⟨e.at_, e.entry, e.big⟩
    if old = new then new else if (Config.freeNat s.fresh).testBit (vpnOf va % 64) then old else new

/-- A tower's buffers with an entry entered in a column's L1 of 512 entries, or in the L2 of its home slice of 8192 (R233); which
entry makes room is open (log 16, DESIGN CHOICE). -/
def Tower.keep (w : Tower) (e : TlbEntry) : Tower :=
  let same (x : TlbEntry) : Bool := x.l1 == e.l1 && (e.l1.isSome || homeSlice x.vpn == homeSlice e.vpn)
  let peers := w.tlb.filter fun x => same x && !(x.root == e.root && x.vpn == e.vpn && x.big == e.big)
  { w with tlb := e :: peers.take (if e.l1.isSome then 511 else 8191) ++ w.tlb.filter fun x => !same x }

/-- The buffers keep the leaf that a column's engine has used: its L1, and the home slice's L2 (R233). -/
def State.keepLeaf (s : State) (t : Bool) (col root va : Nat) : Walk → State
  | .invalid _ => s
  | .leaf l => s.modTower t fun w =>
      let e : TlbEntry := ⟨none, root, pageKey l.big va, l.at_, l.entry, l.big⟩
      (w.keep e).keep { e with l1 := some col }

/-- Whether a host page does not answer over CXL.mem: a free choice at each access (R232, log 9, DESIGN CHOICE). -/
def State.hostSilent (s : State) (va : Nat) : Bool := (Config.freeNat s.fresh).testBit (64 + vpnOf va % 64)

/-- Translation failures: a cause of R97, in the order of R232; `silent`: a host page would not answer. -/
def leafCause (tenant : Nat) (write silent : Bool) : Walk → Option (BitVec 7)
  | .invalid _ => some 0x01
  | .leaf l =>
    if pteKey l.entry ≠ tenant then some 0x03
    else if write && !pteW l.entry then some 0x02
    else if pteTgt l.entry == 2 && !pteVacp l.entry && silent then some 0x04
    else none

/-- The physical place of an address under a leaf: memory and byte address; a Canvas page frame's tower stands in bit
40 of its physical address (R329, log 15, DESIGN CHOICE); `none` for host memory. -/
def Leaf.place (l : Leaf) (va : Nat) : Option DevSpace × Nat :=
  let pa := pteFrame l.entry * 2 ^ 16 + va % l.size
  match pteTgt l.entry with
  | 0 => (some .gddr, pa)
  | 1 => (some (.page (pa.testBit 40)), pa % 2 ^ 40)
  | _ => (none, pa)

/-- Whether a leaf's page lies in a memory the device has: 2^22 frames of device memory, 2^16 of each tower's Canvas, or
host memory (R4, R236); a VACP page has no frame (R231). -/
def Leaf.inMemory (l : Leaf) : Bool := pteVacp l.entry || match pteTgt l.entry with
  | 0 => decide (pteFrame l.entry + l.size / 65536 ≤ 2 ^ 22)
  | 1 => decide (pteFrame l.entry / 2 ^ 24 < 2 ∧ pteFrame l.entry % 2 ^ 24 + l.size / 65536 ≤ 2 ^ 16)
  | _ => true

/-- A byte of the job's address space as an engine reads it: vacancy, poison and value (R231, R322). -/
structure VByte where
  val : Option Byte
  pois : Bool
deriving DecidableEq, Repr

/-- Reads a byte through a leaf. -/
def State.leafByte (s : State) (l : Leaf) (va : Nat) : VByte :=
  if pteVacp l.entry then ⟨none, false⟩
  else match l.place va with
  | (some sp, pa) =>
    let m := s.dmem sp
    ⟨if m.has pa then some (m.byte (s.key (pteKey l.entry)) pa) else none, m.poisoned pa⟩
  | (none, pa) => ⟨some (tabGet 0 s.hostmem pa), false⟩

/-! Accesses of Easel and the host in a job's address space, or under key 0 by physical address. -/

/-- The address space of a job: its page table's root. -/
def State.rootOf (s : State) (job : Nat) : Nat := match s.job job with
  | some j => j.ptroot
  | none => 0

/-- Bytes Easel reads at a virtual address; `none` where a page is not valid or vacant, a sector is vacant or a
codeword is uncorrectable (R247). -/
def State.vread (s : State) (job va n : Nat) : Option (List Byte) :=
  let bs := (List.range n).map fun i => match s.walk (s.rootOf job) (va + i) with
    | .leaf l =>
      let bad := !l.inMemory || match l.place (va + i) with
        | (some sp, pa) => s.lineBad sp (pa / 64)
        | (none, _) => false
      if bad then none else (s.leafByte l (va + i)).val
    | .invalid _ => none
  if bs.all Option.isSome then some (bs.map fun b => b.getD 0xFF) else none

/-- The same where no byte is poison either: a record whose data are lost cannot be used (log 77, DEDUCED). -/
def State.vreadClean (s : State) (job va n : Nat) : Option (List Byte) :=
  let pois := (List.range n).any fun i => match s.walk (s.rootOf job) (va + i) with
    | .leaf l => l.inMemory && (s.leafByte l (va + i)).pois
    | .invalid _ => false
  if pois then none else s.vread job va n

/-- Takes n frames, n a power of two, from an aligned place in a pool (R226, R231); `none` where it has none. -/
def takeRun (n : Nat) : List (Nat × Nat) → Option (Nat × List (Nat × Nat))
  | [] => none
  | (f, k) :: r =>
    let a := (f + n - 1) / n * n
    if a + n ≤ f + k then
      some (a, (if f < a then [(f, a - f)] else []) ++ (if a + n < f + k then [(a + n, f + k - a - n)] else []) ++ r)
    else match takeRun n r with
      | none => none
      | some (x, r') => some (x, (f, k) :: r')

/-- Gives n frames back to a pool, joined to their neighbours. -/
def giveRun (f n : Nat) : List (Nat × Nat) → List (Nat × Nat)
  | [] => [(f, n)]
  | (g, k) :: r =>
    if f + n < g then (f, n) :: (g, k) :: r
    else if f + n = g then (f, n + k) :: r
    else if g + k = f then giveRun g (k + n) r
    else (g, k) :: giveRun f n r

/-- The tower whose pool gives a new frame (R231): for `either`, the issuing one (DESIGN CHOICE, log 15). -/
def nearTower (e : W64) (t : Bool) : Bool := match pteNear e with
  | 1 => false
  | 2 => true
  | _ => t

/-- The free frames an entry's page draws on: the Canvas page region's for TGT 0b01 (R226, R236). -/
def Tower.pool (w : Tower) (e : W64) : List (Nat × Nat) := if pteTgt e = 1 then w.pageFrames else w.frames

/-- A tower with that pool replaced. -/
def Tower.setPool (w : Tower) (e : W64) (p : List (Nat × Nat)) : Tower :=
  if pteTgt e = 1 then { w with pageFrames := p } else { w with frames := p }

/-- A new frame for a leaf's page (R226, R231). -/
def State.takeFrame (s : State) (l : Leaf) (t : Bool) : Option (Nat × State) :=
  match takeRun (l.size / 65536) ((s.tower (nearTower l.entry t)).pool l.entry) with
  | none => none
  | some (f, p) => some (f, s.modTower (nearTower l.entry t) fun w => w.setPool l.entry p)

/-- The tower whose memory a frame of an entry's page lies in (R236, log 15, DESIGN CHOICE). -/
def frameTower (e : W64) (f : Nat) : Bool := if pteTgt e = 1 then f.testBit 24 else decide (2 ^ 21 ≤ f)

/-- A frame of a leaf's page returns to the pool of its tower (R226). -/
def State.giveFrame (s : State) (l : Leaf) (f : Nat) : State :=
  s.modTower (frameTower l.entry f) fun w => w.setPool l.entry (giveRun f (l.size / 65536) (w.pool l.entry))

/-- A leaf with FRAME and VACP replaced (R231). -/
def Leaf.withFrame (l : Leaf) (low : Nat) : Leaf :=
  { l with entry := BitVec.ofNat 64 (l.entry.toNat - fld l.entry 47 0 + low) }

/-- A new frame of a leaf's page is wholly vacant and clean (R226). -/
def State.wipeFrame (s : State) (l : Leaf) (f : Nat) : State := match (l.withFrame f).place 0 with
  | (some sp, pa) => s.modDmem sp fun m => m.wipe pa l.size
  | (none, _) => s

/-- Writes the page table entry at an address under key 0. -/
def State.setPte (s : State) (addr : Nat) (e : W64) : State :=
  s.modDmem .gddr fun m => m.write (s.erasures .gddr) (s.key 0) addr ((leBytes 8 e.toNat).map some)

/-- Changes an entry in the table and wherever engines keep it: in the translation buffers and with the commands that have
translated through it (R233). -/
def State.modPte (s : State) (addr : Nat) (f : W64 → W64) : State :=
  let s1 := s.setPte addr (f (s.pte addr))
  let fix (w : Tower) : Tower := { w with tlb := w.tlb.map fun x => if x.at_ == addr then { x with entry := f x.entry } else x }
  let page (p : CmdPage) : CmdPage := if p.at_ == addr then { p with entry := f p.entry } else p
  { s1 with
    tower0 := fix s1.tower0
    tower1 := fix s1.tower1
    cmds := s1.cmds.map fun c => { c with frames := c.frames.map page, vacPages := c.vacPages.map page, readPages := c.readPages.map page } }

/-- An entry written whole. -/
def State.publishPte (s : State) (addr : Nat) (e : W64) : State := s.modPte addr fun _ => e

/-- A publish writes FRAME and VACP of an entry, and nothing else of it (R231, R233). -/
def State.publishFrame (s : State) (addr low : Nat) : State :=
  s.modPte addr fun e => BitVec.ofNat 64 (e.toNat - fld e 47 0 + low)

/-- A host page that has been wholly vacant is used again: it keeps its FRAME, VACP goes, and its bytes, which have read as fill, hold
0xFF (R231; log 61, DESIGN CHOICE). -/
def State.reuseHost (s : State) (l : Leaf) : Leaf × State :=
  let f := pteFrame l.entry
  (l.withFrame f, { s.publishFrame l.at_ f with
    hostmem := tabPut 0 s.hostmem (f * 2 ^ 16) (List.replicate l.size 0xFF) })

/-- A page given a new, wholly vacant frame where it has none (R226, R235): the entry with its frame, and the state. -/
def State.backPage (s : State) (t : Bool) (l : Leaf) : Option (Leaf × State) :=
  if !pteVacp l.entry then some (l, s)
  else if pteTgt l.entry = 2 then some (s.reuseHost l)
  else match s.takeFrame l t with
  | none => none
  | some (f, s1) =>
    some (l.withFrame f, (s1.wipeFrame l f).publishFrame l.at_ f)

/-- Bytes from an address on, cut where n divides the address. -/
def lineRuns (n a : Nat) : List Byte → List (Nat × List Byte)
  | [] => []
  | b :: bs => match lineRuns n (a + 1) bs with
    | [] => [(a, [b])]
    | (c, r) :: rest => if (a + 1) % n = 0 then (a, [b]) :: (c, r) :: rest else (a, b :: r) :: rest

/-- Easel or the host writes bytes of one line in place at a virtual address; nothing where a page is not valid. -/
def State.vwriteRun (s : State) (t : Bool) (job va : Nat) (bs : List Byte) : State :=
  match s.walk (s.rootOf job) va with
  | .invalid _ => s
  | .leaf l => if !l.inMemory then s else match s.backPage t l with
    | none => s
    | some (l, s) => match l.place va with
      | (some sp, pa) => s.modDmem sp fun m => m.write (s.erasures sp) (s.key (pteKey l.entry)) pa (bs.map some)
      | (none, pa) => { s with hostmem := tabPut 0 s.hostmem pa bs }

/-- Writes bytes at a virtual address, a line at a time (R322). -/
def State.vwrite (s : State) (t : Bool) (job va : Nat) (bs : List Byte) : State :=
  (lineRuns 64 va bs).foldl (fun a r => a.vwriteRun t job r.1 r.2) s

/-! Resident pages (R234). -/

/-- The addresses of the entries from an address on, of n, that the table's memory lists; the others read all ones, which is
not valid (R231). -/
def State.entriesIn (s : State) (a n : Nat) : List Nat :=
  ((tabNear s.dev.data a (8 * n)).map fun e => e.1 / 8 * 8).dedup

/-- A 49-bit address made canonical (R229). -/
def toCanonical (a : Nat) : Nat := if 2 ^ 48 ≤ a then a + (2 ^ 64 - 2 ^ 49) else a

/-- The valid leaves of a page table, with their pages' addresses (R230). -/
def State.leavesOf (s : State) (root : Nat) : List (Nat × Leaf) :=
  (s.entriesIn root 4096).flatMap fun a0 =>
    let va0 := (a0 - root) / 8 * 2 ^ 37
    let t1 := pteFrame (s.pte a0) * 4096
    if !tableOk (s.pte a0) then []
    else (s.entriesIn t1 4096).flatMap fun a1 =>
      let va1 := va0 + (a1 - t1) / 8 * 2 ^ 25
      let t2 := pteFrame (s.pte a1) * 4096
      if leafOk (s.pte a1) true then [(toCanonical va1, ⟨a1, s.pte a1, true⟩)]
      else if !tableOk (s.pte a1) then []
      else (s.entriesIn t2 512).filterMap fun a2 =>
        if leafOk (s.pte a2) false then some (toCanonical (va1 + (a2 - t2) / 8 * 2 ^ 16), ⟨a2, s.pte a2, false⟩) else none

/-- The pages of every running job's table that have a frame in a tower: root, page and leaf (R229, R234). -/
def State.residents (s : State) (t : Bool) : List (Nat × Nat × Leaf) :=
  ((s.jobs.map (·.ptroot)).dedup.flatMap fun r => (s.leavesOf r).map fun p => (r, p)).filter fun p =>
    !pteVacp p.2.2.entry && pteTgt p.2.2.entry != 2 && frameTower p.2.2.entry (pteFrame p.2.2.entry) == t

/-- A doubleword at a virtual address; 0 where it cannot be read. -/
def State.vdword (s : State) (job va : Nat) : W64 := match s.vread job va 8 with
  | some l => BitVec.ofNat 64 (leNat l)
  | none => 0

end Sys2Proof.Machine
end

