-- ==== Sys2Proof/Machine/Report.lean ====
section
/-!
DEFINITION. What Easel writes out: completion entries (R293), reports and their rings (R106, R107, R265).
-/

namespace Sys2Proof.Machine

/-! Completion entries (R293). -/

/-- The fields of a completion entry, PH aside, which is set as the entry is written. -/
structure Answer where
  type : Nat
  seq : Nat := 0
  job : Nat := 0
  tenant : Nat := 0
  scope : Nat := 0
  status : Nat := 0
  pay : BitVec 256 := 0
deriving DecidableEq, Repr

/-- The entry of an answer on a global queue number, at a time (R293). -/
def Answer.entry (a : Answer) (q time : Nat) : Rec64 :=
  ofDws 512 [at_ 64 48 a.type ||| at_ 64 32 (q % 4096) ||| at_ 64 0 (a.seq % 2 ^ 32),
    at_ 64 32 a.job ||| at_ 64 12 a.tenant ||| at_ 64 0 a.scope, BitVec.ofNat 64 a.status, BitVec.ofNat 64 time,
    dw a.pay 0, dw a.pay 1, dw a.pay 2, dw a.pay 3]

/-- The tower of a global queue number (R289). -/
def queueTower (q : Nat) : Bool := decide (2048 ≤ q % 4096)

/-- The queue of a global number, as created (R290). -/
def State.queue (s : State) (q : Nat) : Option Queue :=
  (s.tower (queueTower q)).queues.find? (·.index == q % 2048)

/-- Changes a queue. -/
def State.modQueue (s : State) (q : Nat) (f : Queue → Queue) : State :=
  s.modTower (queueTower q) fun w =>
    { w with queues := w.queues.map fun u => if u.index == q % 2048 then f u else u }

/-- The tenant and root scope that a completion entry carries for a job (R293, R304). The spec states none for a job
that does not exist: they are free values then. -/
def State.identOf (s : State) (job : Nat) : Nat × Nat := match s.job job with
  | some j => (j.tenant.toNat, j.root)
  | none => (Config.freeNat s.fresh % 64, Config.freeNat s.fresh / 64 % 4096)

/-- The state after `identOf`: the next free value is another one. -/
def State.identDrawn (s : State) (job : Nat) : State := match s.job job with
  | some _ => s
  | none => { s with fresh := s.fresh + 1 }

/-- How many entries wait in a tower's hold buffer (R306). -/
def Tower.holdCount (w : Tower) : Nat := (w.completions.filter (·.held)).length

/-- Whether a tower's hold buffer is full (R304, R308). -/
def Tower.holdFull (w : Tower) : Bool := w.hold && decide (16384 ≤ w.holdCount)

/-- Easel accepts a completion entry: it joins the hold while one is in force, and waits at its source while the hold buffer is
full (R305, R308). -/
def Tower.accept (w : Tower) (c : Completion) : Tower :=
  if w.holdFull then { w with postWait := w.postWait ++ [c] } else { w with completions := w.completions ++ [{ c with held := w.hold }] }

/-- Entries that waited at their source join the hold while it has room (R308). -/
def Tower.takeIn (w : Tower) : Tower :=
  let n := if w.hold then 16384 - w.holdCount else w.postWait.length
  { w with
    postWait := w.postWait.drop n
    completions := w.completions ++ (w.postWait.take n).map fun c => { c with held := w.hold } }

/-- A hold ends: its entries, then those that waited at their source, can be written in their order (R306, R308). -/
def Tower.release (w : Tower) : Tower :=
  { w with
    hold := false, holdTko := false, postWait := []
    completions := (w.completions ++ w.postWait).map fun c => { c with held := false } }

/-- An entry is accepted for a queue. -/
def State.post (s : State) (q : Nat) (a : Answer) : State :=
  s.modTower (queueTower q) fun w => w.accept ⟨q, a.entry q s.time, false, .none, none, 0⟩

/-- Easel answers an entry whose action has ended: LASTSEQ becomes its SEQ (R292, R293, R303). Nothing is posted for a
queue that has since been disabled. -/
def State.answerLater (s : State) (q : Nat) (seq : BitVec 32) (a : Answer) : State := match s.queue q with
  | none => s
  | some u =>
    if u.busy != some seq then s
    else (s.modQueue q fun u => { u with busy := none, lastseq := seq }).post q { a with seq := seq.toNat }

/-- The answer of TYPE and STATUS to the entry that a queue has taken and not answered: with its job, and that job's tenant and
root scope (R293). -/
def State.answerBusy (s : State) (q : Nat) (seq : BitVec 32) (type status : Nat) (pay : BitVec 256 := 0) : State := match s.queue q with
  | none => s
  | some u =>
    let who := s.identOf u.busyJob
    (s.identDrawn u.busyJob).answerLater q seq { type := type, job := u.busyJob, tenant := who.1, scope := who.2, status := status,
                                                         pay := pay }

/-- An unsolicited entry, to the queue the job's LAUNCH named (R292). -/
def State.postJob (s : State) (job : Nat) (a : Answer) : State := match s.job job with
  | some j => s.post j.cq { a with job := job, tenant := j.tenant.toNat }
  | none => s

/-! Reports (R106, R107). -/

/-- The fields of a report. -/
structure Report where
  core : Nat := 0x1FF
  code : Nat := 0
  pal : Option Nat := none
  cause : Nat
  space : Nat := 0
  tenant : Nat
  scope : Nat
  base : Nat := 0
  sect : Nat := 0
deriving DecidableEq, Repr

/-- The 32 bytes of a report at a time. -/
def Report.words (r : Report) (time : Nat) : List W64 :=
  [at_ 64 56 1 ||| at_ 64 47 (r.core % 512) ||| at_ 64 39 (r.code % 256)
      ||| (match r.pal with | some p => at_ 64 37 1 ||| at_ 64 29 (p % 256) | none => 0)
      ||| at_ 64 21 (r.cause % 256) ||| at_ 64 18 (r.space % 8) ||| at_ 64 12 (r.tenant % 64) ||| at_ 64 0 (r.scope % 4096),
    BitVec.ofNat 64 r.base, BitVec.ofNat 64 r.sect, BitVec.ofNat 64 time]

/-- The bytes of doublewords, little-endian. -/
def dwBytes (l : List W64) : List Byte := (l.map fun x => leBytes 8 x.toNat).flatten

/-- Writes a record into a ring of 2^m entries behind a 32-byte header: write counter, read counter, lost counter
(R106). The answer says whether it was written. -/
def State.ringWrite (s : State) (t : Bool) (job addr m : Nat) (rec : List Byte) : Bool × State :=
  let wr := s.vdword job addr
  let rd := s.vdword job (addr + 8)
  if wr - rd = BitVec.ofNat 64 (2 ^ m) then
    (false, s.vwrite t job (addr + 16) (leBytes 8 (s.vdword job (addr + 16) + 1).toNat))
  else
    let s1 := s.vwrite t job (addr + 32 + rec.length * (wr.toNat % 2 ^ m)) rec
    (true, s1.vwrite t job addr (leBytes 8 (wr + 1).toNat))

/-- The report ring and notification counter a scope uses: its own or its nearest ancestor's (R265). -/
def State.ringOf (s : State) (home : Bool) (id : Nat) : Nat → Option (Nat × Nat × Option Nat)
  | 0 => none
  | fuel + 1 => match s.scope home id with
    | none => none
    | some c => match c.ring with
      | some (a, m) => some (a, m, c.notify)
      | none => if c.depth = 1 then none else s.ringOf home c.parent fuel

/-- Whether a cause is that of a loss report (R105, R107). -/
def isLoss (cause : Nat) : Bool := cause == 1 || cause == 2 || cause == 3

/-- Easel writes a report to the ring of its scope, or posts it as a completion where there is none (R106, R265). -/
def State.report (s : State) (job : Nat) (r : Report) : State :=
  let home := s.homeOf job
  let s0 := if isLoss r.cause then s.modJob job fun j => { j with counts.losses := j.counts.losses + 1 } else s
  match s0.ringOf home r.scope 17 with
  | some (a, m, note) =>
    let (ok, s1) := s0.ringWrite home job a m (dwBytes (r.words s0.time))
    if !ok then s1.modJob job fun j => { j with counts.lost := j.counts.lost + 1 }
    else match note with
    | some n => s1.vwrite home job n (leBytes 8 (s1.vdword job n + 1).toNat)
    | none => s1
  | none => s0.postJob job { type := 0x0A, scope := r.scope, pay := ofDws 256 (r.words s0.time) }

/-! Uncorrectable words and codewords found (R10, R105). -/

/-- A core's words found uncorrectable poison their sectors; one loss report a sector (R10). A sector in which an earlier error has been
found gets none (log 55, DESIGN CHOICE). `pal`: the view of the command that reads (R107). -/
def State.coreFound (s : State) (c : CoreRef) (cause code job tenant scope : Nat) (ws : List Nat) (pal : Option Nat := none) :
    State :=
  (ws.map (· / 4)).dedup.foldl (fun a sec =>
    if setHas (a.core c).mem.told sec then a
    else (a.modCore c fun k => { k with mem := k.mem.mark sec }).report job
      { core := c.val, code := code, pal := pal, cause := cause, tenant := tenant, scope := scope, base := 32 * sec, sect := 1 }) s

/-- A line of device memory or Canvas found uncorrectable poisons both sectors; one report of 2 sectors, unless it has been reported
(R105). `base` is the address as the report gives it; `code` and `pal` are the trap raised with it and
the view of the command that reads (R107). -/
def State.lineFound (s : State) (sp : DevSpace) (line cause space base job tenant scope : Nat) (code : Nat := 0)
    (pal : Option Nat := none) : State :=
  if !s.unread sp line then s
  else (s.modDmem sp fun m => m.mark line).report job
    { code := code, pal := pal, cause := cause, space := space, tenant := tenant, scope := scope, base := base, sect := 2 }

end Sys2Proof.Machine
end

