-- ==== Sys2Proof/Machine/Node.lean ====
section
/-!
DEFINITION. Nodes and scopes as Easel keeps them: the record (R243), insertion and readiness (R244, R245, R247),
completion and successor lists (R247, R274), framed nodes (R263), core sets and their barriers as a kill breaks them (R259, R273),
kills of subtrees (R268, R272, R274).
-/

namespace Sys2Proof.Machine

/-! Fields of a node record (R243). -/

/-- KIND. -/
def recKind (r : Rec64) : Nat := nfld (dw r 0).toNat 63 62
/-- IL. -/
def recIl (r : Rec64) : Bool := bit r 61
/-- FRAMED. -/
def recFramed (r : Rec64) : Bool := bit r 60
/-- PRIO. -/
def recPrio (r : Rec64) : Nat := fld r 59 57
/-- AFM. -/
def recAfm (r : Rec64) : Nat := fld r 56 55
/-- AFF. -/
def recAff (r : Rec64) : Nat := fld r 54 46
/-- The tower that AFF[8] names (R244). -/
def recTower (r : Rec64) : Bool := bit r 54
/-- TENANT. -/
def recTenant (r : Rec64) : Nat := fld r 45 40
/-- SCOPE. -/
def recScope (r : Rec64) : Nat := fld r 39 28
/-- ENTRY. -/
def recEntry (r : Rec64) : BAddr := BitVec.ofNat 15 (fld r 27 14)
/-- PRED. -/
def recPred (r : Rec64) : Nat := nfld (dw r 1).toNat 63 48
/-- SUCC as a canonical address, 0 for none. -/
def recSucc (r : Rec64) : Nat := ((BitVec.ofNat 46 (nfld (dw r 1).toNat 45 0)).signExtend 61 ++ (0 : BitVec 3)).toNat
/-- TICK. -/
def recTick (r : Rec64) : W64 := dw r 2
/-- ABLK. -/
def recAblk (r : Rec64) : Nat := nfld (dw r 3).toNat 22 0
/-- ARG i. -/
def recArg (r : Rec64) (i : Nat) : W64 := dw r (4 + i)

/-- The checks of R243 that need no state: "must be 0" and Easel fields, AFM 3, SCOPE 0, FRAMED with TICK 0, IL or
ENTRY in a node of another kind (R245 step 5). ENTRY has 14 bits, so it is below 0x4000. -/
def recOk (r : Rec64) : Bool :=
  recAfm r != 3 && recScope r != 0 && fld r 13 0 == 0 && nfld (dw r 1).toNat 47 46 == 0 &&
  nfld (dw r 3).toNat 63 23 == 0 && !(recFramed r && recTick r == 0) &&
  (recKind r == 0 || (!recIl r && fld r 27 14 == 0)) && !(recAfm r == 2 && fld r 53 46 != 0)

/-- An entry of a tower's group table; all zero where free (R259). -/
def Tower.group (w : Tower) (id : Nat) : Rec64 := match w.groups.find? (·.1 == id) with
  | some g => g.2
  | none => 0

/-- TYPE of a group table entry (R259). -/
def grpType (g : Rec64) : Nat := nfld (dw g 0).toNat 63 62

/-- Whether a group is a core set holding a core (R259). -/
def grpHas (g : Rec64) (n : Nat) : Bool := grpType g == 1 && bit g (256 + n % 256)

/-- Whether an AFM 1 record names a core set (R245 step 5). -/
def State.recGroupOk (s : State) (r : Rec64) : Bool :=
  recAfm r != 1 || grpType ((s.tower (recTower r)).group (fld r 53 46)) == 1

/-- Whether a check node names a proper descendant of its SCOPE to cancel (R251). -/
def State.checkScopeOk (s : State) (home : Bool) (r : Rec64) : Bool :=
  recKind r != 3 || (recScope r != fld (recArg r 2) 11 0 && s.inSubtree home (recScope r) (fld (recArg r 2) 11 0))

/-! Insertion and readiness. -/

/-- A node whose PRED is 0 and whose tick has come becomes ready: it enters the tail of its queue, and a framed node
gets its deadline (R247, R248, R263). -/
def State.tryReady (s : State) (id : Nat) : State :=
  match s.node id with
  | none => s
  | some n =>
    let frame := match s.job n.job with | some j => j.frame | none => 0
    if n.state != .waiting || n.preds != 0 || (recTick n.nrec != 0 && frame < recTick n.nrec) then s
    else
      let tick := match s.job n.job with | some j => j.ticks + 1 | none => 0
      let s1 := s.modNode id fun n => { n with state := .ready, deadline := if recFramed n.nrec then some tick else none }
      s1.modTower n.tower fun w => { w with ready := w.ready ++ [(recPrio n.nrec, id)] }

/-- The live nodes of a tower's pool. -/
def State.poolCount (s : State) (t : Bool) : Nat := (s.nodes.filter (·.tower == t)).length

/-- Whether a tower's pool has room (R244, R245). -/
def State.poolRoom (s : State) (t : Bool) : Bool := decide (s.poolCount t < (s.tower t).poolSize)

/-- The pool index that a tower gives its next node: the first from `nextNode` on, below 2^31 and not 0, that no live node has
(R244; log 9, DESIGN CHOICE). -/
def State.freshIndex (s : State) (t : Bool) : Nat :=
  let next (i : Nat) : Nat := ((s.tower t).nextNode + i - 1) % (2 ^ 31 - 1) + 1
  next (((List.range (s.poolCount t + 1)).find? fun i => (s.node (towerNat t * 2 ^ 31 + next i)).isNone).getD 0)

/-- Inserts a node in the pool that its affinity names and answers its id (R244). -/
def State.insertNode (s : State) (job : Nat) (r : Rec64) : Nat × State :=
  let t := recTower r
  let i := s.freshIndex t
  let id := towerNat t * 2 ^ 31 + i
  let s1 := s.modTower t fun w => { w with nextNode := i + 1 }
  let s2 := { s1 with nodes := s1.nodes ++ [Node.mk id t job r (recPred r) 0 .waiting none none] }
  (id, s2.tryReady id)

/-! Completion (R247, R274). -/

/-- Subtracts 1 from the PRED of a live node; a predecessor that completed cancelled sets PCAN (R247, R274). -/
def State.resolve (s : State) (id : Nat) (cancelled : Bool) : State :=
  match s.node id with
  | none => s
  | some n => if n.preds = 0 then s else
    (s.modNode id fun n => { n with preds := n.preds - 1, pcan := if cancelled then n.pcan + 1 else n.pcan }).tryReady id

/-- The line of an uncorrectable codeword that a virtual address lies in. -/
def State.badAt (s : State) (job va : Nat) : Option (DevSpace × Nat) := match s.walk (s.rootOf job) va with
  | .leaf l => match l.place va with
    | (some sp, pa) => if s.lineBad sp (pa / 64) then some (sp, pa / 64) else none
    | (none, _) => none
  | .invalid _ => none

/-- Resolves a successor list from an entry on: entries in list order, at most `fuel` more; an unreadable entry ends
it with a report of cause 0x22 (R247). Entries naming nodes of `skip` are ignored (R274). -/
def State.resolveList (s : State) (n : Node) (cancelled : Bool) (skip : List Nat) (va : Nat) : Nat → State
  | 0 => s
  | fuel + 1 => match s.vread n.job va 8 with
    | none =>
      let s1 := match s.badAt n.job va with
        | some (sp, line) => s.modDmem sp fun m => m.mark line
        | none => s
      s1.report n.job { cause := 0x22, space := 1, tenant := recTenant n.nrec, scope := recScope n.nrec, base := va }
    | some bs =>
      let e := leNat bs
      let id := e % 2 ^ 32
      let s1 := if skip.contains id then s else s.resolve id cancelled
      if 2 ^ 63 ≤ e then s1 else s1.resolveList n cancelled skip (va + 8) fuel

/-- Resolves a node's successors (R247). -/
def State.resolveSuccs (s : State) (n : Node) (cancelled : Bool) (skip : List Nat) : State :=
  if recSucc n.nrec = 0 then s else s.resolveList n cancelled skip (recSucc n.nrec) 1024

/-- A framed node that a held FRAME waits for has completed: at the last one FRAME adds 1 at once (R263). -/
def State.unslip (s : State) (job id : Nat) : State := match s.job job with
  | none => s
  | some j =>
    if !j.slipping.contains id then s
    else
      let left := j.slipping.filter (· != id)
      let s1 := s.modJob job fun j => { j with slipping := left, frame := if left.isEmpty then j.frame + 1 else j.frame }
      if left.isEmpty then (s1.nodes.map (·.id)).foldl (fun a i => a.tryReady i) s1 else s1

/-- A node completes and leaves the pool (R247); cancelled completions resolve as such (R274). -/
def State.completeNode (s : State) (id : Nat) (cancelled : Bool) (skip : List Nat) : State :=
  match s.node id with
  | none => s
  | some n =>
    let s1 := { s with nodes := s.nodes.filter (·.id != id) }
    let s2 := s1.modTower n.tower fun w => { w with ready := w.ready.filter (·.2 != id) }
    let s3 := s2.modJob n.job fun j => { j with counts := if cancelled
      then { j.counts with cancelled := j.counts.cancelled + 1 } else { j.counts with done := j.counts.done + 1 } }
    (s3.resolveSuccs n cancelled skip).unslip n.job id

/-! Core sets, barriers (R259 to R261, R273). -/

/-- The member cores of a core set, in ascending core id (R259). -/
def State.members (s : State) (t : Bool) (g : Nat) : List CoreRef :=
  ((List.range 256).filter fun n => bit ((s.tower t).group g) (256 + n)).map fun n => coreOfId (256 * towerNat t + n)

/-- Changes the context saved in a node's frame or image. -/
def State.mapImage (s : State) (id : Nat) (f : Ctx → Ctx) : State :=
  s.modNode id fun n => { n with image := n.image.map fun im => { im with ctx := f im.ctx } }

/-- A continuation that has arrived at a barrier: its node and core, its arrival, its result register, its context, none while it
is saved. -/
structure Waiter where
  node : Nat
  core : CoreRef
  arrival : Nat
  pd : BitVec 3
  ctx : Option CtxRef
deriving DecidableEq, Repr

/-- The arrival of a context that waits at a group's barrier, with its result register (R260). -/
def gbarAt (g : Nat) (x : Ctx) : Option (Nat × BitVec 3) := match x.status with
  | .parked (.gbar g' pd a) => if g' = g then some (a, pd) else none
  | _ => none

/-- The same of an atelier's barrier (R261). -/
def cbarAt (g : Nat) (x : Ctx) : Option (Nat × BitVec 3) := match x.status with
  | .parked (.cbar pd a) => if x.atelier = some g then some (a, pd) else none
  | _ => none

/-- The waiters at a barrier of a tower, running or saved. -/
def State.waiters (s : State) (t : Bool) (sel : Ctx → Option (Nat × BitVec 3)) : List Waiter :=
  (allCtxs.filterMap fun r =>
    if towerOf r.core != t || (s.ctx r).status == .free then none
    else (sel (s.ctx r)).map fun w => ⟨(s.ctx r).node, r.core, w.1, w.2, some r⟩) ++
  s.nodes.filterMap fun n => n.image.bind fun im =>
    if towerOf im.core != t then none else (sel im.ctx).map fun w => ⟨n.id, im.core, w.1, w.2, none⟩

/-- A barrier releases a waiter with its result; `calling`: the barrier is a `cbar` (R112, R260, R261). -/
def State.releaseWaiter (s : State) (w : Waiter) (broken calling : Bool) : State :=
  let f (x : Ctx) : Ctx := { (x.write (.p w.pd broken)) with status := .running, cbarDone := x.cbarDone || calling }
  match w.ctx with
  | some r => s.modCtx r f
  | none => s.mapImage w.node f

/-- How many of the waiters on a waiter's core arrived before it: the instances that it waits behind (R260). -/
def Waiter.rank (w : Waiter) (ws : List Waiter) : Nat := (ws.filter fun v => v.core == w.core && decide (v.arrival < w.arrival)).length

/-- The barrier instance that a killed continuation takes part in releases its other waiters, broken: the one that it waits in, or
the next that it could arrive in on its core (R273, log 60, DEDUCED). -/
def State.breakBar (s : State) (ws : List Waiter) (core : CoreRef) (node : Nat) (calling : Bool) : State :=
  let k := match ws.find? (·.node == node) with
    | some w => w.rank ws
    | none => (ws.filter (·.core == core)).length
  (ws.filter fun w => w.node != node && w.rank ws == k).foldl (fun a w => a.releaseWaiter w true calling) s

/-- The barriers that a killed continuation takes part in (R273). -/
def State.breakBars (s : State) (core : CoreRef) (node : Nat) (x : Ctx) : State :=
  let t := towerOf core
  let s1 := x.groups.foldl (fun a g => a.breakBar (a.waiters t (gbarAt g)) core node false) s
  match x.atelier with
  | none => s1
  | some g => s1.breakBar (s1.waiters t (cbarAt g)) core node true

/-! Killing a subtree. -/

/-- A cancel has dropped or killed the command of an engine node (R270, R274). -/
def State.cutNode (s : State) (node id : Nat) : State := s.modNode node fun n => match n.state with
  | .engine i _ => if i = id then { n with state := .engine i true } else n
  | _ => n

/-- The locks of a node's stream operation end (R72). -/
def State.unlock (s : State) (st : Stream) (owner : Nat) : State :=
  let f (k : Core) : Core := { k with locks := k.locks.filter fun l => l.owner != owner }
  (s.modCore st.srcCore f).modCore st.dstCore f

/-- A running stream operation of a killed continuation keeps what it has moved; its locks end and a report goes out
(R269). -/
def State.killStream (s : State) (core : CoreRef) (job node tenant scope : Nat) (st : Option Stream) : State := match st with
  | none => s
  | some st => (s.unlock st node).report job
      { core := core.val, cause := 0x20, tenant := tenant, scope := scope, base := st.dst, sect := st.moved }

/-- The matrix commands that an image keeps. -/
def Image.matrixIds (im : Image) : List Nat := im.mxq.map (·.id) ++ im.drains.map (·.id)

/-- What matrix commands that are no more held of a core's scratchpad is free again, in the core and in its saved segments (R197, R198,
R321). -/
def State.freeHolds (s : State) (c : CoreRef) (gone : List Nat) : State :=
  let rest (l : List (Nat × Nat)) : List (Nat × Nat) := l.filter fun h => !gone.contains h.2
  (s.modCore c fun k => { k with holds := rest k.holds, pend := rest k.pend }).modTower (towerOf c) fun w => { w with
    savedSegs := w.savedSegs.map fun x => if x.core == c then { x with holds := rest x.holds, pend := rest x.pend } else x }

/-- A node's drains as its kill leaves them: those that have started are to be discarded, the others are dropped (R198). -/
def Core.killDrains (k : Core) (node : Nat) : Core :=
  { k with mx := { k.mx with
      drains := (k.mx.drains.filter fun d => d.node != node || d.started.isSome).map fun d =>
        if d.node == node then { d with discard := true } else d } }

/-- The image of a killed continuation is discarded with its commands: its barriers break, its stream operation ends, its matrix
commands' holds end and its started drains are to be discarded (R197, R198, R269, R270, R273, R315). -/
def State.dropImage (s : State) (n : Node) (im : Image) : State :=
  (((s.breakBars im.core n.id im.ctx).killStream im.core n.job n.id (recTenant n.nrec) (recScope n.nrec) im.ctx.stream).modCore im.core
    fun k => k.killDrains n.id).freeHolds im.core im.matrixIds

/-- A node that is not running is removed by a cancel, with its image; its list resolves as cancelled (R269, R272, R274). -/
def State.removeNode (s : State) (n : Node) (inside : List Nat) : State :=
  (match n.image with
    | some im => s.dropImage n im
    | none => s).completeNode n.id true inside

/-- The scopes of the subtree of a scope (R268). -/
def State.subtree (s : State) (home : Bool) (id : Nat) : List Nat :=
  (s.scopes.filter fun c => c.home == home && s.inSubtree home id c.id).map (·.id)

/-- Whether a node lies in the given scopes of a job. -/
def Node.within (n : Node) (job : Nat) (scopes : List Nat) : Bool := n.job == job && scopes.contains (recScope n.nrec)

/-- A cancel of a subtree is handled: its scopes become dying, its nodes that are not running are removed and their
lists resolved as cancelled, and the cancel sets out for every core (R246, R268, R272, R274). `ctr = 0`: no
acknowledgement; `issuer`: the cancelling node's scope (R348). -/
def State.killScope (s : State) (home : Bool) (job scope : Nat) (core : CoreRef) (ctr tenant : Nat) (issuer : Nat := 0) : State :=
  let sub := s.subtree home scope
  let dying (c : Scope) : Scope :=
    if c.home == home && sub.contains c.id && (c.state == .opened || c.state == .sealed) then { c with state := .dying } else c
  let s1 := { s with scopes := s.scopes.map dying }
  let s2 := s1.modJob job fun j => { j with counts.cancels := j.counts.cancels + 1 }
  let gone := s2.nodes.filter fun n => n.within job sub && (n.state == .waiting || n.state == .ready)
  let inside := (s2.nodes.filter fun n => n.within job sub).map (·.id)
  let s3 := gone.foldl (fun a n => a.removeNode n inside) s2
  { s3 with
    cancels := s3.cancels ++ [⟨s3.nextId, home, job, sub, List.range 512, core, ctr, scope, issuer, tenant⟩]
    nextId := s3.nextId + 1 }

end Sys2Proof.Machine
end

