-- ==== Sys2Proof/Machine/Counter.lean ====
section
/-!
DEFINITION. Counters: engine counter adds (R348), flags (R255), and the tests that parked waits make (R154, R256,
R257).
-/

namespace Sys2Proof.Machine

/-- The doubleword at a local offset as a wait sees it: none while it is vacant, pending or in a poisoned sector
(R154, R348). -/
def Core.counter (k : Core) (off : Nat) : Option W64 :=
  if (List.range 8).all (fun i => k.mem.has (off + i)) && !k.pending off && !k.mem.poisoned off then
    some (BitVec.ofNat 64 (leNat (k.mem.loads off 8)))
  else none

/-- The doubleword at a slot 4 offset of a core: of the scratchpad, or of a control core's control memory (R298). -/
def State.counterAt (s : State) (c : CoreRef) (off : Nat) : Option W64 :=
  if isCtl c then some (dwordOf (s.tower (towerOf c)).ctlmem off) else (s.core c).counter off

/-- Whether a parked context's condition holds (R154, R256, R264). -/
def State.unparks (s : State) (r : CtxRef) : Park → Bool
  | .waitGe off thr => match s.counterAt r.core off with
    | some v => decide (thr ≤ v)
    | none => false
  | .waitF n => (s.ctx r).flagFile.getLsbD n.toNat
  | .tick v => match s.job (s.ctx r).job with
    | some j => decide (v ≤ j.frame)
    | none => false
  | .gbar _ _ _ => false
  | .cbar _ _ => false
  | .brk => false

/-- A hardware read of an aligned doubleword of a compute core: a word that it finds uncorrectable is poisoned and reported, a
single-bit error is corrected in the array, and an engine's read returns the segment to power (R10, R70, R94). -/
def State.readsWord (s : State) (c : CoreRef) (off cause job tenant scope : Nat) : State :=
  if isCtl c then s
  else (s.coreFound c cause 0 job tenant scope ((s.core c).mem.foundRead off 8)).modCore c fun k =>
    { (if cause = 0x02 then k.powerUp off 8 else k) with mem := k.mem.correct off 8 }

/-- The read that the test of a parked context makes (R154, R257). -/
def State.readsWait (s : State) (r : CtxRef) : State := match (s.ctx r).status with
  | .parked (.waitGe off _) =>
    let x := s.ctx r
    s.readsWord r.core off 0x01 x.job x.spec.tenant.toNat x.spec.scope.toNat
  | _ => s

/-- A parked context tests its condition: with none met it stays parked. -/
def State.tests (s : State) (r : CtxRef) : State := match (s.ctx r).status with
  | .parked p => if s.unparks r p then s.modCtx r fun x => { x with status := .running } else s
  | _ => s

/-- A parked context re-tests its condition, by a read of its doubleword where it waits for one (R10, R257). -/
def State.retest (s : State) (r : CtxRef) : State := (s.readsWait r).tests r

/-- The doubleword at RCTR of a collective's descriptor. -/
def CollCmd.rctr (c : CollCmd) : Nat := (dw c.desc 1).toNat

/-- Whether an add of an earlier collective of the same continuation is still to be made: that one has not ended (R212). -/
def State.collAdding (s : State) (c : CollCmd) : Bool := c.ctx.isSome && s.adds.any fun a =>
  a.ctx == c.ctx && a.node == c.node && a.ends && a.src.any fun i => decide (i < c.id) && !s.cmds.any fun d => d.id == i

/-- Whether a collective is the first of its continuation, whose earlier ones have ended with the adds they make (R212). -/
def State.collFirst (s : State) (c : CollCmd) : Bool :=
  !c.started && !c.killed &&
    !(s.colls.any fun d => d.ctx == c.ctx && d.node == c.node && c.ctx.isSome && decide (d.id < c.id)) && !s.collAdding c

/-- Whether a collective that has not started is the first of its continuation, whose earlier ones have made their adds, and its
bucket counter is at the threshold; an RCTR of 0 is none (R211, R212). -/
def State.collReady (s : State) (c : CollCmd) : Bool :=
  s.collFirst c && (c.rctr == 0 || match (s.core c.core).counter c.rctr with
      | some v => decide (dw c.desc 2 ≤ v)
      | none => false)

/-- A collective that waits to start tests its RCTR, by an engine's read; ready, it takes its place in the order of readiness
(R10, R211, R283). -/
def State.testColl (s : State) (c : CollCmd) : State :=
  if c.ready != 0 || !s.collFirst c then s
  else
    let s1 := if c.rctr = 0 then s else s.readsWord c.core c.rctr 0x02 c.job c.tenant c.scope
    if s1.collReady c then
      { s1 with
        colls := s1.colls.map fun e => if e.id == c.id then { e with ready := s1.nextId + 1 } else e
        nextId := s1.nextId + 1 }
    else s1

/-- The collectives of a core that wait to start test RCTR (R283). -/
def State.testColls (s : State) (c : CoreRef) : State :=
  s.colls.foldl (fun (a : State) d => if d.core == c then a.testColl d else a) s

/-- Both contexts of a core and its waiting collectives re-test (R257, R283). -/
def State.retestCore (s : State) (c : CoreRef) : State := ((s.retest ⟨c, false⟩).retest ⟨c, true⟩).testColls c

/-- Whether an add to a doubleword can be made now: not pending, in transit, locked or under a hold (R348). -/
def Core.addable (k : Core) (off : Nat) : Bool :=
  !(k.pending off || k.inTransit off || k.held off || (List.range 4).any fun i => k.locked (off + 2 * i))

/-- The doubleword after an add of a value: the old value is taken as 0 where it is vacant (R348). -/
def Core.added (k : Core) (off : Nat) (v : W64) : W64 :=
  if (List.range 8).all fun i => k.mem.has (off + i) then BitVec.ofNat 64 (leNat (k.mem.loads off 8)) + v else v

/-- Whether a request can be made now. -/
def State.makeable (s : State) (a : AddReq) : Bool := match a.ctr with
  | .mem off => (s.core a.core).addable off
  | _ => true

/-- Sets a flag of the issuing continuation: in its context, or in the image of its frame (R255, R315). -/
def State.setFlag (s : State) (a : AddReq) (n : BitVec 6) : State :=
  match a.ctx with
  | none => s
  | some r =>
    if (s.ctx r).status != .free && (s.ctx r).node == a.node then
      (s.modCtx r fun x => { x with flagFile := setBit x.flagFile n.toNat true }).retest r
    else s.mapImage a.node fun x => { x with flagFile := setBit x.flagFile n.toNat true }

/-- The one event of an engine counter add (R348); it returns the doubleword's segment to power (R94). -/
def State.addNow (s : State) (a : AddReq) : State := match a.ctr with
  | .none => s
  | .flag n => s.setFlag a n
  | .mem off =>
    let s0 := s.coreFound a.core 0x02 0 a.job a.tenant a.scope ((s.core a.core).mem.foundRead off 8)
    let s1 := s0.modCore a.core fun k => { k.powerUp off 8 with mem := k.mem.correct off 8 }
    let k := s1.core a.core
    if k.mem.poisoned off then
      s1.report a.job { core := a.core.val, cause := 0x21, tenant := a.tenant, scope := a.scope, base := off, sect := 1 }
    else (s1.setCore a.core { k with mem := k.mem.put off (leBytes 8 (k.added off a.amount).toNat) }).retestCore a.core

/-- An engine asks for an add; `Ctr.none` asks for nothing. -/
def State.ask (s : State) (a : AddReq) : State :=
  if a.ctr = .none then s else { s with adds := s.adds ++ [a] }

/-- Makes an engine counter add; then the next one is asked for, or what waited for the add has ended: the `ctradd`, or the
collective, after which the continuation's next one may be ready (R212, R214, R348). -/
def State.makeAdd (s : State) (a : AddReq) : State :=
  let s1 := (s.ask { a with ctr := a.andThen, amount := 1, andThen := .none }).addNow a
  if !a.ends || a.andThen != .none then s1
  else ({ s1 with cmds := s1.cmds.filter fun c => some c.id != a.src } : State).testColls a.core

/-- The request of an engine command of a context. -/
def addOf (core : CoreRef) (ctx : Option CtxRef) (ctr : Ctr) (amount : W64) (node job scope tenant : Nat) (src : Option Nat := none)
    (ends : Bool := false) : AddReq :=
  ⟨core, ctx, ctr, amount, .none, node, job, scope, tenant, src, ends⟩

end Sys2Proof.Machine
end

