-- ==== Sys2Proof/Machine/Palette.lean ====
section
/-!
DEFINITION. Palette entries: views, epilogues and collective descriptors (R184 to R187), their layout checks (R188),
the bytes a view names in element order (R161, R162, R220), and the checks engine commands make on views.
-/

namespace Sys2Proof.Machine

/-! Formats (R156). -/

/-- The width of a stored format in bits; 0 for a code that R156 does not list. -/
def fmtBits (mx6 : Bool) (f : Nat) : Nat := match f with
  | 0x01 => 32 | 0x02 => 16 | 0x03 => 16 | 0x04 => 32 | 0x05 => 16 | 0x06 => 8
  | 0x10 => 8 | 0x11 => 8 | 0x12 => if mx6 then 6 else 0 | 0x13 => if mx6 then 6 else 0 | 0x14 => 4 | 0x15 => 8
  | _ => 0

/-- Whether a format is an MX element format (R156). -/
def isMx (f : Nat) : Bool := decide (0x10 ≤ f)

/-! Entries. -/

/-- An entry of a context's Palette; empty entries are all zero (R184, R190). -/
def Ctx.entry (x : Ctx) (id : Nat) : Rec64 := tabGet 0 x.palette id

/-- KIND: 1 view, 2 epilogue, 3 collective (R185 to R187). -/
def palKind (e : Rec64) : Nat := fld e 63 62
/-- SPACE of a view. -/
def vwSpace (e : Rec64) : Nat := fld e 59 57
/-- LANE of a view. -/
def vwLane (e : Rec64) : Bool := bit e 56
/-- FMT. -/
def palFmt (e : Rec64) : Nat := fld e 55 48
/-- SCV of a view. -/
def vwScv (e : Rec64) : Bool := bit e 40
/-- ROWS. -/
def vwRows (e : Rec64) : Nat := fld e 39 20
/-- COLS. -/
def vwCols (e : Rec64) : Nat := fld e 19 0
/-- BASE. -/
def vwBase (e : Rec64) : Nat := (dw e 1).toNat
/-- PITCH. -/
def vwPitch (e : Rec64) : Nat := nfld (dw e 2).toNat 63 44
/-- BATCH. -/
def vwBatch (e : Rec64) : Nat := nfld (dw e 2).toNat 43 32
/-- BPITCH. -/
def vwBpitch (e : Rec64) : Nat := (dw e 3).toNat
/-- SBASE. -/
def vwSbase (e : Rec64) : Nat := (dw e 4).toNat
/-- SPITCH. -/
def vwSpitch (e : Rec64) : Nat := nfld (dw e 5).toNat 63 44
/-- ROW0. -/
def vwRow0 (e : Rec64) : Nat := nfld (dw e 5).toNat 43 24
/-- COL0. -/
def vwCol0 (e : Rec64) : Nat := nfld (dw e 5).toNat 23 4
/-- GEN. -/
def vwGen (e : Rec64) : Nat := nfld (dw e 6).toNat 63 32
/-- DGEN. -/
def vwDgen (e : Rec64) : Nat := nfld (dw e 6).toNat 31 0
/-- MODE of an epilogue. -/
def epMode (e : Rec64) : Nat := fld e 57 56
/-- ACT of an epilogue. -/
def epAct (e : Rec64) : Nat := fld e 47 46
/-- BIASV of an epilogue. -/
def epBiasv (e : Rec64) : Bool := bit e 45
/-- BIAS of an epilogue. -/
def epBias (e : Rec64) : Nat := fld e 39 32
/-- ALPHA of an epilogue. -/
def epAlpha (e : Rec64) : BitVec 32 := e.extractLsb' 0 32
/-- CLO of an epilogue. -/
def epClo (e : Rec64) : BitVec 32 := e.extractLsb' 96 32
/-- CHI of an epilogue. -/
def epChi (e : Rec64) : BitVec 32 := e.extractLsb' 64 32
/-- COLL of a collective descriptor. -/
def clKind (e : Rec64) : Nat := fld e 59 56
/-- OP of a collective descriptor. -/
def clOp (e : Rec64) : Nat := fld e 47 46
/-- BUCKET of a collective descriptor. -/
def clBucket (e : Rec64) : Nat := fld e 15 8
/-- RING of a collective descriptor. -/
def clRing (e : Rec64) : Nat := fld e 7 0
/-- RCTR. -/
def clRctr (e : Rec64) : Nat := (dw e 1).toNat
/-- RTHR. -/
def clRthr (e : Rec64) : W64 := dw e 2
/-- CCTR. -/
def clCctr (e : Rec64) : Nat := (dw e 3).toNat
/-- NFCTR. -/
def clNfctr (e : Rec64) : Nat := (dw e 4).toNat
/-- PEER. -/
def clPeer (e : Rec64) : Nat := nfld (dw e 5).toNat 31 0

/-- A publish into a view: GEN + 1, passing from 0xFFFF_FFFF to 1 (R209). -/
def bumpGen (e : Rec64) : Rec64 :=
  let g := if vwGen e = 0xFFFFFFFF then 1 else vwGen e + 1
  setDw e 6 (BitVec.ofNat 64 (g * 2 ^ 32 + vwDgen e))

/-- Adds 1 to GEN of the live entry, where it is still a view (R209). -/
def Ctx.bump (x : Ctx) (id : Nat) : Ctx :=
  if palKind (x.entry id) = 1 then { x with palette := tabSet 0 x.palette id (bumpGen (x.entry id)) } else x

/-- f32 bits as an order key, monotone over non-NaN values with −0 below +0. -/
def f32Key (b : BitVec 32) : Int := if b.msb then -((b.toNat % 2 ^ 31 : Nat) : Int) else ((b.toNat : Nat) : Int)

/-- Whether f32 bits are a NaN (R157). -/
def f32Nan (b : BitVec 32) : Bool := decide (0x7F800000 < b.toNat % 2 ^ 31)

/-- Whether a view keeps its layout: "must be 0" fields, codes, counts, local bases (R188 step 5). -/
def viewLayoutOk (e : Rec64) : Bool :=
  fld e 61 60 == 0 && decide (vwSpace e < 3) && fld e 47 41 == 0 && vwRows e != 0 && vwCols e != 0 && vwBatch e != 0 &&
  nfld (dw e 2).toNat 31 0 == 0 && nfld (dw e 5).toNat 3 0 == 0 && dw e 7 == 0 &&
  (vwSpace e != 0 || (vwBase e % 8 == 0 && decide (vwBase e < 2 ^ 23) && vwSbase e % 8 == 0 && decide (vwSbase e < 2 ^ 23)))

/-- Whether an epilogue keeps its layout (R188 step 5). -/
def epLayoutOk (e : Rec64) : Bool :=
  fld e 61 58 == 0 && decide (epMode e < 2) && epAct e != 3 && fld e 44 40 == 0 &&
  (dw e 2 == 0 && dw e 3 == 0 && dw e 4 == 0 && dw e 5 == 0 && dw e 6 == 0 && dw e 7 == 0) &&
  !(epMode e == 1 && palFmt e != 2 && palFmt e != 3) &&
  !(epAct e == 2 && (f32Nan (epClo e) || f32Nan (epChi e) || decide (f32Key (epChi e) < f32Key (epClo e))))

/-- Whether a collective descriptor keeps its layout (R187, R188 step 5). -/
def clLayoutOk (e : Rec64) : Bool :=
  fld e 61 60 == 0 && decide (clKind e < 6) && decide (clOp e < 2) && fld e 45 16 == 0 &&
  nfld (dw e 5).toNat 63 32 == 0 && dw e 6 == 0 && dw e 7 == 0

/-- The codes RANGE or FMT that an entry raises at `pset` (R188 steps 5 and 6). -/
def entryFault (mx6 : Bool) (e : Rec64) : Option SlotFault :=
  match palKind e with
  | 0 => none
  | 1 => if !viewLayoutOk e then some (trap 0x06) else if fmtBits mx6 (palFmt e) = 0 then some (trap 0x0F) else none
  | 2 => if !epLayoutOk e then some (trap 0x06)
    else if palFmt e = 0 ∨ 4 < palFmt e then some (trap 0x0F) else none
  | _ => if !clLayoutOk e then some (trap 0x06)
    else if palFmt e = 0 ∨ 3 < palFmt e then some (trap 0x0F) else none

/-! The bytes of a view in element order (R220). -/

/-- A run of bytes of a view: a row, a block of a row, or a block's scale byte, with its first element's indices.
Addresses of a Canvas view are name × 65536 + offset (R237). -/
structure Run where
  at_ : Nat
  len : Nat
  batch : Nat
  row : Nat
  col : Nat
  bits : Nat
  scale : Bool
deriving DecidableEq, Repr

/-- The base of a view's data in its space's addresses. -/
def vwAddr (e : Rec64) : Nat := if vwSpace e = 2 then vwBase e * 65536 else vwBase e
/-- The base of a view's scales. -/
def vwSaddr (e : Rec64) : Nat := if vwSpace e = 2 then vwSbase e * 65536 else vwSbase e

/-- Blocks of a row of an MX view. -/
def vwBlocks (e : Rec64) : Nat := (vwCols e + 31) / 32

/-- The runs of row r of batch b (R161, R220); a batch's scales stand BPITCH apart as its data does (log 18, DEDUCED). -/
def rowRuns (mx6 : Bool) (e : Rec64) (b r : Nat) : List Run :=
  let w := fmtBits mx6 (palFmt e)
  if isMx (palFmt e) then
    ((List.range (vwBlocks e)).map fun kb =>
      Run.mk (vwAddr e + b * vwBpitch e + (kb * vwRows e + r) * vwPitch e * 8) (4 * w) b r (32 * kb) w false ::
        (if vwScv e then [Run.mk (vwSaddr e + b * vwBpitch e + kb * vwSpitch e + r) 1 b r (32 * kb) 8 true] else [])).flatten
  else [Run.mk (vwAddr e + b * vwBpitch e + 8 * vwPitch e * r) (vwCols e * (w / 8)) b r 0 w false]

/-- All runs of a view, in element order. -/
def viewRuns (mx6 : Bool) (e : Rec64) : List Run :=
  ((List.range (vwBatch e)).map fun b => ((List.range (vwRows e)).map fun r => rowRuns mx6 e b r).flatten).flatten

/-- One past the last byte of a view's data (R220). -/
def viewEnd (mx6 : Bool) (e : Rec64) : Nat :=
  let w := fmtBits mx6 (palFmt e)
  if isMx (palFmt e) then
    vwAddr e + (vwBatch e - 1) * vwBpitch e + (vwBlocks e * vwRows e - 1) * vwPitch e * 8 + 4 * w
  else vwAddr e + (vwBatch e - 1) * vwBpitch e + 8 * vwPitch e * (vwRows e - 1) + vwCols e * (w / 8)

/-- One past the last scale byte of a view; 0 where it has none. -/
def viewScaleEnd (e : Rec64) : Nat :=
  if isMx (palFmt e) && vwScv e then
    vwSaddr e + (vwBatch e - 1) * vwBpitch e + (vwBlocks e - 1) * vwSpitch e + vwRows e else 0

/-- The 32-byte sectors that runs touch, rising. -/
def runSectors (rs : List Run) : List Nat :=
  rs.foldl (fun acc r => (touched 32 r.at_ r.len).foldl setAdd acc) []

/-- Whether two lists of runs share a byte. -/
def runsMeet (a b : List Run) : Bool :=
  a.any fun x => b.any fun y => decide (x.at_ < y.at_ + y.len ∧ y.at_ < x.at_ + x.len)

/-! Checks on views. -/

/-- Whether the local bytes of a view lie in bounds and in owned segments (R152, R215). -/
def localOk (mx6 : Bool) (x : Ctx) (e : Rec64) : Bool :=
  decide (viewEnd mx6 e ≤ 0x800000) && decide (viewScaleEnd e ≤ 0x800000) &&
    (viewRuns mx6 e).all fun r => x.ownsRange r.at_ r.len

/-- RANGE of a Canvas view: name bits and block numbers (R237). -/
def canvasOk (mx6 : Bool) (e : Rec64) : Bool :=
  decide (vwBase e < 2 ^ 56) && decide (viewEnd mx6 e ≤ (vwBase e / 65536 + 1) * 2 ^ 32) &&
    (viewScaleEnd e == 0 ||
      (decide (vwSbase e < 2 ^ 56) && decide (viewScaleEnd e ≤ (vwSbase e / 65536 + 1) * 2 ^ 32)))

/-- The bounds check of a view's space that raises RANGE. -/
def spaceOk (mx6 : Bool) (x : Ctx) (e : Rec64) : Bool := match vwSpace e with
  | 0 => localOk mx6 x e
  | 2 => canvasOk mx6 e
  | _ => true

/-- The end of the canonical half an address lies in (R229). -/
def halfEnd (a : Nat) : Nat := if a < 2 ^ 48 then 2 ^ 48 else 2 ^ 64

/-- NONCANON or ADDRWRAP of a device view (R229). -/
def devFault (mx6 : Bool) (e : Rec64) : Option SlotFault :=
  if vwSpace e ≠ 1 then none
  else
    let sc := isMx (palFmt e) && vwScv e
    if !canonical (vwBase e) || !canonical (vwSbase e) then some (trap 0x11)
    else if halfEnd (vwBase e) < viewEnd mx6 e || (sc && decide (halfEnd (vwSbase e) < viewScaleEnd e)) then some (trap 0x12)
    else none

/-- Whether some sector of a local destination counts as present (R74, R215). -/
def destOccupied (mx6 : Bool) (k : Core) (e : Rec64) : Bool :=
  vwSpace e == 0 && (runSectors (viewRuns mx6 e)).any fun sec =>
    (List.range 16).any fun i => k.countsPresent (32 * sec + 2 * i)

/-- Whether some sector of a local source is pending, in transit or locked (R221). -/
def sourceBusy (mx6 : Bool) (k : Core) (e : Rec64) : Bool :=
  vwSpace e == 0 && (runSectors (viewRuns mx6 e)).any fun sec =>
    k.pending (32 * sec) || k.inTransit (32 * sec) || (List.range 16).any fun i => k.locked (32 * sec + 2 * i)

/-- Whether a device or Canvas view is whole in sectors, and a local view of an 8-bit format is in halfwords
(R221). -/
def viewAligned (mx6 : Bool) (e : Rec64) : Bool :=
  let w := fmtBits mx6 (palFmt e)
  let rowLen := if isMx (palFmt e) then 4 * w else vwCols e * (w / 8)
  if vwSpace e = 0 then !(w == 8 && (vwBase e % 2 == 1 || rowLen % 2 == 1))
  else vwAddr e % 32 == 0 && vwSaddr e % 32 == 0 && 8 * vwPitch e % 32 == 0 && vwBpitch e % 32 == 0 && rowLen % 32 == 0

/-- A completion counter operand: 0 none, bit 63 a flag, else an owned doubleword; `none` raises RANGE (R152, R215,
R255). -/
def counterOf (x : Ctx) (v : W64) : Option Ctr :=
  if v = 0 then some .none
  else if bit v 63 then (if fld v 62 6 = 0 then some (.flag (v.extractLsb' 0 6)) else none)
  else if v.toNat % 8 = 0 ∧ v.toNat + 8 ≤ 0x800000 ∧ x.ownsRange v.toNat 8 then some (.mem v.toNat) else none

end Sys2Proof.Machine
end

