-- ==== Sys2Proof/Machine/Copy.lean ====
section
/-!
DEFINITION. What a copy engine does with a command: claims, the element loop with translation and poison, holds and
their asynchronous traps, publish and discard (R96, R220 to R228, R232, R234, R237, R238, R328, R349). Each element
of a view is read and written in element order; the shadow is a list of destination bytes, newest first.
-/

namespace Sys2Proof.Machine

/-! Asynchronous traps to the issuing context (R96). -/

/-- Where the report of an engine fault can go. -/
inductive Delivery where
  | done (s : State)
  | full
  | gone

/-- A context with one more pending asynchronous trap (R96, R64). -/
def Ctx.pushAsync (x : Ctx) (t : AsyncTrap) : Ctx :=
  let y := { x with asyncQ := x.asyncQ ++ [t] }
  if y.tmask then y.orStatus stApend else y

/-- Delivers a fault to the context that issued a command, or to its saved image (R96, R315). -/
def State.deliver (s : State) (r : CtxRef) (node : Nat) (t : AsyncTrap) : Delivery :=
  if (s.ctx r).status != .free && (s.ctx r).node == node then
    if (s.ctx r).asyncQ.length < 8 then .done (s.modCtx r fun x => x.pushAsync t) else .full
  else match (s.node node).bind (·.image) with
    | some im => if im.ctx.asyncQ.length < 8 then .done (s.mapImage node fun x => x.pushAsync t) else .full
    | none => .gone

/-- TRAPOPA of a fault record (R97). -/
def faultA (cause : BitVec 7) (pal addr : Nat) : W64 :=
  at_ 64 57 cause.toNat ||| at_ 64 49 (pal % 256) ||| at_ 64 0 (addr % 2 ^ 49)

/-- TRAPOPB of a fault record (R97). -/
def faultB (tag batch row col : Nat) : W64 :=
  at_ 64 52 (tag % 4096) ||| at_ 64 40 (batch % 4096) ||| at_ 64 20 (row % 2 ^ 20) ||| at_ 64 0 (col % 2 ^ 20)

/-- The report of a fault whose context has retired (R96). -/
def orphan (core : CoreRef) (tenant scope : Nat) (code : BitVec 8) (space : Nat) (opa : W64) : Report :=
  { core := core.val, code := code.toNat, pal := if fld opa 56 49 = 0 then none else some (fld opa 56 49), cause := 0x11,
    space := space, tenant := tenant, scope := scope, base := fld opa 48 0 }

/-! Commands. -/

/-- The command of an id. -/
def State.cmd (s : State) (id : Nat) : Option Cmd := s.cmds.find? (·.id == id)

/-- Replaces a command. -/
def State.setCmd (s : State) (c : Cmd) : State := { s with cmds := s.cmds.map fun d => if d.id == c.id then c else d }

/-- Removes a command. -/
def State.endCmd (s : State) (id : Nat) : State := { s with cmds := s.cmds.filter (·.id != id) }

/-- Whether a command waits for `pub` or `dsc` (R215, R221). -/
def CmdOp.np : CmdOp → Bool
  | .movNp => true
  | .cpyNp => true
  | _ => false

/-- The add or flag that a completing command makes; one of a `.np` command is known as its, for a cancel discards both (R221,
R270). -/
def State.cmdAdd (s : State) (c : Cmd) : State :=
  s.ask (addOf c.core c.ctx c.ctr 1 c.node c.job c.scope c.tenant (if c.op.np then some c.id else none))

/-- GEN of the destination entry of the issuing continuation, live or saved (R209). -/
def State.cmdBump (s : State) (ctx : Option CtxRef) (node id : Nat) : State := match ctx with
  | none => s
  | some r => if (s.ctx r).status != .free && (s.ctx r).node == node then s.modCtx r fun x => x.bump id
    else s.mapImage node fun x => x.bump id

/-- Whether a core's layer is off or its column is not replayed (R326 to R328). -/
def State.unreachable (s : State) (c : CoreRef) : Bool :=
  !isCtl c && ((s.tower (towerOf c)).layersOff.getLsbD (layerOf c) || (s.tower (towerOf c)).columnsBad.contains (columnOf c))

/-- Whether a command writes every byte of a destination view. -/
def CmdOp.isFill : CmdOp → Bool
  | .fill _ => true
  | _ => false

/-- Whether a command vacates its source extent at its publish: moves, and `fill` with VACATE (R221, R222). -/
def CmdOp.vacates : CmdOp → Bool
  | .mov => true
  | .movNp => true
  | .fill v => v
  | _ => false

/-- Whether a command is a transfer or fill. -/
def CmdOp.transfers : CmdOp → Bool
  | .cpy => true
  | .mov => true
  | .movNp => true
  | .cpyNp => true
  | .fill _ => true
  | _ => false

/-! Elements (R220). -/

/-- One element of a transfer: source and destination addresses, byte length, indices; `fill` has no source. For
blocks of two LANE orders `perm` asks for the conversion of R162. A scale without a counterpart in the other view: one of the
destination's takes 0x7F (`noSrc`, R160), one of the source's is read and vacated only (`noDst`, R221). -/
structure Elem where
  src : Nat
  dst : Nat
  len : Nat
  batch : Nat
  row : Nat
  col : Nat
  width : Nat
  perm : Bool
  noSrc : Bool := false
  noDst : Bool := false
deriving DecidableEq, Repr

/-- The elements of a run: single elements of a row, or a whole block or scale byte. -/
def runElems (a b : Run) (mx perm : Bool) : List Elem :=
  if mx then [{ src := a.at_, dst := b.at_, len := a.len, batch := a.batch, row := a.row, col := a.col, width := a.bits, perm := perm }]
  else (List.range (a.len / (a.bits / 8))).map fun i =>
    { src := a.at_ + i * (a.bits / 8), dst := b.at_ + i * (a.bits / 8), len := a.bits / 8, batch := a.batch, row := a.row, col := i
      width := a.bits, perm := false }

/-- The scale bytes of a block in the source and in the destination, where the views have them. -/
def scaleElems : Option Run → Option Run → List Elem
  | some a, some b => runElems a b true false
  | some a, none => (runElems a a true false).map fun e => { e with noDst := true }
  | none, some b => (runElems b b true false).map fun e => { e with noSrc := true }
  | none, none => []

/-- The elements of the data runs of two views of one shape, each block's with its scale; `ss` and `ds` are the scale runs. -/
def pairRuns (mx perm : Bool) : List Run → List Run → List Run → List Run → List Elem
  | a :: as, b :: bs, ss, ds => runElems a b mx perm ++ scaleElems ss.head? ds.head? ++ pairRuns mx perm as bs ss.tail ds.tail
  | _, _, _, _ => []

/-- The elements of a transfer between two views of one shape, in element order. Elements of 8 bits stand alike in both orders
(R162). -/
def transferElems (mx6 : Bool) (src dst : Rec64) : List Elem :=
  let rs (e : Rec64) (scale : Bool) : List Run := (viewRuns mx6 e).filter fun r => r.scale == scale
  pairRuns (isMx (palFmt src)) (vwLane src != vwLane dst && fmtBits mx6 (palFmt src) != 8) (rs src false) (rs dst false) (rs src true) (rs dst true)

/-- The elements of a fill. -/
def fillElems (mx6 : Bool) (dst : Rec64) : List Elem := transferElems mx6 dst dst

/-- Elements of a command. -/
def Cmd.elems (mx6 : Bool) (c : Cmd) : List Elem :=
  if c.op.isFill then fillElems mx6 c.dst else transferElems mx6 c.src c.dst

/-! Reading and claiming. -/

/-- The block that a name of a tenant is bound to (R237); names are (tenant, name, block). -/
def Tower.block (w : Tower) (tenant name : Nat) : Option Nat :=
  (w.canvNames.find? fun n => n.1 == tenant && n.2.1 == name).map (·.2.2)

/-- The names of a block. -/
def Tower.namesOf (w : Tower) (b : Nat) : Nat := (w.canvNames.filter fun n => n.2.2 == b).length

/-- What an engine finds at an address of a view's space: a byte, or the cause of a failed translation; for a write
also R232's W, and a Canvas block of several names (R239). -/
def State.engRead (s : State) (c : Cmd) (space a : Nat) (write : Bool) : Except (BitVec 7) VByte :=
  let t := towerOf c.core
  match space with
  | 0 => let m := (s.core c.core).mem
    .ok ⟨if m.has a then some (m.byte a) else none, m.poisoned a⟩
  | 1 => let w := s.leaf t (columnOf c.core) (s.rootOf c.job) a
    match leafCause c.tenant write (s.hostSilent a) w with
    | some x => .error x
    | none => match w with
      | .leaf l => .ok (s.leafByte l a)
      | .invalid _ => .error 0x01
  | _ => match (s.tower t).block c.tenant (a / 65536) with
    | none => .ok ⟨none, false⟩
    | some b =>
      if write && decide (1 < (s.tower t).namesOf b) then .error 0x02
      else
        let m := (s.tower t).canvBlocks
        .ok ⟨if m.has (65536 * b + a % 65536) then some (m.byte (s.key c.tenant) (65536 * b + a % 65536)) else none,
          m.poisoned (65536 * b + a % 65536)⟩

/-- Reads the bytes of an element, or the first failure. -/
def State.engReads (s : State) (c : Cmd) (space a : Nat) (write : Bool) : Nat → Except (BitVec 7) (List VByte)
  | 0 => .ok []
  | n + 1 => match s.engRead c space a write with
    | .error x => .error x
    | .ok b => match s.engReads c space (a + 1) write n with
      | .error x => .error x
      | .ok bs => .ok (b :: bs)

/-- The codeword of an address of a view's space, with the report space of R107. -/
def State.engLine (s : State) (c : Cmd) (space a : Nat) : Option (DevSpace × Nat) :=
  let t := towerOf c.core
  match space with
  | 0 => none
  | 1 => match s.leaf t (columnOf c.core) (s.rootOf c.job) a with
    | .leaf l => if pteVacp l.entry then none else match l.place a with
      | (some sp, pa) => some (sp, pa / 64)
      | (none, _) => none
    | .invalid _ => none
  | _ => ((s.tower t).block c.tenant (a / 65536)).map fun b => (.block t, (65536 * b + a % 65536) / 64)

/-- The page table entry that an engine's walk finds uncorrectable is reported at its first read, with the PAGEFLT that it raises
(R105, R324). -/
def State.walkFound (s : State) (c : Cmd) (space a pal : Nat) : State :=
  if space ≠ 1 then s else match s.leaf (towerOf c.core) (columnOf c.core) (s.rootOf c.job) a with
  | .invalid (some line) =>
    if s.unread .gddr line then s.lineFound .gddr line 0x02 1 a c.job c.tenant c.scope 0x20 (some pal) else s
  | _ => s

/-- CODE of the loss report of an engine's read: DEVUE, which a command of a context raises with it (R105, R107). -/
def Cmd.lossCode (c : Cmd) : Nat := if c.ctx.isSome then 0x23 else 0

/-- Uncorrectable errors that reading a range of the source finds: poison, one report, and the address that DEVUE gives, a word's
local offset (R105); a local source's segment returns to power (R94). -/
def State.engFound (s : State) (c : Cmd) (space a len cause : Nat) : Option Nat × State :=
  match space with
  | 0 =>
    let ws := (s.core c.core).mem.foundRead a len
    (ws.head?.map (8 * ·), (s.coreFound c.core cause c.lossCode c.job c.tenant c.scope ws (some c.srcId)).modCore c.core fun k =>
      { k.powerUp a len with mem := k.mem.correct a len })
  | _ => (touched 32 a len).foldl (fun acc sec => match acc.2.engLine c space (32 * sec) with
    | some (sp, line) =>
      if acc.2.unread sp line then
        (some a, acc.2.lineFound sp line cause space (if space = 1 then 64 * (32 * sec / 64) else 32 * sec / 65536) c.job c.tenant c.scope
          c.lossCode (some c.srcId))
      else acc
    | none => acc) (none, s)

/-- The key of a claim of a device or Canvas sector (R223): the space and the sector; local claims are the core's
transfer table. -/
def claimKey (space a : Nat) : Nat × Nat := (space, a / 32)

/-- Whether another command has claimed a sector: under the same page table, which the jobs of a tenant may share (R229), or of
the tenant's names in the tower. -/
def State.claimed (s : State) (c : Cmd) (space a : Nat) : Bool :=
  s.cmds.any fun d => d.id != c.id && d.claims.contains (claimKey space a) && d.tenant == c.tenant &&
    (if space = 1 then s.rootOf d.job == s.rootOf c.job else towerOf d.core == towerOf c.core)

/-- The claims of a range. -/
def Cmd.claim (c : Cmd) (space a len : Nat) : Cmd :=
  if space = 0 then c else
  { c with claims := (touched 32 a len).foldl (fun l sec => if l.contains (space, sec) then l else (space, sec) :: l) c.claims }

/-- The leaf that a page was translated through (R233). -/
def CmdPage.leaf (p : CmdPage) : Leaf := ⟨p.at_, p.entry, p.big⟩

/-- Whether a page is a host page over CXL.mem (R231). -/
def CmdPage.isHost (p : CmdPage) : Bool := pteTgt p.entry == 2

/-- The page of an address under a leaf, with the frame of its shadow. -/
def Leaf.page (l : Leaf) (a frame : Nat) : CmdPage := ⟨a - a % l.size, frame, l.at_, l.entry, l.big⟩

/-- Whether an address lies in a page. -/
def CmdPage.holds (p : CmdPage) (a : Nat) : Bool := decide (p.base ≤ a ∧ a < p.base + p.leaf.size)

/-- The shadow frame or block that a destination address needs (R226, R238): the command with it, or none where the
pool is empty. `frames` lists page base or name with the frame or block; a host page needs none (R231). -/
def State.needFrame (s : State) (c : Cmd) (space a : Nat) : Option (Cmd × State) :=
  let t := towerOf c.core
  match space with
  | 0 => some (c, s)
  | 1 => match s.leaf t (columnOf c.core) (s.rootOf c.job) a with
    | .invalid _ => none
    | .leaf l =>
      if c.frames.any (·.holds a) then some (c, s)
      else if pteTgt l.entry = 2 then some ({ c with frames := l.page a 0 :: c.frames }, s)
      else match s.takeFrame l t with
        | none => none
        | some (f, s1) => some ({ c with frames := l.page a f :: c.frames }, s1)
  | _ =>
    if c.frames.any (·.base == a / 65536) then some (c, s)
    else match (s.tower t).canvFree with
      | [] => none
      | b :: bs => some ({ c with frames := ⟨a / 65536, b, 0, 0, false⟩ :: c.frames }, s.modTower t fun w => { w with canvFree := bs })

/-- The pages that a command has reached, with that of an address of a space. -/
def State.joinPage (s : State) (c : Cmd) (space a : Nat) (ps : List CmdPage) : List CmdPage :=
  if space ≠ 1 then ps else match s.leaf (towerOf c.core) (columnOf c.core) (s.rootOf c.job) a with
    | .leaf l => if ps.any (·.holds a) then ps else l.page a 0 :: ps
    | .invalid _ => ps

/-- A command that is to vacate an address remembers its page (R221, R233). -/
def State.vacPage (s : State) (c : Cmd) (space a : Nat) : Cmd := { c with vacPages := s.joinPage c space a c.vacPages }

/-- A command that has read through a page remembers it (R233). -/
def State.readPage (s : State) (c : Cmd) (space a : Nat) : Cmd := { c with readPages := s.joinPage c space a c.readPages }

/-! Lane order (R162). -/

/-- The bit place of element e of a block of w-bit elements in an order. -/
def lanePos (w : Nat) (laneOrder : Bool) (e : Nat) : Nat :=
  if !laneOrder then w * e
  else match w with
  | 6 => 24 * (e % 8) + 6 * (e / 8)
  | 4 => 8 * (e % 16) + (if e < 16 then 0 else 4)
  | _ => w * e

/-- A block's bits moved from one order to the other. -/
def relane (w : Nat) (toLane : Bool) (x : Nat) : Nat :=
  (List.range 32).foldl (fun acc e => acc + (x / 2 ^ lanePos w (!toLane) e % 2 ^ w) * 2 ^ lanePos w toLane e) 0

/-! The element loop. -/

/-- A failure of an element: cause, the Palette id of the view, the address, whether it is a want of frames. -/
structure ElemFail where
  code : BitVec 8
  cause : BitVec 7
  pal : Nat
  addr : Nat
deriving DecidableEq, Repr

/-- The bytes an element writes. A block converted between two orders whose source is vacant in part is written whole, its vacant bytes
read as 0xFF: bytes then hold bits of several, and no rule says what becomes of the vacancy (R162, R221; log 72, DESIGN CHOICE). -/
def Cmd.value (c : Cmd) (e : Elem) (src : List VByte) : List (Option Byte) :=
  if e.noSrc then [some 0x7F]
  else match c.op with
  | .fill true => List.replicate e.len none
  | .fill false => (leBytes e.len c.fill.toNat).map some
  | _ => if e.perm && src.any (·.val.isSome) then
      (leBytes e.len (relane e.width (vwLane c.dst) (leNat (src.map fun b => b.val.getD 0xFF)))).map some
    else src.map (·.val)

/-- Whether each byte that an element writes takes bits of a poisoned byte (R104). -/
def Elem.poisons (e : Elem) (c : Cmd) (src : List VByte) : List Bool :=
  let own := src.map (·.pois)
  if e.noSrc then [false]
  else if e.perm && own.any id then
    (leBytes e.len (relane e.width (vwLane c.dst) (leNat (own.map fun p => if p then 0xFF else 0)))).map (· != 0)
  else own

/-- Whether an element has a source, a destination. -/
def Cmd.reads (c : Cmd) (e : Elem) : Bool := !c.op.isFill && !e.noSrc

/-- The free choices of a translation are made once: the next one makes others (R232, R233). -/
def State.chosen (s : State) (c : Cmd) : State :=
  if vwSpace c.src = 1 ∨ vwSpace c.dst = 1 then { s with fresh := s.fresh + 1 } else s

/-- The leaves of an element are kept by the translation buffers (R233). -/
def State.keepElem (s : State) (c : Cmd) (e : Elem) : State :=
  let t := towerOf c.core
  let keep (a : State) (space va : Nat) : State :=
    if space = 1 then a.keepLeaf t (columnOf c.core) (s.rootOf c.job) va (s.leaf t (columnOf c.core) (s.rootOf c.job) va) else a
  let s1 := if c.reads e then keep s (vwSpace c.src) e.src else s
  (if e.noDst then s1 else keep s1 (vwSpace c.dst) e.dst).chosen c

/-- The shadow with the bytes of an element, and its poisoned sectors (R104). -/
def Cmd.writeElem (c : Cmd) (e : Elem) (src : List VByte) : Cmd :=
  if e.noDst then c
  else
    let at_ (n : Nat) : Nat := e.dst + n
    { c with
      shadow := ((c.value e src).zipIdx.map fun b => (at_ b.2, b.1)).reverse ++ c.shadow
      shPois := (e.poisons c src).zipIdx.foldl (fun l p => if p.1 then setAdd l (at_ p.2 / 32) else l) c.shPois }

/-- One element: translation and claims of source and destination, the read with its errors, the write into the
shadow (R221, R223, R226, R232). An error that the read has found stays with the command where the element then fails (R105). -/
def State.elemStep (s : State) (c0 : Cmd) (e : Elem) : Except (ElemFail × Cmd × State) (Cmd × State) :=
  let ss := vwSpace c0.src
  let ds := vwSpace c0.dst
  let vac := c0.op.vacates
  let rd := c0.reads e
  let fail (s : State) (c : Cmd) (code : BitVec 8) (cause : BitVec 7) (src : Bool) : Except (ElemFail × Cmd × State) (Cmd × State) :=
    .error (⟨code, cause, if src then c.srcId else c.dstId, if src then e.src else e.dst⟩, c, s.chosen c)
  match if rd then s.engReads c0 ss e.src vac e.len else .ok [] with
  | .error x => fail (s.walkFound c0 ss e.src c0.srcId) c0 0x20 x true
  | .ok _ =>
    if vac && rd && ss != 0 && (touched 32 e.src e.len).any (fun sec => s.claimed c0 ss (32 * sec)) then fail s c0 0x20 0x09 true
    else
      let (bad, s1) := if rd then s.engFound c0 ss e.src e.len 0x03 else (none, s)
      let c1 := if rd then s.readPage c0 ss e.src else c0
      let c : Cmd := { c1 with found := c1.found.or (bad.map fun a => (c1.pos, a)) }
      match if rd then s1.engReads c ss e.src vac e.len else .ok [], if e.noDst then .ok [] else s1.engReads c ds e.dst true e.len with
      | .error x, _ => fail s1 c 0x20 x true
      | _, .error x => fail (s1.walkFound c ds e.dst c.dstId) c 0x20 x false
      | .ok src, .ok _ =>
        if !e.noDst && ds != 0 && (touched 32 e.dst e.len).any (fun sec => s1.claimed c ds (32 * sec)) then fail s1 c 0x20 0x09 false
        else match if e.noDst || c.op == .fill true then some (c, s1) else s1.needFrame c ds e.dst with
        | none => fail s1 c 0x21 (if ds = 1 then 0x05 else 0x07) false
        | some (c1, s2) =>
          let c2 := if e.noDst then c1 else c1.claim ds e.dst e.len
          let c3 := if vac && rd then s1.vacPage (c2.claim ss e.src e.len) ss e.src else c2
          let c4 := if c.op == .fill true then s1.vacPage c3 ds e.dst else c3
          .ok ({ c4.writeElem e src with pos := c.pos + 1 }, s2.keepElem c e)

/-- A failed element's fault record (R97). ADDR of an element of a Canvas view is its name × 65536 + offset, cut to 49 bits (log 69,
DESIGN CHOICE). -/
def Cmd.record (c : Cmd) (f : ElemFail) (e : Elem) : W64 × W64 :=
  let v := if f.pal = c.srcId ∧ f.addr = e.src then c.src else c.dst
  (faultA f.cause f.pal f.addr, faultB c.tag e.batch (vwRow0 v + e.row) (vwCol0 v + e.col))

/-- Runs elements until one fails; the failure, if any. -/
def State.elemLoop (s : State) (c : Cmd) : List Elem → Option (ElemFail × Elem) × Cmd × State
  | [] => (none, c, s)
  | e :: es => match s.elemStep c e with
    | .error (f, c1, s1) => (some (f, e), c1, s1)
    | .ok (c1, s1) => s1.elemLoop c1 es

/-! Publish and discard (R224, R226, R238, R349). -/

/-- A table with a range replaced by what another table holds in a range. -/
def tabMove {α : Type} (m old : List (Nat × α)) (src dst n : Nat) : List (Nat × α) :=
  let moved := (old.filter fun e => decide (src ≤ e.1 ∧ e.1 < src + n)).map fun e => (e.1 - src + dst, e.2)
  m.filter (fun e => decide (e.1 < dst)) ++ moved ++ m.filter fun e => decide (dst + n ≤ e.1)

/-- The same of sets. -/
def setMove (m old : List Nat) (src dst n : Nat) : List Nat :=
  let moved := (old.filter fun e => decide (src ≤ e ∧ e < src + n)).map fun e => e - src + dst
  m.filter (fun e => decide (e < dst)) ++ moved ++ m.filter fun e => decide (dst + n ≤ e)

/-- A frame's content, of the memory `old`, carried into another frame: data, vacancy, poison, errors, keys (R226). -/
def DevMem.carry (m old : DevMem) (src dst n : Nat) : DevMem :=
  { unit := m.unit
    data := tabMove m.data old.data src dst n
    pres := setMove m.pres old.pres (src / 32) (dst / 32) (n / 32)
    pois := setMove m.pois old.pois (src / 32) (dst / 32) (n / 32)
    syms := setMove m.syms old.syms (src / 64 * 72) (dst / 64 * 72) (n / 64 * 72)
    keys := tabMove m.keys old.keys (src / 64) (dst / 64) (n / 64)
    silent := setMove m.silent old.silent (src / 64) (dst / 64) (n / 64)
    told := setMove m.told old.told (src / 64) (dst / 64) (n / 64) }

/-- Whether a range holds no present sector. -/
def DevMem.allVacant (m : DevMem) (a n : Nat) : Bool :=
  m.pres.all fun e => !decide (a / 32 ≤ e ∧ e < (a + n) / 32)

/-- A sector's poison after a publish: set where poison was carried; cleared by a `fill` with a value that writes the
whole of a sector that was wholly vacant (R104, R222). -/
def DevMem.settlePoison (m : DevMem) (sec : Nat) (carried clears : Bool) : DevMem :=
  if carried then m.poison sec else if clears then { m with pois := setDel m.pois sec } else m

/-- Writes a range of the shadow into a memory, sector by sector; `a` is the range's place in the destination's
addresses and `pa` its physical place. -/
def Cmd.writeShadow (c : Cmd) (er : Nat → List Nat) (key : BitVec 512) (m : DevMem) (a pa n : Nat) : DevMem :=
  let sh := c.shadow.filter fun b => decide (a ≤ b.1 ∧ b.1 < a + n)
  let secs := sh.foldl (fun l b => setAdd l (b.1 / 32)) []
  secs.foldl (fun acc sec =>
    let psec := (pa + (32 * sec - a)) / 32
    let cov (i : Nat) : Option (Option Byte) := (sh.find? fun b => b.1 == 32 * sec + i).map (·.2)
    let whole := (List.range 32).all fun i => (cov i).isSome
    let both := (List.range 32).all fun i => sh.any fun b => b.1 == 32 * (if sec % 2 = 0 then sec + 1 else sec - 1) + i
    let clears := c.op == .fill false && whole && !setHas m.pres psec
    (acc.setSector er key psec whole both (settleSector acc key psec cov)).settlePoison psec (c.shPois.contains sec) clears) m

/-- The leaf of a page that a command reached, as the table holds it now; where the host has changed it so that it is no leaf of
that kind, as the command translated through it (R233). -/
def State.pageLeaf (s : State) (p : CmdPage) : Leaf :=
  let e := s.pte p.at_
  if leafOk e p.big && pteTgt e == pteTgt p.entry then ⟨p.at_, e, p.big⟩ else p.leaf

/-- Publishes a page into its new frame (R226). -/
def State.publishPage (s : State) (c : Cmd) (p : CmdPage) : State :=
  let l := s.pageLeaf p
  match (l.withFrame p.frame).place 0, l.place 0 with
  | (some sp, pa), (from_, old) =>
    let s1 := s.modDmem sp fun m =>
      let m1 := m.wipe pa l.size
      let m2 := if pteVacp l.entry then m1 else m1.carry (s.dmem (from_.getD sp)) old pa l.size
      c.writeShadow (s.erasures sp) (s.key c.tenant) m2 p.base pa l.size
    let vacant := (s1.dmem sp).allVacant pa l.size
    let s2 := if pteVacp l.entry then s1 else s1.giveFrame l (pteFrame l.entry)
    (if vacant then s2.giveFrame l p.frame else s2).publishFrame l.at_ (if vacant then 2 ^ 47 else p.frame)
  | (none, _), _ => s

/-- Publishes the part of a shadow that lies in a host page, which has no frame of the device: a vacant byte leaves 0xFF, and a
page marked vacant has its FRAME again (R221, R231, log 61, DESIGN CHOICE). -/
def State.publishHost (s : State) (c : Cmd) (p : CmdPage) : State :=
  let l := s.pageLeaf p
  let s1 := c.shadow.reverse.foldl (fun (a : State) (b : Nat × Option Byte) =>
    if p.holds b.1 then { a with hostmem := tabSet 0 a.hostmem (l.place b.1).2 (b.2.getD 0xFF) } else a) s
  if pteVacp l.entry then s1.publishFrame l.at_ (pteFrame l.entry) else s1

/-- Publishes the block shadow of a name; its previous block returns to the store, unless it has got another name since the command
reached it (R238, R239; log 74, DESIGN CHOICE). -/
def State.publishBlock (s : State) (c : Cmd) (name b : Nat) : State :=
  let t := towerOf c.core
  let old := (s.tower t).block c.tenant name
  let s1 := s.modDmem (.block t) fun m =>
    let m1 := m.wipe (65536 * b) 65536
    let m2 := match old with | some o => m1.carry m (65536 * o) (65536 * b) 65536 | none => m1
    c.writeShadow (s.erasures (.block t)) (s.key c.tenant) m2 (65536 * name) (65536 * b) 65536
  let names := ((s.tower t).canvNames.filter fun n => !(n.1 == c.tenant && n.2.1 == name))
  let vacant := (s1.dmem (.block t)).allVacant (65536 * b) 65536
  s1.modTower t fun w => { w with
    canvNames := if vacant then names else names ++ [(c.tenant, name, b)]
    canvFree := (match old with | some o => if w.namesOf o = 1 then [o] else [] | none => []) ++ (if vacant then [b] else []) ++ w.canvFree }

/-- Runs of consecutive addresses, each written by one write. -/
def runsOf : List (Nat × Option Byte) → List (Nat × List Byte)
  | [] => []
  | (_, none) :: l => runsOf l
  | (a, some v) :: l => match runsOf l with
    | (b, bs) :: r => if b = a + 1 then (a, v :: bs) :: r else (a, [v]) :: (b, bs) :: r
    | [] => [(a, [v])]

/-- The extent that a command vacates as far as it got: (address, length) of each element done. -/
def Cmd.doneSrc (mx6 : Bool) (c : Cmd) : List (Nat × Nat) :=
  ((c.elems mx6).take c.pos).filterMap fun e =>
    if c.op.isFill then some (e.dst, e.len) else if e.noSrc then none else some (e.src, e.len)

/-- The bytes of a sector that lie in the spans, as a write that vacates them (R349). -/
def spanCover (spans : List (Nat × Nat)) (sec i : Nat) : Option (Option Byte) :=
  if spans.any fun r => decide (r.1 ≤ 32 * sec + i ∧ 32 * sec + i < r.1 + r.2) then some none else none

/-- Whether the spans cover the whole of a sector. -/
def spanWhole (spans : List (Nat × Nat)) (sec : Nat) : Bool := (List.range 32).all fun i => (spanCover spans sec i).isSome

/-- A sector's part of the spans vacated in a memory; `a` is the sector's address in the spans and `pa` its place (R349). -/
def DevMem.vacateSpans (m : DevMem) (er : Nat → List Nat) (key : BitVec 512) (spans : List (Nat × Nat)) (sec psec : Nat) : DevMem :=
  m.setSector er key psec (spanWhole spans sec) (spanWhole spans (if sec % 2 = 0 then sec + 1 else sec - 1))
    (settleSector m key psec (spanCover spans sec))

/-- Vacates the spans' part of one sector of a page at a publish; a device page left vacant gives its frame back (R226, R349). A
host page has no vacancy: its vacated bytes become 0xFF (log 61, DESIGN CHOICE). -/
def State.vacatePage (s : State) (c : Cmd) (spans : List (Nat × Nat)) (sec : Nat) : State :=
  let a := 32 * sec
  match c.vacPages.find? (·.holds a) with
  | none => s
  | some p =>
    let l := s.pageLeaf p
    if pteVacp l.entry then s else match l.place a with
    | (none, pa) => (List.range 32).foldl (fun (s : State) i =>
        if (spanCover spans sec i).isSome then { s with hostmem := tabSet 0 s.hostmem (pa + i) 0xFF } else s) s
    | (some sp, pa) =>
      let key := s.key (pteKey l.entry)
      let s1 := s.modDmem sp fun m => m.vacateSpans (s.erasures sp) key spans sec (pa / 32)
      if (s1.dmem sp).allVacant (pa - a % l.size) l.size then
        (s1.giveFrame l (pteFrame l.entry)).publishFrame l.at_ (2 ^ 47)
      else s1

/-- Vacates the spans' part of one sector of a name at a publish; a block left vacant with this one name is freed
(R238, R349). A block that has got a second name since the command reached it is read-only, and keeps its sectors (R239; log 74,
DESIGN CHOICE). -/
def State.vacateName (s : State) (c : Cmd) (spans : List (Nat × Nat)) (sec : Nat) : State :=
  let t := towerOf c.core
  let a := 32 * sec
  match (s.tower t).block c.tenant (a / 65536) with
  | none => s
  | some b =>
    let p := (65536 * b + a % 65536) / 32
    let s1 := s.modDmem (.block t) fun m => m.vacateSpans (s.erasures (.block t)) (s.key c.tenant) spans sec p
    if 1 < (s.tower t).namesOf b then s
    else if (s1.dmem (.block t)).allVacant (65536 * b) 65536 then
      s1.modTower t fun w => { w with canvNames := w.canvNames.filter (·.2.2 != b), canvFree := b :: w.canvFree }
    else s1

/-- The halfwords of a local range, whole: a byte becomes vacant with its halfword (R71, log 20, DEDUCED). -/
def Scratch.vacateHalves (m : Scratch) (off len : Nat) : Scratch :=
  m.vacate (2 * (off / 2)) (2 * ((off + len + 1) / 2 - off / 2))

/-- The local ranges that a command's publish writes. -/
def Cmd.localWrites (c : Cmd) : List (Nat × List Byte) :=
  if c.op == .fill true || vwSpace c.dst != 0 then [] else runsOf c.shadow.reverse

/-- The local ranges that a command's publish vacates. -/
def Cmd.localVacates (mx6 : Bool) (c : Cmd) : List (Nat × Nat) :=
  if c.op.vacates && (if c.op.isFill then vwSpace c.dst else vwSpace c.src) == 0 then c.doneSrc mx6 else []

/-- The uncorrectable words that writes made together find: those that they cover in part (R70). -/
def Scratch.foundMerge (m : Scratch) (rs : List (Nat × Nat)) : List Nat :=
  if m.flips.isEmpty then []
  else (rs.flatMap fun r => m.foundRead r.1 r.2).dedup.filter fun w =>
    !(List.range 8).all fun i => rs.any fun r => decide (r.1 ≤ 8 * w + i ∧ 8 * w + i < r.1 + r.2)

/-- A publish into ranges of a core's scratchpad returns their segments to power, and finds the uncorrectable words that it writes
in part, without a trap (R70, R94). -/
def State.mergeFoundAt (s : State) (core : CoreRef) (cause job tenant scope pal : Nat) (rs : List (Nat × Nat)) : State :=
  (s.modCore core fun k => rs.foldl (fun k r => k.powerUp r.1 r.2) k).coreFound core cause 0 job tenant scope
    ((s.core core).mem.foundMerge rs) (some pal)

/-- A transfer's or fill's publish into its core's scratchpad (R70, R94). -/
def State.mergeFound (s : State) (c : Cmd) (rs : List (Nat × Nat)) : State :=
  s.mergeFoundAt c.core 0x03 c.job c.tenant c.scope (if c.op.isFill then c.dstId else c.srcId) rs

/-- The extent a command vacates becomes vacant (R221, R222); its pages are those that the publish has left. -/
def State.vacateSource (s : State) (mx6 : Bool) (c : Cmd) : State :=
  let space := if c.op.isFill then vwSpace c.dst else vwSpace c.src
  let spans := c.doneSrc mx6
  let secs := spans.foldl (fun l r => (touched 32 r.1 r.2).foldl setAdd l) []
  match space with
  | 0 => s.modCore c.core fun k =>
      { k with mem := spans.foldl (fun (m : Scratch) r => m.vacateHalves r.1 r.2) k.mem }
  | 1 => secs.foldl (fun a sec => a.vacatePage ((a.cmd c.id).getD c) spans sec) s
  | _ => secs.foldl (fun a sec => a.vacateName c spans sec) s

/-- The core's transfer table without a command's sectors (R69, R71). -/
def State.endTransfer (s : State) (c : Cmd) : State :=
  s.modCore c.core fun k => { k with pend := k.pend.filter (·.2 != c.id), transit := k.transit.filter (·.2 != c.id) }

/-- What a command has written takes its place, in one step; GEN aside (R2, R221, R224). -/
def State.publishData (s : State) (c : Cmd) : State :=
  let ws := c.localWrites
  let s1 := ((s.setCmd c).endTransfer c).mergeFound c (ws.map (fun b => (b.1, b.2.length)) ++ c.localVacates s.mx6)
  let s2 := if c.op == .fill true then s1 else match vwSpace c.dst with
    | 0 => s1.modCore c.core fun k =>
        let m := ws.foldl (fun (m : Scratch) (b : Nat × List Byte) => m.put b.1 b.2) k.mem
        { k with mem := c.shPois.foldl (fun (m : Scratch) sec => m.poison sec) m }
    | 1 => c.frames.foldl (fun (a : State) p => if p.isHost then a.publishHost c p else a.publishPage c p) s1
    | _ => c.frames.foldl (fun (a : State) p => a.publishBlock c p.base p.frame) s1
  (if c.op.vacates then s2.vacateSource s.mx6 c else s2).endCmd c.id

/-- A command publishes: GEN of its destination rises with it (R209, R221). -/
def State.publishCmd (s : State) (c : Cmd) : State := (s.publishData c).cmdBump c.ctx c.node c.dstId

/-- Discards a command: its shadow frames go back, its sources are plain present, nothing else changes (R224, R226). -/
def State.discardCmd (s : State) (c : Cmd) : State :=
  let t := towerOf c.core
  let s1 := (s.endTransfer c).endCmd c.id
  match vwSpace c.dst with
  | 0 => s1
  | 1 => c.frames.foldl (fun (a : State) p => if p.isHost then a else a.giveFrame p.leaf p.frame) s1
  | _ => s1.modTower t fun w => { w with canvFree := c.frames.map (·.frame) ++ w.canvFree }

/-! The life of a command (R219, R224, R227). -/

/-- The space code of a report for a view (R96). -/
def viewReportSpace (v : Rec64) : Nat := vwSpace v

/-- Holds a command at its failing element and delivers the trap; while the context's queue is full nothing changes
(R96, R227, R311). -/
def State.holdCmd (s : State) (before : State) (c : Cmd) (f : ElemFail) (e : Elem) : State :=
  let (opa, opb) := c.record f e
  let held := { c with state := .held f.code opa opb }
  match c.ctx with
  | none => (s.setCmd held).postJob c.job { type := 0x07, scope := c.scope, pay := ofDws 256 [opa, opb, BitVec.ofNat 64 c.node, 0] }
  | some r => match s.deliver r c.node ⟨f.code, opa, opb⟩ with
    | .done s1 =>
      let s2 := s1.setCmd held
      let who : W64 := at_ 64 0 r.core.val ||| at_ 64 9 (if r.q then 1 else 0)
      if f.code = 0x21 ∧ f.cause = 0x05 then
        s2.postJob c.job { type := 0x05, scope := c.scope, pay := ofDws 256 [opa, opb, who, 0] }
      else s2
    | .full => before
    | .gone => (s.discardCmd c).report c.job (orphan c.core c.tenant c.scope f.code
        (viewReportSpace (if f.pal = c.srcId ∧ f.addr = e.src then c.src else c.dst)) opa)

/-- The first local offset that a command names (R328). -/
def Cmd.firstLocal (c : Cmd) : Nat := match c.op, c.ctr with
  | .ctradd _, .mem off => off
  | .ctradd _, _ => 0
  | op, _ => if vwSpace c.src = 0 ∧ !op.isFill then vwBase c.src else if vwSpace c.dst = 0 then vwBase c.dst else 0

/-- The report of a command that addresses a core it cannot reach (R328). -/
def State.unreachNote (s : State) (c : Cmd) : State :=
  s.report c.job { core := c.core.val, code := 0x0C, cause := 0x30, tenant := c.tenant, scope := c.scope, base := c.firstLocal }

/-- A command that addresses a core it cannot reach, be it since it started, transfers nothing and adds to its counter (R328). -/
def State.unreachCmd (s : State) (c : Cmd) : State := ((s.discardCmd c).cmdAdd c).unreachNote c

/-- DEVUE of a command that has found an uncorrectable error, delivered to its context; a command of a node raises none (R98,
R105). -/
def State.devue (s : State) (c : Cmd) : Delivery := match c.found, c.ctx with
  | some (i, a), some r =>
    let e := ((c.elems s.mx6)[i]?).getD ⟨0, 0, 0, 0, 0, 0, 0, false, false, false⟩
    s.deliver r c.node ⟨0x23, faultA 0x08 c.srcId a, faultB c.tag e.batch (vwRow0 c.src + e.row) (vwCol0 c.src + e.col)⟩
  | _, _ => .done s

/-- A command ends as completed: DEVUE goes out where it has found an error, then it publishes, or unless it is `.np` is complete,
and adds (R98, R221, R227). While the context's trap queue is full it stays as it is (none); for a context that has retired it ends
as a cancelled command does (R96). -/
def State.finishCmd (s : State) (c : Cmd) : Option State := match s.devue c with
  | .done s1 => some ((if c.op.np then s1.setCmd { c with state := .complete } else s1.publishCmd c).cmdAdd c)
  | .full => none
  | .gone => some ((s.discardCmd c).report c.job
      (orphan c.core c.tenant c.scope 0x23 (viewReportSpace c.src) (faultA 0x08 c.srcId ((c.found.map (·.2)).getD 0))))

/-- Whether a resident page is claimed by a command: it has reached the page, or claims a sector of it (R223, R234). -/
def State.claimsPage (s : State) (c : Cmd) (root base : Nat) (l : Leaf) : Bool :=
  s.rootOf c.job == root && ((c.frames ++ c.vacPages).any (·.base == base) ||
    c.claims.any fun k => k.1 == 1 && decide (base ≤ 32 * k.2 ∧ 32 * k.2 < base + l.size))

/-- Whether the tower whose frames a page draws on has a resident page that is neither pinned nor claimed by the command that wants
a frame, so that the command waits while the host evicts (R234). -/
def State.evictable (s : State) (c : Cmd) (va : Nat) : Bool :=
  match s.leaf (towerOf c.core) (columnOf c.core) (s.rootOf c.job) va with
  | .invalid _ => false
  | .leaf w => (s.residents (nearTower w.entry (towerOf c.core))).any fun p =>
      pteTgt p.2.2.entry == pteTgt w.entry && !ptePin p.2.2.entry && !s.claimsPage c p.1 p.2.1 p.2.2

/-- A running command works on its elements: it is held at a failure, waits for a frame while the host evicts, or has reached its
end (R98, R221, R234). All elements from one hold to the next are one event, so a reader meets another command's publish, or another's
claim, before the first of them or after the last (R224; logs 10 and 11). -/
def State.runCmd (s : State) (c : Cmd) : State :=
  if s.unreachable c.core then s.unreachCmd c
  else
  let (fail, c1, s1) := s.elemLoop c ((c.elems s.mx6).drop c.pos)
  match fail with
  | some (f, e) =>
    if f.code = 0x21 ∧ f.cause = 0x05 ∧ s1.evictable c1 f.addr then s1.setCmd { c1 with state := .evicting } else s1.holdCmd s c1 f e
  | none => (s1.finishCmd c1).getD s

/-- Whether an element of a command lies in a page outside every memory of the device (R4, R231). -/
def State.outside (s : State) (c : Cmd) : Bool :=
  let out (space va : Nat) : Bool := space == 1 && match s.leaf (towerOf c.core) (columnOf c.core) (s.rootOf c.job) va with
    | .leaf l => !l.inMemory
    | .invalid _ => false
  (c.elems s.mx6).any fun e => (c.reads e && out (vwSpace c.src) e.src) || (!e.noDst && out (vwSpace c.dst) e.dst)

/-- Whether two commands are of one continuation. -/
def Cmd.sameCtx (c d : Cmd) : Bool := c.ctx == d.ctx && c.node == d.node && c.ctx.isSome

/-- Whether the earlier commands of a continuation have started (R219). -/
def State.inOrder (s : State) (c : Cmd) : Bool :=
  s.cmds.all fun d => !(c.sameCtx d && decide (d.id < c.id) && d.state == .queued)

/-- The commands of a column's engine (R219). -/
def State.engineOf (s : State) (c : CoreRef) : List Cmd :=
  s.cmds.filter fun d => columnOf d.core == columnOf c && towerOf d.core == towerOf c

/-- Whether an engine has room for another command (R219). A command counts among the 128 until it ends: no rule says that it leaves
the queue as it starts (log 72, DESIGN CHOICE). -/
def State.engineRoom (s : State) (c : CoreRef) : Bool := decide ((s.engineOf c).length < 128)

/-- Whether a command is running, be it that it waits for a frame (R219, R234). -/
def Cmd.running (c : Cmd) : Bool := match c.state with
  | .running => true
  | .evicting => true
  | _ => false

/-- Whether an engine runs fewer than 16 commands (R219). -/
def State.runRoom (s : State) (c : CoreRef) : Bool := decide (((s.engineOf c).filter Cmd.running).length < 16)

/-- The sectors a starting command marks in its core's transfer table: pending destinations, in-transit sources that
hold something present (R221, R222); their segments return to power (R94). A sector that a store of its core has made present
since the issue check is then pending and present at once: a load reads its data, and `vtst` reports it vacant (R71, R73; log 72,
DESIGN CHOICE). -/
def State.markSectors (s : State) (c : Cmd) : State :=
  let dst := if vwSpace c.dst = 0 then runSectors (viewRuns s.mx6 c.dst) else []
  let src := if vwSpace c.src = 0 then runSectors (viewRuns s.mx6 c.src) else []
  s.modCore c.core fun k0 =>
    let k := (dst ++ src).foldl (fun k sec => k.powerUp (32 * sec) 32) k0
    let has (sec : Nat) : Bool := (List.range 16).any fun i => setHas k.mem.pres (16 * sec + i)
    match c.op with
    | .fill true => { k with transit := k.transit ++ (dst.filter has).map (·, c.id) }
    | .fill false => { k with pend := k.pend ++ dst.map (·, c.id) }
    | _ => { k with
        pend := k.pend ++ dst.map (·, c.id)
        transit := if c.op.vacates then k.transit ++ (src.filter has).map (·, c.id) else k.transit }

/-- Whether every earlier engine command of its continuation that a `ctradd` waits for has published or failed, `.np` ones being
complete, and every earlier `ctradd` has made its add; drains included (R214). -/
def State.ctraddReady (s : State) (ctx : Option CtxRef) (node id : Nat) (core : CoreRef) : Bool :=
  s.cmds.all (fun d => !(d.ctx == ctx && d.node == node && decide (d.id < id)) ||
    match d.op with
    | .cpyNp => d.state == .complete
    | .movNp => d.state == .complete
    | .kvshare _ _ => true
    | .kvdrop _ => true
    | .kvstat _ _ => true
    | _ => false) &&
  (s.core core).mx.drains.all fun d => d.node != node || decide (id ≤ d.id)

/-- Whether a command is `pub` or `dsc`. -/
def CmdOp.settles : CmdOp → Bool
  | .pub => true
  | .dsc => true
  | _ => false

/-- The unpublished transfers of a continuation into a Palette id, issued before a command and not named by an earlier
`pub` or `dsc` (R216, R228). -/
def State.npInto (s : State) (ctx : Option CtxRef) (node id pal : Nat) : List Cmd :=
  let mine := s.cmds.filter fun d => d.ctx == ctx && d.node == node && decide (d.id < id) && d.dstId == pal
  mine.filter fun d => d.op.np && !mine.any fun e => e.op.settles && decide (d.id < e.id)

/-- `fretry`: the held command runs again from its failing element, as soon as its engine runs fewer than 16 (R219, R227). -/
def State.retryCmd (s : State) (c : Cmd) : State :=
  s.setCmd { c with state := if s.runRoom c.core then .running else .waiting }

/-- `fskip`: the held command ends and publishes what it has written, `.np` ones becoming complete; while its DEVUE finds the
context's trap queue full it waits (R96, R227, R239). -/
def State.skipCmd (s : State) (c : Cmd) : State := match c.op with
  | .kvshare _ _ => s.endCmd c.id
  | .kvdrop _ => s.endCmd c.id
  | _ => (s.finishCmd c).getD (s.setCmd { c with state := .skipped })

/-- The held command of a continuation with a tag (R227). -/
def State.heldCmd (s : State) (r : CtxRef) (tag : Nat) : Option Cmd :=
  s.cmds.find? fun c => c.ctx == some r && c.node == (s.ctx r).node && c.tag % 4096 == tag && match c.state with
    | .held _ _ _ => true
    | _ => false

end Sys2Proof.Machine
end

