-- ==== Sys2Proof/Machine/Profile.lean ====
section
/-!
DEFINITION. What the control profile's slot 6 operations do to Easel when their bundle commits (R299 to R309).
-/

namespace Sys2Proof.Machine

/-- A result of variable latency of a context: it lands when RESULT_LANDING comes (R25, R31). -/
def Ctx.expect (x : Ctx) (v : RVal) : Ctx := { x with inflight := x.inflight ++ [⟨v, 0, none, false, 0, []⟩] }

/-- The queue of a tower, as created (R290). -/
def Tower.queue (w : Tower) (i : Nat) : Option Queue := w.queues.find? (·.index == i)

/-- Whether a queue is enabled. -/
def Tower.queueOn (w : Tower) (i : Nat) : Bool := match w.queue i with
  | some q => q.en
  | none => false

/-- LASTSEQ of a queue, 0xFFFF_FFFF until something is accepted (R303). -/
def Tower.lastseq (w : Tower) (i : Nat) : BitVec 32 := match w.queue i with
  | some q => q.lastseq
  | none => 0xFFFFFFFF

/-- Whether SEQ x is newer than y (R303). -/
def newer (x y : BitVec 32) : Bool := (x - y) != 0 && !(x - y).msb

/-- The kicked queues in scan order from a start (R300). -/
def scanOrder (kick : List Nat) (start : Nat) : List Nat :=
  kick.filter (fun i => decide (start ≤ i)) ++ kick.filter fun i => decide (i < start)

/-- `kscan`'s step: clears bits up to the first enabled queue's and reads its tail, which claims the queue (R291, R300). -/
def Tower.kscan (w : Tower) : List Nat → W64 × Tower
  | [] => (BitVec.allOnes 64, w)
  | i :: is =>
    let w1 := { w with kick := setDel w.kick i }
    match w.queue i with
    | some q =>
      if q.en then
        (q.sqtail ++ BitVec.ofNat 32 i,
          { w1 with queues := w1.queues.map fun u => if u.index == i then { u with claim := u.sqtail } else u })
      else w1.kscan is
    | none => w1.kscan is

/-- The bytes of a submission entry: ring slot n mod 2^m of queue i (R289, R301). -/
def Tower.subEntry (w : Tower) (i n : Nat) : List Byte := match w.queue i with
  | some q => bytesOf w.qmem (q.sqbase + 64 * (n % 2 ^ q.sqm)) 64
  | none => List.replicate 64 0

/-- A 64-byte record from bytes. -/
def recOfBytes (l : List Byte) : Rec64 := BitVec.ofNat 512 (leNat l)

/-- OPC of a submission entry (R292). -/
def subOpc (e : Rec64) : Nat := nfld (dw e 0).toNat 63 56
/-- SEQ of a submission entry. -/
def subSeq (e : Rec64) : BitVec 32 := e.extractLsb' 0 32
/-- JOB of a submission entry. -/
def subJob (e : Rec64) : Nat := nfld (dw e 1).toNat 63 32

/-- The common "must be 0" fields of a submission entry: DW0 and DW1 beside OPC, SEQ and JOB (R292). -/
def subOk (e : Rec64) : Bool := fld e 55 32 == 0 && nfld (dw e 1).toNat 31 0 == 0

/-- The node record a NODE entry names, checked as `spawn` checks one (R245, R251, R292): the record, or 3 for a privilege
failure or an unknown job, 4 for any other, one of a job that has finished among them (R276). -/
def State.nodeEntry (s : State) (e : Rec64) : Except Nat (Nat × Rec64) :=
  if !subOk e || (dw e 3 != 0 || dw e 4 != 0 || dw e 5 != 0 || dw e 6 != 0 || dw e 7 != 0) || (dw e 2).toNat % 64 != 0 then .error 4
  else match s.job (subJob e) with
  | none => .error (if s.jobsDone.contains (subJob e) then 4 else 3)
  | some j => match s.vreadClean j.num (dw e 2).toNat 64 with
    | none => .error 4
    | some bs =>
      let r := recOfBytes bs
      if !recOk r || !s.recGroupOk r || recPcan r then .error 4
      else if recTenant r != j.tenant.toNat || !s.inSubtree j.home j.root (recScope r) || !s.checkScopeOk j.home r then .error 3
      else match s.scope j.home (recScope r) with
        | some c => if c.state == .opened then .ok (j.num, r) else .error 4
        | none => .error 4
where
  /-- PCAN, which an image must hold 0. -/
  recPcan (r : Rec64) : Bool := bit (dw r 3) 63

/-- ANS, DUP and FAIL of a result word (R303). -/
def npAns : W64 := 0x2000000000000000
/-- DUP. -/
def npDup : W64 := 0x8000000000000000
/-- FAIL. -/
def npFail : W64 := 0x4000000000000000

/-- Creates the tag of an `npush` and delivers its result (R303). -/
def State.npDone (s : State) (r : CtxRef) (d : BitVec 6) (q : Nat) (n : BitVec 32) (res : W64) : State :=
  (s.modTower (towerOf r.core) fun w => { w with origins := w.origins ++ [⟨q, n, res⟩] }).modCtx r fun x => x.expect (.s d res)

/-- An `npush` that waits, with the entry copy that it pushes (R303). -/
def pushWait (r : CtxRef) (d : BitVec 6) (e : Rec64) (q : Nat) (n : BitVec 32) : SpawnWait := ⟨r, 0, subJob e, d, 0, e, some (q, n)⟩

/-- An `npush` of an entry copy is performed; while the node pool is full it waits (R303). -/
def State.pushEntry (s : State) (r : CtxRef) (d : BitVec 6) (e : Rec64) (q : Nat) (n : BitVec 32) : State :=
  let w := s.tower (towerOf r.core)
  let ans (v : W64) : State := s.modCtx r fun x => x.expect (.s d v)
  if !newer n (w.lastseq q) then ans npAns
  else match w.origins.find? fun o => o.queue == q && o.seq == n with
  | some o => ans (npDup ||| o.result)
  | none =>
    if subOpc e ≠ 2 then s.npDone r d q n (npFail ||| 1)
    else if subSeq e ≠ n then s.npDone r d q n (npFail ||| 2)
    else match s.nodeEntry e with
    | .error k => s.npDone r d q n (npFail ||| BitVec.ofNat 64 k)
    | .ok (job, nrec) =>
      if s.poolRoom (recTower nrec) then
        let (id, s1) := s.insertNode job nrec
        s1.npDone r d q n (BitVec.ofNat 64 id)
      else { s with spawnWait := s.spawnWait ++ [pushWait r d e q n] }

/-- `npush`: a core's are performed in order, so one behind a waiting one waits (R303). -/
def State.npush (s : State) (r : CtxRef) (d : BitVec 6) (off q : Nat) (n : BitVec 32) : State :=
  let e := recOfBytes (bytesOf (s.tower (towerOf r.core)).ctlmem off 64)
  if s.spawnWait.any fun w => w.ctx == r && w.push.isSome then { s with spawnWait := s.spawnWait ++ [pushWait r d e q n] }
  else s.pushEntry r d e q n

/-- `cpost` (R304). -/
def State.cpost (s : State) (r : CtxRef) (q : Nat) (seq : BitVec 32) (job : Nat) (res : W64) : State :=
  let t := towerOf r.core
  let w := s.tower t
  if !newer seq (w.lastseq q) then s
  else
    let s1 := (s.identDrawn job).modTower t fun w => { w with
      queues := w.queues.map fun u => if u.index == q then { u with lastseq := seq } else u
      origins := w.origins.filter fun o => !(o.queue == q && o.seq == seq) }
    let (tn, sc) := s.identOf job
    let fail := bit res 62
    s1.post (2048 * towerNat t + q)
      { type := if fail then 2 else 1, seq := seq.toNat, job := job, tenant := tn, scope := sc
        status := if fail then fld res 7 0 else 0
        pay := if fail then 0 else BitVec.ofNat 256 (fld res 31 0) }

/-- Whether a control core is its tower's primary. -/
def State.isPrimary (s : State) (c : CoreRef) : Bool := (s.tower (towerOf c)).primary == decide (c.val % 2 = 1)

/-- Whether a fabric edge takes effect at a core cycle boundary: in 19 core cycles there are 16 (R5). -/
def edgeAt (cycle : Nat) : Bool := cycle % 19 != 1 && cycle % 19 != 7 && cycle % 19 != 13

/-- The first core cycle boundary from a cycle on at which a fabric edge takes effect (R5). -/
def nextEdge (cycle : Nat) : Nat := if edgeAt cycle then cycle else cycle + 1

/-- Where a timer of 2^20 fabric cycles that starts in a core cycle runs out: 19 · 2^16 core cycles later, or one more, as it falls on
an edge's boundary; where both do, a free choice, for the edge that the start first meets is open (R5, R305, log 11, DESIGN
CHOICE). -/
def beatEnd (start choice : Nat) : Nat :=
  let d := start + 19 * 2 ^ 16
  if !edgeAt d then d + 1 else if !edgeAt (d + 1) then d else d + choice % 2

/-- A tower's heartbeat timer starts in a core cycle; `Tower.beat` holds the cycle in which it runs out (R305). -/
def State.startBeat (s : State) (t : Bool) (start : Nat) : State :=
  let (n, s1) := s.draw
  s1.modTower t fun w => { w with beat := some (beatEnd start n) }

/-- `tlbinv`: an invalidation request, or its refusal (R309). `queue` names the INVAL entry it answers, if any. -/
def State.requestInval (s : State) (job : Nat) (first len : W64) (bad : Bool) (ctx : Option CtxRef) (d : BitVec 6)
    (queue : Option (Nat × BitVec 32)) : Nat × State :=
  if bad then (3, s)
  else match s.job job with
  | none => (1, s)
  | some _ =>
    let a := first.toNat
    let half := if a < 2 ^ 48 then 2 ^ 48 else 2 ^ 64
    if !canonicalW first || decide (half < a + len.toNat) then (2, s)
    else (0, { s with
      invals := s.invals ++ [⟨s.nextId, job, a, len.toNat, 3, ctx, d, queue⟩], nextId := s.nextId + 1 })
where
  /-- Whether a virtual address is canonical (R229). -/
  canonicalW (a : W64) : Bool := canonical a.toNat

/-- A control operation is performed (R299 to R309). -/
def State.applyCtl (s : State) (r : CtxRef) (o : CtlOp) : State :=
  let t := towerOf r.core
  match o with
  | .kscan d start =>
    let w := s.tower t
    let (v, w1) := w.kscan (scanOrder w.kick start)
    (s.setTower t w1).modCtx r fun x => x.expect (.s d v)
  | .qread d q n off =>
    let bs := (s.tower t).subEntry q n
    s.modCtx r fun x => { x with inflight := x.inflight ++ [⟨.s d (dw (recOfBytes bs) 1), 0, none, false, off, bs⟩] }
  | .jappend d a b =>
    let j := (s.tower t).japp
    (s.modTower t fun w => { w with japp := j + 1 }).modCtx r fun x => { x with
      inflight := x.inflight ++ [⟨.s d j, 0, some (s.cycle + 2), false, 0x80000 + 32 * (j.toNat % 16384), dwBytes [j, a, b, 0]⟩] }
  | .jcommit n => s.modTower t fun w => { w with jcom := BitVec.ofNat 64 n }
  | .npush d off q n => s.npush r d off q (BitVec.ofNat 32 n)
  | .cpost q seq job res => s.cpost r q (BitVec.ofNat 32 seq) job res
  | .chold => s.modTower t fun w => { w with hold := true, completions := w.completions.map fun c => { c with held := true } }
  | .crel => s.modTower t Tower.release
  | .hbeat => if s.isPrimary r.core then s.startBeat t s.cycle else s
  | .tko d =>
    let n := (s.tower t).holdCount
    ((s.modTower t fun w => { w with
        primary := decide (r.core.val % 2 = 1), takeover := false, reloadDue := true }).startBeat t s.cycle).modCtx r
      fun x => x.expect (.s d (BitVec.ofNat 64 n))
  | .tlbinv d off =>
    let b := bytesOf (s.tower t).ctlmem off 32
    let f (i : Nat) : W64 := BitVec.ofNat 64 (leNat ((b.drop (8 * i)).take 8))
    let (code, s1) := s.requestInval (fld (f 0) 63 32) (f 1) (f 2) (fld (f 0) 31 0 != 0 || f 3 != 0) (some r) d none
    if code = 0 then s1 else s1.modCtx r fun x => x.expect (.s d (BitVec.ofNat 64 code))

end Sys2Proof.Machine
end

