-- ==== Sys2Proof/Machine/Pieces.lean ====
section
/-!
DEFINITION. What happens after issue to slot 5 pieces (R110, R111, R127 to R129, R136, R143) and to stream operations
(R6, R8, R72, R82, R83, R132, R351).
-/

namespace Sys2Proof.Machine

/-! Refusals (R128, R129). -/

/-- Refusals move from the buffer into the asynchronous queue while it has room (R129). -/
def Ctx.enqueue (x : Ctx) : Nat → Ctx
  | 0 => x
  | n + 1 => match x.refusals with
    | [] => x
    | t :: ts => if x.asyncQ.length < 8 then (({ x with refusals := ts } : Ctx).pushAsync t).enqueue n else x

/-- A refusal joins the buffer, and the queue at once where it has room. -/
def Ctx.refuse (x : Ctx) (cause : BitVec 7) (atl seq : Nat) : Ctx :=
  ({ x with refusals := x.refusals ++ [AsyncTrap.mk 0x26 (faultA cause 0 atl) (faultB seq 0 0 0)] } : Ctx).enqueue 8

/-- Whether a context still runs the node that issued a piece or stream operation. -/
def State.alive (s : State) (r : CtxRef) (node : Nat) : Bool :=
  (s.ctx r).status != .free && (s.ctx r).node == node

/-! Performing pieces. -/

/-- Whether a kind of slot 5 operation writes (R135). -/
def S5Kind.writes : S5Kind → Bool
  | .store => true
  | .atomic _ _ _ => true
  | _ => false

/-- Whether a kind of slot 5 operation has a result. -/
def S5Kind.lands : S5Kind → Bool
  | .store => false
  | _ => true

/-- The ordering kind of a segment of a core: 0 S, 1 C, 2 U (R90). -/
def Core.kindOf (k : Core) (seg : Nat) : Nat := fld k.segKind (2 * seg + 1) (2 * seg)

/-- The kind that orders an access to a range of a core: the weakest of its segments' kinds, as they stand (R139). -/
def State.rangeKind (s : State) (c : CoreRef) (off len : Nat) : Nat :=
  ((touched 0x40000 off len).map (s.core c).kindOf).foldl max 0

/-- The kind that orders a piece: its access's (R139). -/
def State.pieceKind (s : State) (p : Piece) : Nat := s.rangeKind p.target p.first p.alen

/-- Whether two pieces touch one sector. -/
def Piece.meets (p q : Piece) : Bool :=
  p.target == q.target && decide (p.off / 32 ≤ (q.off + q.len - 1) / 32 ∧ q.off / 32 ≤ (p.off + p.len - 1) / 32)

/-- Whether a piece is a `rel` atomic whose ordering applies: not to kind U (R143). -/
def State.releases (s : State) (p : Piece) : Bool := match p.kind with
  | .atomic _ _ rel => rel && s.pieceKind p != 2
  | _ => false

/-- Whether a piece p may be performed before an earlier piece q of the same context, of another access. It may not where
both touch one sector (R111: stores among stores and reads among reads by the rule; a load and the context's own store to one
sector keep issue order too, log 10, DESIGN CHOICE), where both are of kind S (R136), where p is a `rel` atomic or p is a
write after a fence that q, a read, comes before, and neither is of kind U (R138, R141, R143). -/
def State.mayPass (s : State) (p q : Piece) : Bool :=
  p.seq == q.seq ||
    !(p.meets q || (s.pieceKind p == 0 && s.pieceKind q == 0) ||
      (s.pieceKind p != 2 && s.pieceKind q != 2 && (s.releases p || (p.kind.writes && q.kind.lands && decide (q.seq < p.after)))))

/-- Whether an earlier result that a `rel` atomic waits for has yet to land (R143). -/
def State.resultsOut (s : State) (p : Piece) : Bool :=
  s.alive p.issuer p.node && (s.ctx p.issuer).s5.any fun o =>
    o.kind.lands && decide (o.seq < p.seq) && s.rangeKind o.target o.first o.size != 2

/-- Whether two pieces are of one continuation. -/
def Piece.sameCtx (p q : Piece) : Bool := p.issuer == q.issuer && p.node == q.node

/-- Whether two pieces of one member write one sector, or read it: a member is a core, whichever continuation issued them
(R111, R125). -/
def Piece.inStep (p q : Piece) : Bool :=
  p.issuer.core == q.issuer.core && p.meets q && ((p.kind.writes && q.kind.writes) || (p.kind.lands && q.kind.lands))

/-- Whether an earlier piece q keeps a piece p from being performed. -/
def State.blocks (s : State) (p q : Piece) : Bool := if p.sameCtx q then !s.mayPass p q else p.inStep q

/-- Whether the n-th piece may be performed now; a `rel` atomic also waits for earlier results to land (R143). -/
def State.pieceReady (s : State) (n : Nat) (p : Piece) : Bool :=
  ((s.pieces.take n).all fun q => !s.blocks p q) && !(s.releases p && s.resultsOut p)

/-- Whether an `acq` atomic of a context has not landed, for which bundles with an enabled slot 4 or slot 5 operation wait;
one to kind U is not waited for (R138, R143). -/
def State.acqOut (s : State) (r : CtxRef) : Bool := (s.ctx r).s5.any fun o => match o.kind with
  | .atomic _ acq _ => acq && (o.filled || s.rangeKind o.target o.first o.size != 2)
  | _ => false

/-- The new value of a remote atomic, or none where `cas` fails (R134). -/
def atomicNew (op : BitVec 2) (old v expect : W64) : Option W64 := match op.toNat with
  | 0 => some (old + v)
  | 1 => some (if old.slt v then v else old)
  | 2 => some v
  | _ => if old = expect then some v else none

/-- The cause with which a piece is refused at its target (R127, R128). -/
def Core.pieceCause (k : Core) (p : Piece) : Option (BitVec 7) :=
  let bytes := (List.range p.len).map (p.off + ·)
  match p.kind with
  | .test => none
  | .load =>
    if bytes.any k.mem.poisoned then some 0x2A
    else if p.vtrap && bytes.any (fun a => !k.mem.has a && !k.pending a && !k.locked a) then some 0x28 else none
  | .store =>
    if bytes.any k.mem.poisoned then some 0x2A
    else if bytes.any fun a => k.pending a || k.inTransit a || k.locked a then some 0x29 else none
  | .atomic _ _ _ =>
    if bytes.any k.mem.poisoned then some 0x2A
    else if bytes.any fun a => k.pending a || k.inTransit a || (k.locked a && k.mem.has a) then some 0x29
    else if bytes.any fun a => !k.mem.has a then some 0x28 else none

/-- The vacancy of n halfwords from an offset (R87, R133). -/
def Core.vacancyOf (k : Core) (off n : Nat) : Nat :=
  (List.range n).foldl (fun acc i => if !k.mem.has (off + 2 * i) || k.pending (off + 2 * i) then acc + 2 ^ i else acc) 0

/-- The vacancy of 64 halfwords from an offset (R87, R133). -/
def Core.vacancy (k : Core) (off : Nat) : W64 :=
  BitVec.ofNat 64 ((List.range 64).foldl (fun acc i =>
    if !k.mem.has (off + 2 * i) || k.pending (off + 2 * i) then acc + 2 ^ i else acc) 0)

/-- A piece's read or partial write finds uncorrectable words: the sector is poisoned and one report names the first
word (R10, R70, R128). -/
def State.pieceFound (s : State) (p : Piece) : State :=
  let m := (s.core p.target).mem
  let ws := match p.kind with
    | .test => []
    | .store => m.foundWrite p.off p.len
    | _ => m.foundRead p.off p.len
  match ws with
  | [] => s
  | w :: _ => (s.modCore p.target fun k => { k with mem := k.mem.mark (w / 4) }).report p.job
      { core := p.target.val, code := 0x26, cause := 0x01, tenant := p.tenant, scope := p.scope, base := 8 * w, sect := 1 }

/-- What a piece returns to its issuer (R127, R128, R133, R134). -/
def Core.pieceBytes (k : Core) (p : Piece) (refused : Bool) : List Byte := match p.kind with
  | .test => leBytes (p.len / 16) (k.vacancyOf p.off (p.len / 2))
  | .store => []
  | .load => if refused then List.replicate p.len 0xFF else k.mem.loads p.off p.len
  | .atomic _ _ _ => if refused then List.replicate 8 0xFF else k.mem.loads p.off 8

/-- What a piece that is not refused does at its target (R127, R134). -/
def State.pieceEffect (s : State) (p : Piece) : State := match p.kind with
  | .test => s
  | .load => s.modCore p.target fun k => { k with mem := k.mem.correct p.off p.len }
  | .store => s.modCore p.target fun k => { k with mem := k.mem.put p.off p.data }
  | .atomic op _ _ =>
    let k := s.core p.target
    let old : W64 := BitVec.ofNat 64 (leNat (k.mem.loads p.off 8))
    match atomicNew op old (BitVec.ofNat 64 (leNat p.data)) p.expect with
    | some v => (s.setCore p.target { k with mem := k.mem.put p.off (leBytes 8 v.toNat) }).retestCore p.target
    | none => (s.modCore p.target fun k => { k with mem := k.mem.correct p.off 8 }).retestCore p.target

/-- The value a finished slot 5 operation returns (R109, R131 to R134). -/
def S5Op.value (o : S5Op) : Option RVal :=
  let bs := (List.range (if o.kind == .test then 8 else o.size)).map fun i => tabGet 0xFF o.got i
  match o.dst with
  | some (.s i) => some (.s i (if o.size = 4 then sext64 32 (leNat bs) else BitVec.ofNat 64 (leNat bs)))
  | some (.v i) => some (.v i (bytesVec bs))
  | _ => none

/-- The kind of an operation whose piece has been performed: an atomic that met kind U acquires and releases nothing (R139,
R143). -/
def S5Kind.asPerformed (k : S5Kind) (ordered : Bool) : S5Kind := match k with
  | .atomic op acq rel => .atomic op (acq && ordered) (rel && ordered)
  | k => k

/-- A context receives what a piece of one of its operations returned; when the last piece has answered, a result is
on its way, and a store is done (R129, R130). `ordered`: the piece was not of kind U. -/
def Ctx.answer (x : Ctx) (p : Piece) (bs : List Byte) (fill ordered : Bool) : Ctx :=
  let upd (o : S5Op) : S5Op :=
    if o.seq = p.seq then
      { o with kind := o.kind.asPerformed ordered, left := o.left - 1, got := tabPut 0xFF o.got p.at_ bs, vac := o.vac || fill, filled := decide (o.left ≤ 1) }
    else o
  let ops := x.s5.map upd
  match ops.find? fun o => o.seq == p.seq && o.filled with
  | none => { x with s5 := ops }
  | some o => match o.value with
    | some v => { x with s5 := ops, inflight := x.inflight ++ [⟨v, 0, none, o.vac, o.seq + 1, []⟩] }
    | none => { x with s5 := ops.filter fun o => o.seq != p.seq }

/-- The n-th piece, p, takes effect at its target as one event (R127, R128). -/
def State.performAt (s : State) (n : Nat) (p : Piece) : State :=
  let s1 := ({ s with pieces := s.pieces.eraseIdx n } : State).pieceFound p
  let k := s1.core p.target
  let cause := k.pieceCause p
  let bs := k.pieceBytes p cause.isSome
  let fill := p.kind == .load && cause.isNone && (List.range p.len).any fun i => !k.mem.has (p.off + i)
  let s2 := if cause.isSome then s1 else s1.pieceEffect p
  if !s2.alive p.issuer p.node then s2
  else s2.modCtx p.issuer fun x =>
    let y := x.answer p bs fill (s.pieceKind p != 2)
    match cause with
    | some c => y.refuse c p.atl p.seq
    | none => y

/-- The n-th piece is performed where it may be (R111, R136 to R143). -/
def State.performPiece (s : State) (n : Nat) : State := match s.pieces[n]? with
  | none => s
  | some p => if s.pieceReady n p then s.performAt n p else s

/-! Results landing (R25, R127, R130, R298). -/

/-- A control-memory copy that a result brings with it (R298, R301, R302). -/
def State.landCopy (s : State) (r : CtxRef) (dest : Nat) (copy : List Byte) : State :=
  if copy.isEmpty then s else s.modTower (towerOf r.core) fun w => { w with ctlmem := putBytes w.ctlmem dest copy }

/-- Flags are ORed into FFLAGS in the cycle in which their result lands (R60, R171). -/
def Ctx.landFlags (x : Ctx) (f : BitVec 5) (cycle : Nat) : Ctx :=
  { x.orFlags f with flagsAt := cycle, flagsNow := if x.flagsAt = cycle then x.flagsNow ||| f else f }

/-- Whether a result in flight may land: from its cycle on where its latency is fixed, from 60 cycles after issue on where it
answers a slot 5 operation (R25, R31). -/
def Ctx.mayLand (x : Ctx) (e : InFlight) (cycle : Nat) : Bool := match e.due with
  | some d => decide (d ≤ cycle)
  | none => !e.copy.isEmpty || x.s5.all fun o => o.seq + 1 != e.copyTo || decide (o.issued + 60 ≤ cycle)

/-- The n-th result in flight of a context lands, not before its cycle: its register is full, its flags are kept, a load
with fill sets VAC, and a slot 5 operation it answers is done (R25, R31, R127, R130, R298). -/
def State.landResult (s : State) (r : CtxRef) (n : Nat) : State := match (s.ctx r).inflight[n]? with
  | none => s
  | some e =>
    if !(s.ctx r).mayLand e s.cycle then s
    else (s.landCopy r e.copyTo e.copy).modCtx r fun x =>
      let y := { x with
        inflight := x.inflight.eraseIdx n
        s5 := if e.copy.isEmpty then x.s5.filter fun o => o.seq + 1 != e.copyTo else x.s5 }
      let z := (y.land e.val).landFlags e.flags s.cycle
      if e.vac then z.orStatus stVac else z

/-! Accesses that earlier pieces come before (R30, R135, R136, R140, R141). -/

/-- An access that takes effect at once, by slot 4 or a stream operation's step: the ranges it touches, whether it writes,
whether it is a local atomic, and the slot 5 number of a read of the same bundle. -/
structure Access where
  ranges : List (CoreRef × Nat × Nat)
  writes : Bool := false
  atomic : Bool := false
  bundle : Option Nat := none
deriving DecidableEq, Repr

/-- The kind that orders an access of ranges: the weakest (R139). -/
def State.accessKind (s : State) (a : Access) : Nat :=
  (a.ranges.map fun x => s.rangeKind x.1 x.2.1 x.2.2).foldl max 0

/-- Whether a piece reads bytes that an access touches. -/
def Access.overlaps (a : Access) (q : Piece) : Bool := a.ranges.any fun x =>
  x.1 == q.target && decide (x.2.1 < q.off + q.len ∧ q.off < x.2.1 + x.2.2)

/-- Whether a piece of the context comes before an access: both of kind S (R136); a read before a write after a fence (R141);
any access to the own scratchpad before a local atomic, a release at core scope (R140), kind U aside; a read of the same
bundle before a write to the same bytes (R30, R135). -/
def State.comesFirst (s : State) (r : CtxRef) (a : Access) (q : Piece) : Bool :=
  q.issuer == r && q.node == (s.ctx r).node &&
    ((s.accessKind a == 0 && s.pieceKind q == 0) ||
      (s.accessKind a != 2 && s.pieceKind q != 2 &&
        ((a.writes && q.kind.lands && decide (q.seq < (s.ctx r).relHere)) || (a.atomic && q.target == r.core))) ||
      (a.writes && a.bundle == some q.seq && q.kind.lands && a.overlaps q))

/-- Of a list of pieces, those named and those that one of them may not pass. -/
def State.closure (s : State) (need : Piece → Bool) : List Piece → List Piece
  | [] => []
  | q :: qs =>
    let l := s.closure need qs
    if need q || l.any (fun p => s.blocks p q) then q :: l else l

/-- A piece is performed now, those that come before it having been. -/
def State.performNow (s : State) (p : Piece) : State := match s.pieces.findIdx? (· == p) with
  | none => s
  | some n => s.performAt n p

/-- The pieces that come before an access are performed, with those before them, in their order. -/
def State.before (s : State) (r : CtxRef) (a : Access) : State :=
  if s.pieces.any (s.comesFirst r a) then (s.closure (s.comesFirst r a) s.pieces).foldl State.performNow s else s

/-- A slot 4 access to ranges of the context's own scratchpad comes after the earlier pieces that order it, by the weakest kind of
its segments (R136, R139 to R141). One that reaches outside the scratchpad is none. -/
def State.beforeS (s : State) (r : CtxRef) (kind : Acc4) (rs : List (Nat × Nat)) : State :=
  let rs1 := rs.filter fun x => x.2 != 0
  if isCtl r.core || rs1.isEmpty || rs1.any (fun x => decide (0x800000 < x.1 + x.2)) then s
  else s.before r { ranges := rs1.map fun x => (r.core, x.1, x.2), writes := kind != .load, atomic := kind == .atomic }

/-! Atelier members (R125, R126). -/

/-- Whether two contexts run nodes of one atelier set: nodes of one job and scope, in one atelier (R125, R249). -/
def Ctx.sameSet (x y : Ctx) : Bool := x.atelier.isSome && x.atelier == y.atelier && x.job == y.job && x.spec.scope == y.spec.scope

/-- The segments of a member that the atelier context of a context's set owns, as the mirrors have it: the context that runs there,
else the one that has yielded or been pre-empted, whose segments stay owned; and those that a retired one held until they are
granted again (R91, R125, R126, R249, R254; log 51, DEDUCED). -/
def State.mirror (s : State) (x : Ctx) (c : CoreRef) : BitVec 32 :=
  let live := [false, true].filterMap fun q =>
    let y := s.ctx ⟨c, q⟩
    if y.status != .free && x.sameSet y then some y.spec.segown else none
  let saved := s.nodes.filterMap fun n => n.image.bind fun im =>
    if im.core == c && x.sameSet im.ctx then some im.ctx.spec.segown else none
  (if live.isEmpty then saved else live).foldl (· ||| ·) (s.core c).mirror

/-! Stream operations (R6, R72, R82, R132, R351). -/

/-- A range locked for a node's stream operation (R72). -/
def Core.lock (k : Core) (owner off len : Nat) : Core :=
  if len = 0 then k else { k with locks := k.locks ++ [⟨owner, off / 2, len / 2⟩] }

/-- A stream operation starts: its ranges are locked, except that an `rmv.h` locks at its lock events (R72, R351). -/
def State.startStream (s : State) (r : CtxRef) (st : Stream) : State :=
  let s1 := s.modCtx r fun x => { x with stream := some st, s5Seq := x.s5Seq + (if st.kind = .rmv then 1 else 0) }
  if st.kind = .rmv then s1
  else s1.modCore r.core fun k =>
    (k.lock (s.ctx r).node st.src (st.n * st.esize)).lock (s.ctx r).node st.dst (st.n * st.esize)

/-- A stream operation ends: locks are released and sD receives a count (R6, R83, R132). -/
def State.endStream (s : State) (r : CtxRef) (st : Stream) (count : Nat) : State :=
  (s.unlock st (s.ctx r).node).modCtx r fun x => ({ x with stream := none } : Ctx).land (.s st.dreg (BitVec.ofNat 64 count))

/-- Whether both ranges of a stream operation are locked (R351). -/
def Stream.ready (st : Stream) : Bool := st.srcLock == .locked && st.dstLock == .locked

/-- One element: the destination becomes present with the source value, the source vacant unless `sdup`; poison is
carried (R6, R81, R83, R132). -/
def State.moveElem (s : State) (r : CtxRef) (st : Stream) : State :=
  let x := s.ctx r
  let a := st.src + st.moved * st.esize
  let d := st.dst + st.moved * st.esize
  let found (s : State) (c : CoreRef) (ws : List Nat) : State :=
    s.coreFound c 0x01 0 x.job x.spec.tenant.toNat x.spec.scope.toNat ws
  let s1 := found s st.srcCore ((s.core st.srcCore).mem.foundRead a st.esize)
  let s2 := found s1 st.dstCore ((s1.core st.dstCore).mem.foundWrite d st.esize)
  let m := (s2.core st.srcCore).mem
  let bs := (List.range st.esize).map fun i => m.byte (a + i)
  let s3 := s2.modCore st.dstCore fun k =>
    { k with mem := let m1 := k.mem.put d bs
                    if m.poisoned a then m1.poison (d / 32) else m1 }
  if st.kind = .sdup then s3.modCore st.srcCore fun k => { k with mem := k.mem.correct a st.esize }
  else s3.modCore st.srcCore fun k => { k with mem := k.mem.vacate a st.esize }

/-- The bank of an offset (R68). -/
def bankOf (off : Nat) : Nat := off / 8 % 32

/-- Whether a slot 4 operation of this cycle touches the bank of an element (R82). -/
def Core.bankBusy (k : Core) (cycle off : Nat) : Bool := k.bankCycle == cycle && k.banks.getLsbD (bankOf off)

/-- Whether a context's first bundle after its restoration still waits for the next element step of its stream operation
(R8, R318). -/
def Ctx.awaitsStep (x : Ctx) : Bool := match x.stream with
  | some st => st.resumed && !st.stopped && decide (st.moved < st.n)
  | none => false

/-- Whether a context's stream operation steps, ends or is deferred in this cycle; one of no elements ends so that sD
is full in cycle issue + 4 (R7, R82). -/
def Stream.due (st : Stream) (cycle : Nat) : Bool :=
  !st.stopped && st.ready && (if st.moved < st.n then decide (st.next ≤ cycle) else decide (st.next ≤ cycle + 1))

/-- A stream operation's element step, made at most once a cycle by the core's stream engine and deferred by a slot 4
operation in the same bank (R82). -/
def State.streamStep (s : State) (r : CtxRef) : State := match (s.ctx r).stream with
  | none => s
  | some st =>
    if !st.due s.cycle then s
    else if st.n ≤ st.moved then s.endStream r st st.n
    else
      let a := st.src + st.moved * st.esize
      let d := st.dst + st.moved * st.esize
      let put (s : State) (st : Stream) : State := s.modCtx r fun x => { x with stream := some st }
      let k := s.core r.core
      if (st.srcCore == r.core && k.bankBusy s.cycle a) || (st.dstCore == r.core && k.bankBusy s.cycle d) then
        put s { st with next := s.cycle + 1 }
      else
        let s1 := (s.before r { ranges := [(st.srcCore, a, st.esize), (st.dstCore, d, st.esize)], writes := true }).moveElem r st
        let s2 := (s1.modCore r.core fun k => { k with streamTurn := !r.q }).modCtx ⟨r.core, !r.q⟩ fun y =>
          { y with stream := y.stream.map fun z => if z.moved < z.n then { z with next := max z.next (s.cycle + 1) } else z }
        let st1 := { st with moved := st.moved + 1, next := s.cycle + 1, resumed := false }
        if st1.moved < st1.n then put s2 st1 else s2.endStream r st1 st1.n

/-! Lock events of `rmv.h` (R351). -/

/-- The first element of a range that fails the test of R74, with its cause. -/
def Core.lockFailure (k : Core) (off n : Nat) (dst : Bool) : Option (Nat × BitVec 7) :=
  ((List.range n).find? fun i => if dst then k.countsPresent (off + 2 * i) else k.countsVacant (off + 2 * i)).map fun i =>
    let a := off + 2 * i
    (i, if k.mem.poisoned a then 0x2A
        else if !dst && !k.mem.has a && !k.pending a && !k.inTransit a && !k.locked a then 0x28 else 0x29)

/-- What a lock event at a member comes to. -/
def lockStateOf : Option (Nat × BitVec 7) → LockState
  | none => .locked
  | some (i, c) => .failed i c

/-- The refusal of an `rmv.h` whose lock events are both over: the lowest element, the source first (R351). -/
def Stream.failure (st : Stream) : Option (BitVec 7 × Nat) :=
  match st.srcLock, st.dstLock with
  | .failed i c, .failed j d => if i ≤ j then some (c, st.srcAtl + 2 * i) else some (d, st.dstAtl + 2 * j)
  | .failed i c, .locked => some (c, st.srcAtl + 2 * i)
  | .locked, .failed j d => some (d, st.dstAtl + 2 * j)
  | _, _ => none

/-- Whether a lock event is still to come. -/
def LockState.open_ : LockState → Bool
  | .requested => true
  | _ => false

/-- A lock event of an `rmv.h`: at its destination member, or at its source member; one event where both ranges lie in
one member (R351). -/
def State.lockEvent (s : State) (r : CtxRef) (dst : Bool) : State := match (s.ctx r).stream with
  | none => s
  | some st =>
    if st.stopped || st.kind != .rmv then s
    else
      let one := st.srcCore == st.dstCore
      let doSrc := (one || !dst) && st.srcLock.open_
      let doDst := (one || dst) && st.dstLock.open_
      let fs := (s.core st.srcCore).lockFailure st.src st.n false
      let fd := (s.core st.dstCore).lockFailure st.dst st.n true
      let st1 := { st with srcLock := if doSrc then lockStateOf fs else st.srcLock
                           dstLock := if doDst then lockStateOf fd else st.dstLock }
      let own := (s.ctx r).node
      let s1 := if doSrc && fs.isNone then s.modCore st.srcCore fun k => k.lock own st.src (2 * st.n) else s
      let s2 := if doDst && fd.isNone then s1.modCore st.dstCore fun k => k.lock own st.dst (2 * st.n) else s1
      if st1.srcLock.open_ || st1.dstLock.open_ then s2.modCtx r fun x => { x with stream := some st1 }
      else match st1.failure with
        | none => s2.modCtx r fun x => { x with stream := some { st1 with next := s.cycle + 1 } }
        | some (c, a) => (s2.endStream r st1 0).modCtx r fun x => x.refuse c a st1.seq

end Sys2Proof.Machine
end

