-- ==== Sys2Proof/Machine/Effects.lean ====
section
/-!
DEFINITION. What the effects at issue of a bundle do when it commits (R29): register and memory writes, engine and
atelier commands, suspension and graph operations (R245 to R268), the return from a handler (R65).
-/

namespace Sys2Proof.Machine

/-! Segments (R91 to R94). -/

/-- The segments of a core that are saved for a job (R321). -/
def State.savedMask (s : State) (c : CoreRef) (job : Nat) : BitVec 32 :=
  (s.tower (towerOf c)).savedSegs.foldl (fun acc x => if x.core == c && x.job == job then setBit acc x.seg true else acc) 0

/-- The segments of a core owned by any continuation but one: its other context and the frames kept for the core, but for those
whose contents have been saved (R321). -/
def State.ownedByOthers (s : State) (r : CtxRef) : BitVec 32 :=
  let other := (s.ctx ⟨r.core, !r.q⟩)
  let o := if other.status == .free then 0 else other.spec.segown
  s.nodes.foldl (fun acc n => match n.image with
    | some im => if im.core == r.core && n.id != (s.ctx r).node then acc ||| (im.ctx.spec.segown &&& ~~~ s.savedMask r.core n.job) else acc
    | none => acc) o

/-- A segment with every halfword vacant and no poison (R93, R321). -/
def Scratch.clearSeg (m : Scratch) (seg : Nat) : Scratch :=
  { data := m.data.filter fun c => c.1 / 0x40000 != seg
    pres := m.pres.filter fun h => h / 0x20000 != seg
    pois := m.pois.filter fun p => p / 0x2000 != seg
    flips := m.flips.filter fun f => f / 77 / 0x8000 != seg
    told := m.told.filter fun p => p / 0x2000 != seg }

/-- Grants a segment to a tenant: cleared when it passes from another tenant, powered up (R93, R94, R326). -/
def Core.grantSeg (k : Core) (tenant : BitVec 6) (seg : Nat) : Core :=
  let i := seg % 32
  { k with
    mem := if k.segTenant[i]'(Nat.mod_lt _ (by decide)) = tenant then k.mem else k.mem.clearSeg seg
    segTenant := k.segTenant.set i tenant (Nat.mod_lt _ (by decide))
    segDown := setBit k.segDown seg false
    mirror := setBit k.mirror seg false }

/-- The segments of a mask. -/
def segsOf (mask : BitVec 32) : List Nat := (List.range 32).filter fun i => mask.getLsbD i

/-- Grants segments to a context (R91, R92). -/
def State.grant (s : State) (r : CtxRef) (mask : BitVec 32) : State :=
  let x := s.ctx r
  let new := mask &&& ~~~ x.spec.segown
  (s.modCore r.core fun k => (segsOf new).foldl (fun k i => k.grantSeg x.spec.tenant i) k).modCtx r
    fun x => { x with spec.segown := x.spec.segown ||| mask }

/-! The matrix engine's owner (R191). -/

/-- Unbinds the engine of a core: both accumulators become +0 with cleared counters. -/
def Core.unbind (k : Core) : Core := { k with mx := { k.mx with owner := none, acc0 := Acc.zero, acc1 := Acc.zero } }

/-! Leaving a context. -/

/-- Frees a context; its engine, if bound, is unbound (R191, R254, R258). -/
def State.freeCtx (s : State) (r : CtxRef) : State :=
  (s.modCore r.core fun k => if k.mx.owner == some r.q then k.unbind else k).setCtx r Ctx.blank

/-- The mirrors of the members change when a `segacq` or `segrel` commits, so what a retiring atelier context owned stays in
them until it is granted again (R126; checkpoint 3 of 06_tearing_program.md; log 51, DEDUCED). -/
def State.keepMirror (s : State) (r : CtxRef) : State :=
  if (s.ctx r).atelier.isSome then s.modCore r.core fun k => { k with mirror := k.mirror ||| (s.ctx r).spec.segown } else s

/-- `retire`: the continuation ends, which releases its segments, and its node completes (R93, R247, R258). -/
def State.retire (s : State) (r : CtxRef) : State :=
  let id := (s.ctx r).node
  ((s.keepMirror r).freeCtx r).completeNode id false []

/-- A context as `yield` keeps it: vectors not named by VLIVE read 0 (R254). -/
def Ctx.yielded (x : Ctx) : Ctx :=
  { x with vregs := (List.range 64).foldl (fun v i =>
      if x.spec.vlive.getLsbD i then v else v.set (i % 64) 0 (Nat.mod_lt _ (by decide))) x.vregs }

/-- Re-queues a node at the tail of its ready queue (R248). -/
def State.requeue (s : State) (id : Nat) : State := match s.node id with
  | none => s
  | some n => (s.modNode id fun n => { n with state := .ready }).modTower n.tower fun w =>
      { w with ready := w.ready ++ [(recPrio n.nrec, id)] }

/-- `yield`: the continuation is saved in its frame and its node re-queued (R254). -/
def State.yieldCtx (s : State) (r : CtxRef) : State :=
  let x := s.ctx r
  let im : Image := { core := r.core, q := r.q, ctx := x.yielded, kinds := (s.core r.core).segKind, cmds := [], mxq := [], drains := [], colls := [], msgs := [],
                      mx := none, yielded := true, time := s.time, key := s.key x.spec.tenant.toNat, bad := [] }
  ((s.modNode x.node fun n => { n with image := some im }).freeCtx r).requeue x.node

/-! Spawns and scopes (R245, R246, R266 to R268). -/

/-- Easel's answer to a spawn: the node id and acceptance (R245). -/
def Ctx.answerSpawn (x : Ctx) (d : BitVec 6) (pb : BitVec 3) (id : Nat) (ok : Bool) : Ctx :=
  (x.expect (.s d (BitVec.ofNat 64 id))).expect (.p pb ok)

/-- A spawn is handled: refused when its scope is not open, delayed while the pool is full (R245, R246). -/
def State.spawn (s : State) (r : CtxRef) (d : BitVec 6) (pb : BitVec 3) (rec_ : Rec64) : State :=
  let job := (s.ctx r).job
  let isOpen := match s.scope (s.homeOf job) (recScope rec_) with
    | some c => c.state == .opened
    | none => false
  if !isOpen then s.modCtx r fun x => x.answerSpawn d pb 0 false
  else if s.poolRoom (recTower rec_) then
    let (id, s1) := s.insertNode job rec_
    s1.modCtx r fun x => x.answerSpawn d pb id true
  else { s with spawnWait := s.spawnWait ++ [⟨r, (s.ctx r).node, job, d, pb, rec_, none⟩] }

/-- The ids free in a home tower's scope table (R265, R266). -/
def State.freeScopes (s : State) (home : Bool) : List Nat :=
  ((List.range 4096).drop 1).filter fun i => !s.scopes.any fun c => c.home == home && c.id == i

/-- `sopen`: a child of the context's scope, its id a free choice of Easel's (R266, log 9, DESIGN CHOICE). -/
def State.sopen (s : State) (r : CtxRef) (d : BitVec 6) : State :=
  let x := s.ctx r
  let home := s.homeOf x.job
  let ans (s : State) (id : Nat) : State := s.modCtx r fun x => x.expect (.s d (BitVec.ofNat 64 id))
  match s.scope home x.spec.scope.toNat with
  | none => ans s 0
  | some p =>
    if p.state != .opened || decide (16 ≤ p.depth) then ans s 0
    else match s.freeScopes home with
    | [] => ans s 0
    | f :: fs =>
      let (n, s1) := s.draw
      let id := (f :: fs).getD (n % (f :: fs).length) f
      ans { s1 with scopes := s1.scopes ++ [⟨home, id, x.job, p.id, p.depth + 1, .opened, none, none⟩] } id

/-- Whether a scope has a live node or a child that is not free (R267). -/
def State.scopeBusy (s : State) (c : Scope) : Bool :=
  s.nodes.any (fun n => n.job == c.job && recScope n.nrec == c.id) ||
    s.scopes.any fun d => d.home == c.home && d.depth == c.depth + 1 && d.parent == c.id

/-- Frees a sealed scope that is not a root once nothing of it is left (R267). -/
def State.sweepScopes (s : State) : Nat → State
  | 0 => s
  | fuel + 1 => match s.scopes.find? fun c => c.state == .sealed && c.depth != 1 && !s.scopeBusy c with
    | none => s
    | some c => ({ s with scopes := s.scopes.filter fun d => !(d.home == c.home && d.id == c.id) }).sweepScopes fuel

/-- `sclose`, and SEAL (R267, R295): an open scope is sealed, a dead one freed. -/
def State.sclose (s : State) (home : Bool) (id : Nat) : State := match s.scope home id with
  | none => s
  | some c => match c.state with
    | .opened => s.modScope home id fun c => { c with state := .sealed }
    | .dead => if c.depth = 1 then s else { s with scopes := s.scopes.filter fun d => !(d.home == home && d.id == id) }
    | _ => s

/-! Barriers (R112, R260, R261). -/

/-- A barrier instance releases when, for every member core, a participant there has arrived, running or saved since: the first to
arrive on each core (R260, R315). `calling`: a `cbar`. -/
def State.barCheck (s : State) (t : Bool) (g : Nat) (sel : Ctx → Option (Nat × BitVec 3)) (calling : Bool) : State :=
  let ws := s.waiters t sel
  if (s.members t g).all fun c => ws.any fun w => w.core == c then
    (ws.filter fun w => w.rank ws == 0).foldl (fun a w => a.releaseWaiter w false calling) s
  else s

/-- A `gbar` instance of a group (R260). -/
def State.gbarCheck (s : State) (t : Bool) (g : Nat) : State := s.barCheck t g (gbarAt g) false

/-- The atelier contexts of a group (R125). -/
def State.atelierCtxs (s : State) (t : Bool) (g : Nat) : List CtxRef :=
  ((s.members t g).map fun c => [CtxRef.mk c false, CtxRef.mk c true]).flatten.filter fun r =>
    (s.ctx r).atelier == some g && (s.ctx r).status != .free

/-- A `cbar` instance of an atelier, whose participants are its atelier contexts (R112, R261). -/
def State.cbarCheck (s : State) (t : Bool) (g : Nat) : State := s.barCheck t g (cbarAt g) true

/-! Handlers (R57, R65). -/

/-- The loop step of R57 after a bundle at `pc`: the next bundle and the loop stack. -/
def loopStep (loops : List LoopEntry) (pc : BAddr) : BAddr × List LoopEntry := match loops with
  | [] => (pc + 1, [])
  | e :: es => if e.stop = pc then
      (if e.count = 1 then (pc + 1, es) else (e.start, { e with count := e.count - 1 } :: es))
    else (pc + 1, e :: es)

/-- `rti` (R65): TMASK and APEND are cleared, the next bundle is chosen, a stopped stream operation goes on in the
next cycle (R8), and the snapshot entries wait for the first resumed bundle: those that the trap captured with their tags, those
that a pre-emption in the handler captured, which were being put back, with what is left of them (R101; logs 17 and 34, DEDUCED). -/
def Ctx.rti (x : Ctx) (cycle : Nat) : Ctx :=
  let dly := bit x.spec.trappc 63
  let npc : BAddr := x.spec.trappc.extractLsb' 32 15
  let tpc : BAddr := x.spec.trappc.extractLsb' 0 15
  let y : Ctx := { x with
    spec := { x.spec with status := x.spec.status &&& ~~~ (0x208 : W64) }
    replay := true
    replayAt := none
    snap := x.snap.map fun e => { e with outer := false, tag := match x.replayAt with
      | some r => if e.outer then e.tag else r + e.tag - cycle
      | none => e.tag }
    stream := x.stream.map fun st => { st with stopped := false, next := max st.next (cycle + 1) } }
  if bit x.spec.trapinfo 11 then
    if dly then { y with pc := npc, npc := none, emul := 0 }
    else
      let (nx, ls) := loopStep x.loops tpc
      { y with pc := nx, npc := none, emul := 0, loops := ls }
  else { y with pc := tpc, npc := if dly then some npc else none, emul := x.spec.trapinfo.extractLsb' 16 8 }

/-- The resume state in the layout of TRAPPC (R61, R66). -/
def Ctx.resumeWord (x : Ctx) : W64 := match x.npc with
  | some t => at_ 64 63 1 ||| at_ 64 32 t.toNat ||| at_ 64 0 x.pc.toNat
  | none => at_ 64 0 x.pc.toNat

/-- `brk` under DBG: the context parks and Easel posts a debug stop (R66). -/
def State.brk (s : State) (r : CtxRef) : State :=
  let x := s.ctx r
  (s.setCtx r { x with status := .parked .brk }).postJob x.job
    { type := 0x04, scope := x.spec.scope.toNat, pay := ofDws 256 [BitVec.ofNat 64 x.node, x.resumeWord,
        at_ 64 0 r.core.val ||| at_ 64 9 (if r.q then 1 else 0), 0] }

/-! Memory of the issuing core. -/

/-- A store by slot 4: the scratchpad, or the control memory of a control core (R73, R298). -/
def State.store (s : State) (c : CoreRef) (off : Nat) (bs : List Byte) : State :=
  if isCtl c then s.modTower (towerOf c) fun w => { w with ctlmem := putBytes w.ctlmem off bs }
  else s.modCore c fun k => { k with mem := k.mem.put off bs }

/-- The context takes the next command sequence number (R219). -/
def Ctx.nextSeq (x : Ctx) : Ctx := { x with cmdSeq := x.cmdSeq + 1 }

/-- SEGATTR with the fields of owned segments replaced (R90). -/
def mergeKinds (own : BitVec 32) (v old : W64) : W64 :=
  (List.range 32).foldl (fun acc i =>
    if own.getLsbD i then setBit (setBit acc (2 * i) (v.getLsbD (2 * i))) (2 * i + 1) (v.getLsbD (2 * i + 1)) else acc) old

/-- A special register written by `mts`: into FFLAGS the flags that land in the same cycle are ORed (R171); SEGATTR is held with the core's segments (R62, R90). -/
def State.writeSpec (s : State) (r : CtxRef) (n : BitVec 12) (v : W64) : State := match n.toNat with
  | 0x000 => s.modCtx r fun x => { x with spec.status := (x.spec.status &&& ~~~ (7 : W64)) ||| (v &&& 7) }
  | 0x001 => s.modCtx r fun x => { x with
      spec.fflags := (v &&& 0x1F) ||| (if x.flagsAt = s.cycle then x.flagsNow.zeroExtend 64 else 0) }
  | 0x002 => s.modCtx r fun x => { x with spec.trapinfo := (x.spec.trapinfo &&& ~~~ (0xFF0800 : W64)) ||| (v &&& 0xFF0800) }
  | 0x004 => s.modCtx r fun x => { x with spec.trapvec := v }
  | 0x010 => s.modCtx r fun x => { x with spec.vlive := v }
  | 0x011 => s.modCore r.core fun k => { k with segKind := mergeKinds (s.ctx r).spec.segown v k.segKind }
  | 0x040 => s.modCtx r fun x => { x with spec.rngseed := v }
  | 0x041 => s.modCtx r fun x => { x with spec.rngctr := v }
  | 0x050 => s.modCtx r fun x => { x with spec.arbw := v &&& 0xFFFF }
  | _ => s

/-- The bytes that slot 4 reads from a core's scratchpad, or from a control core's control memory (R73, R298). -/
def State.localBytes (s : State) (c : CoreRef) (a len : Nat) : List Byte :=
  if isCtl c then bytesOf (s.tower (towerOf c)).ctlmem a len else (s.core c).mem.loads a len

/-- A result of a fixed latency is in flight: its register is empty until it lands (R25). -/
def State.startResult (s : State) (r : CtxRef) (v : RVal) (flags : BitVec 5) (lat : Nat) : State :=
  s.modCtx r fun x => { (x.mark v.reg false) with inflight := x.inflight ++ [⟨v, flags, some (s.cycle + lat), false, 0, []⟩] }

/-- A local atomic takes effect as one event: the old value is read and the new one written, and what waits re-tests (R88,
R257). -/
def State.atomic4 (s : State) (r : CtxRef) (size : Nat) (op : BitVec 2) (off : Nat) (v expect : W64) (d : BitVec 6) : State :=
  let old : W64 := BitVec.ofNat 64 (leNat (s.localBytes r.core off size))
  let bs := match atomicNew op old v expect with
    | some w => leBytes size w.toNat
    | none => []
  ((s.store r.core off bs).startResult r (.s d old) 0 8).retestCore r.core

/-- `vtake` takes effect as one event in each sector: the bytes are read, fill among them sets VAC, and they are vacated (R73, R84,
R89). -/
def State.take4 (s : State) (r : CtxRef) (off : Nat) (d : BitVec 6) : State :=
  let fill := !isCtl r.core && (s.core r.core).anyFill [(off, 256)]
  let s1 := s.startResult r (.v d (bytesVec (s.localBytes r.core off 256))) 0 7
  let s2 := if fill then s1.modCtx r fun x => x.orStatus stVac else s1
  s2.modCore r.core fun k => { k with mem := k.mem.vacate off 256 }

/-- A range vacated by `vac`, which finds the uncorrectable words of those partly vacated (R70, R85). -/
def State.vacates (s : State) (r : CtxRef) (off len : Nat) : State :=
  let x := s.ctx r
  (s.coreFound r.core 0x01 0 x.job x.spec.tenant.toNat x.spec.scope.toNat ((s.core r.core).mem.foundWrite off len)).modCore r.core
    fun k => { k with mem := k.mem.vac off len }

/-- A matrix command enters the queue; an `mmq`'s operand sectors come under a hold (R152, R191, R197). -/
def State.queueMx (s : State) (k : Core) (c : MxCmd) : Core :=
  let secs := match c.op with
    | .mmq _ _ _ _ => runSectors (viewRuns s.mx6 c.a ++ viewRuns s.mx6 c.b)
    | .mzero => []
  { k with mx := { k.mx with queue := k.mx.queue ++ [c] }, holds := k.holds ++ secs.map (·, c.id) }

/-- The size in bytes of an element of a stored format. -/
def fmtSize (f : Nat) : Nat := fmtBits true f / 8

/-- The runs of a bias row (R205). -/
def biasRuns (v : Rec64) : List Run := [Run.mk (vwBase v) (128 * fmtSize (palFmt v)) 0 0 0 (8 * fmtSize (palFmt v)) false]

/-- The runs of a drain's bias. -/
def Drain.biasRuns (d : Drain) : List Run := match d.bias with
  | some v => Sys2Proof.Machine.biasRuns v
  | none => []

/-- A drain enters the epilogue engine's queue; its destination sectors become pending, its bias's held (R153, R205). -/
def State.queueDrain (s : State) (k : Core) (d : Drain) : Core :=
  { k with
    mx := { k.mx with drains := k.mx.drains ++ [{ d with after := (k.mx.queue.filter fun m => m.acc == d.acc).map (·.id) }] }
    pend := k.pend ++ (runSectors (viewRuns s.mx6 d.dst)).map (·, d.id)
    holds := k.holds ++ (runSectors d.biasRuns).map (·, d.id) }

/-- A slot 5 operation sets out: it is outstanding and numbered; a write to another member ends a core-scope release,
and a read from another member, an atomic's among them, is remembered (R128, R129, R145; log 41). -/
def Ctx.sendS5 (x : Ctx) (c : CoreRef) (op : S5Op) (ps : List Piece) : Ctx :=
  let far := ps.any fun p => p.target != c
  let y := { x with s5 := x.s5 ++ [op], s5Seq := x.s5Seq + 1, readFar := x.readFar || (far && op.kind.lands) }
  if far && op.kind.writes && x.relZero then ({ y with relZero := false } : Ctx).orStatus stScx else y

/-- The class of a collective among a ring's instances: 0 for kinds 0 to 3, 1 send, 2 receive (R280). -/
def collClass (desc : Rec64) : Nat := if clKind desc = 4 then 1 else if clKind desc = 5 then 2 else 0

/-- A collective is issued: it takes the next instance number of its ring and class (R212, R279, R280). -/
def State.queueColl (s : State) (r : CtxRef) (c : CollCmd) : State :=
  let t := towerOf r.core
  let key := 4 * clRing c.desc + collClass c.desc
  let n := tabGet 0 (s.tower t).instances key
  let s1 := (s.modCtx r Ctx.nextSeq).modTower t fun w => { w with instances := tabSet 0 w.instances key (n + 1) }
  ({ s1 with colls := s.colls ++ [{ c with id := s.nextId, inst := n }], nextId := s.nextId + 1 } : State).testColls r.core

/-- A slot of the bundle takes effect (R29). -/
def State.apply (s : State) (r : CtxRef) (e : Effect) : State :=
  match e with
  | .reg v => s.modCtx r fun x => x.write v
  | .launch v flags lat => s.startResult r v flags lat
  | .empty g => s.modCtx r fun x => x.mark g false
  | .status b => s.modCtx r fun x => x.orStatus b
  | .spec n v => s.writeSpec r n v
  | .branch _ => s
  | .loopPush _ => s
  | .loopPop => s
  | .jump _ => s
  | .store off bs => s.store r.core off bs
  | .amo size op off v expect d => s.atomic4 r size op off v expect d
  | .take off d => s.take4 r off d
  | .touch off len => if isCtl r.core then s else s.modCore r.core fun k => { k with mem := k.mem.correct off len }
  | .vacate off len => s.vacates r off len
  | .stream st => s.startStream r st
  | .banks b => s.modCore r.core fun k =>
      { k with banks := if k.bankCycle = s.cycle then k.banks ||| b else b, bankCycle := s.cycle }
  | .slot5 op ps => { (s.modCtx r fun x => x.sendS5 r.core op ps) with pieces := s.pieces ++ ps }
  | .palette id v => s.modCtx r fun x => { x with palette := tabSet 0 x.palette id v }
  | .bind => s.modCore r.core fun k => { k with mx := { k.mx with owner := some r.q } }
  | .cmd c => { (s.modCtx r Ctx.nextSeq) with cmds := s.cmds ++ [{ c with id := s.nextId }], nextId := s.nextId + 1 }
  | .mx c => { ((s.modCtx r Ctx.nextSeq).modCore r.core fun k => s.queueMx k { c with id := s.nextId }) with nextId := s.nextId + 1 }
  | .drain d => { ((s.modCtx r Ctx.nextSeq).modCore r.core fun k => s.queueDrain k { d with id := s.nextId }) with nextId := s.nextId + 1 }
  | .coll c => s.queueColl r c
  | .qpush m => { (s.modCtx r Ctx.nextSeq) with msgs := s.msgs ++ [{ m with id := s.nextId }], nextId := s.nextId + 1 }
  | .fretry tag => match s.heldCmd r tag with | some c => s.retryCmd c | none => s
  | .fskip tag => match s.heldCmd r tag with | some c => s.skipCmd c | none => s
  | .segGrant m => s.grant r m
  | .segRelease m => s.modCtx r fun x => { x with spec.segown := x.spec.segown &&& ~~~ m }
  | .yield => s.yieldCtx r
  | .retire => s.retire r
  | .park p => s.modCtx r fun x => { x with status := .parked p }
  | .clearFlag n => s.modCtx r fun x => { x with flagFile := setBit x.flagFile n.toNat false }
  | .fence wide rel =>
    s.modCtx r fun x => { x with
      relZero := (if wide then false else x.relZero || rel)
      readFar := (if wide then false else x.readFar)
      relHere := if rel then x.s5Seq else x.relHere
      relWide := if rel && wide then x.s5Seq else x.relWide }
  | .spawn d pb rec_ => s.spawn r d pb rec_
  | .sopen d => s.sopen r d
  | .sclose id => s.sclose (s.homeOf (s.ctx r).job) id
  | .cancel id ctr => s.killScope (s.homeOf (s.ctx r).job) (s.ctx r).job id r.core ctr (s.ctx r).spec.tenant.toNat
      (s.ctx r).spec.scope.toNat
  | .gbar g pd =>
    (s.modCtx r fun x =>
      { x with groups := setAdd x.groups g, status := .parked (.gbar g pd (2 * s.cycle + (if r.q then 1 else 0))) }).gbarCheck
      (towerOf r.core) g
  | .cbar pd => match (s.ctx r).atelier with
    | some g => (s.modCtx r fun x => { x with status := .parked (.cbar pd (2 * s.cycle + (if r.q then 1 else 0))) }).cbarCheck (towerOf r.core) g
    | none => s
  | .rti => s.modCtx r fun x => x.rti s.cycle
  | .brk => s.brk r
  | .ctl o => s.applyCtl r o

end Sys2Proof.Machine
end

