-- ==== Sys2Proof/Machine/Operands.lean ====
section
/-!
DEFINITION. The operands of a slot word: its guard, source and destination registers with their empty policies (R15 to
R18, R23, R26, R27), and its immediates (R21, R47, R76).
-/

namespace Sys2Proof

/-- The sign-extended 6-bit immediate in B (R47). -/
def G.simm (g : G) : W64 := g.b.signExtend 64
/-- The zero-extended 6-bit immediate in B (R47). -/
def G.uimm (g : G) : W64 := g.b.zeroExtend 64
/-- The sign-extended 12-bit immediate in A:B (R47). -/
def G.simm12 (g : G) : W64 := g.imm12.signExtend 64
/-- The predicate that D names. -/
def G.pd (g : G) : BitVec 3 := g.d.extractLsb' 0 3
/-- The predicate or mask that A names. -/
def G.pa (g : G) : BitVec 3 := g.a.extractLsb' 0 3
/-- The predicate or mask that B names. -/
def G.pb (g : G) : BitVec 3 := g.b.extractLsb' 0 3

namespace Machine

/-- The register that a 6-bit field names (R15, R18); none for an immediate or an unused field. -/
def FieldKind.reg (f : FieldKind) (x : BitVec 6) : Option Reg := match f with
  | .s => some (.s x)
  | .v => some (.v x)
  | .p => some (.p (x.extractLsb' 0 3))
  | .k => some (.k (x.extractLsb' 0 3))
  | _ => none

/-- The register that P names: a guard predicate (R16) or a lane mask (R17). -/
def Guard.reg (k : Guard) (p : BitVec 3) : Option Reg := match k with
  | .pred => some (.p p)
  | .mask => some (.k p)
  | .plain => none

/-- Source registers with their policy, true for trap: D follows EA (R15, R26). -/
def Shape.sources (h : Shape) (g : G) : List (Reg × Bool) :=
  (if h.dsrc then (h.d.reg g.d).toList.map (·, g.ea) else []) ++ (h.a.reg g.a).toList.map (·, g.ea) ++
    (if h.bdst then [] else (h.b.reg g.b).toList.map (·, g.eb))

/-- Destination registers. -/
def Shape.dests (h : Shape) (g : G) : List Reg :=
  (if h.ddst then (h.d.reg g.d).toList else []) ++ (if h.bdst then (h.b.reg g.b).toList else [])

/-- Whether an operation is enabled: the guard of R16; operations under a lane mask always are (R17). -/
def Guard.enabled (k : Guard) (x : Ctx) (n : Bool) (p : BitVec 3) : Bool := match k with
  | .pred => x.p p != n
  | _ => true

/-- The lanes that an operation of slots 2 and 3 governs, one bit for each 16-bit lane (R17). -/
def Ctx.lanes (x : Ctx) (g : G) : KMask := if g.n then ~~~ (x.k g.p) else x.k g.p

/-- Scalar source A. -/
def Ctx.sa (x : Ctx) (g : G) : W64 := x.s g.a
/-- Scalar source B. -/
def Ctx.sb (x : Ctx) (g : G) : W64 := x.s g.b
/-- Scalar source D. -/
def Ctx.sd (x : Ctx) (g : G) : W64 := x.s g.d
/-- Vector source A. -/
def Ctx.va (x : Ctx) (g : G) : Vec := x.v g.a
/-- Vector source B. -/
def Ctx.vb (x : Ctx) (g : G) : Vec := x.v g.b
/-- Vector source or old destination D. -/
def Ctx.vd (x : Ctx) (g : G) : Vec := x.v g.d

/-- A register read as 64 bits for TRAPOPA and TRAPOPB of EXTOP: a scalar, or the low half of a vector (R45). -/
def Ctx.low64 (x : Ctx) : Reg → W64
  | .s i => x.s i
  | .v i => (x.v i).extractLsb' 0 64
  | .p i => if x.p i then 1 else 0
  | .k i => (x.k i).extractLsb' 0 64

end Machine

end Sys2Proof
end

