-- ==== Sys2Proof/Machine/Ops.lean ====
section
/-!
DEFINITION. Issue: evaluating a slot word against the state before its bundle (R16 to R18, R25 to R28), closing a
bundle: waits, traps, commit (R28 to R30, R54 to R57, R99), taking an exception (R64, R95, R97, R100).
-/

namespace Sys2Proof.Machine

/-- What the checks and evaluation of an enabled operation come to (R28, step 3); `waitHeld` waits for nothing but results that
the snapshot buffer holds (R101). -/
inductive Res where
  | ok (effs : List Effect) (draws : Nat)
  | wait
  | waitHeld
  | park (p : Park)
  | trap (f : SlotFault)
deriving DecidableEq, Repr

/-- Effects without generator words. -/
def done (effs : List Effect) : Res := .ok effs 0

/-- A result at its latency: written at commit, or marked empty and in flight (R25). -/
def result (v : RVal) (flags : BitVec 5) (lat : Nat) : Effect := if lat = 1 then .reg v else .launch v flags lat

/-! Evaluating a slot word. -/

/-- Whether a register's result is in the snapshot buffer (R100). -/
def Ctx.inSnap (x : Ctx) (g : Reg) : Bool := x.snap.any fun e => e.val.reg == g

/-- Whether a handler's wait on a register raises EMPTY: a captured result or a stopped stream operation's
destination (R100). -/
def Ctx.barred (x : Ctx) (g : Reg) : Bool :=
  x.snap.any (fun e => e.outer && e.val.reg == g) ||
    match x.stream with
    | some st => st.stopped && Reg.s st.dreg == g
    | none => false

/-- The empty registers that an enabled operation waits on (R26, R27). -/
def Shape.blockers (h : Shape) (g : G) (x : Ctx) : List Reg :=
  (((h.sources g).filter fun t => !t.2).map (·.1) ++ h.dests g).filter fun r => !x.isFull r

/-- Whether a trap-policy source is empty (R26). -/
def Shape.starved (h : Shape) (g : G) (x : Ctx) : Bool := (h.sources g).any fun t => t.2 && !x.isFull t.1

/-- A record of a slot that does nothing. -/
def SlotRec.idle (slot : Nat) (word : SlotWord) : SlotRec :=
  ⟨slot, word, false, false, false, 0, none, none, [], [], 0⟩

/-- The record of a slot that waits on registers: for results in the snapshot buffer only, and EMPTY in a handler
(R26, R100, R101). -/
def Ctx.waitRec (x : Ctx) (slot : Nat) (word : SlotWord) (rs : List Reg) : SlotRec :=
  if x.tmask && rs.any x.barred then
    { SlotRec.idle slot word with waitHeld := true, fault := some (trap 0x03) }
  else if rs.all x.inSnap then { SlotRec.idle slot word with waitHeld := true }
  else { SlotRec.idle slot word with wait := true }

/-- A slot word with its source and destination registers evaluated: guard, waits, those that its own rules name among them, EMPTY,
then its own checks and effects (R16, R17, R26 to R28). `fixed`: whether an enabled operation has a fixed latency above 1 (R99). -/
def Ctx.evalWith (x : Ctx) (slot : Nat) (word : SlotWord) (guard : Option Reg) (on : Bool) (blockers : List Reg)
    (starved fixed : Bool) (dests : List Reg) (body : Res) : SlotRec :=
  let held := guard.toList.filter fun r => !x.isFull r
  if !held.isEmpty then x.waitRec slot word held
  else if !on then SlotRec.idle slot word
  else if !blockers.isEmpty then x.waitRec slot word blockers
  else
    let base := { SlotRec.idle slot word with fixed := if fixed then 1 else 0, dests := dests.filter fun r => !r.zero }
    match body with
    | .wait => { SlotRec.idle slot word with wait := true }
    | .waitHeld => { SlotRec.idle slot word with waitHeld := true }
    | .park p => if starved then { base with fault := some (trap 0x03) } else { base with parks := some p }
    | .trap f => { base with fault := some (if starved then trap 0x03 else f) }
    | .ok effs draws => if starved then { base with fault := some (trap 0x03) } else { base with effs := effs, draws := draws }

/-- A general slot word evaluated under its shape. -/
def Shape.eval (h : Shape) (x : Ctx) (slot : Nat) (word : SlotWord) (g : G) (fixed : Bool) (body : Res) : SlotRec :=
  x.evalWith slot word (h.guard.reg g.p) (h.guard.enabled x g.n g.p) (h.blockers g x) (h.starved g x) fixed (h.dests g) body

/-- EXTOP with its captured operands (R44, R45). -/
def Shape.extop (h : Shape) (x : Ctx) (g : G) : Res :=
  let val (f : FieldKind) (i : BitVec 6) : W64 := match f.reg i with
    | some r => x.low64 r
    | none => 0
  .trap ⟨0x02, val h.a g.a, val h.b g.b, []⟩

/-! Taking an exception (R29, R64, R95, R97, R100). -/

/-- What trap entry writes: code, slot, fault mask, slot word, SKIP, EMUL, ASYNC, TRAPOPA, TRAPOPB. -/
structure TrapWords where
  code : BitVec 8
  slot : Nat := 0
  mask : W64 := 0
  sword : SlotWord := 0
  skip : Bool := false
  emul : BitVec 8 := 0
  async : Bool := false
  opa : W64 := 0
  opb : W64 := 0
deriving DecidableEq, Repr

/-- TRAPINFO at entry (R61). -/
def TrapWords.info (t : TrapWords) : W64 :=
  t.sword ++ (0 : BitVec 8) ++ t.emul ++ (0 : BitVec 3) ++ BitVec.ofBool t.async ++ BitVec.ofBool t.skip ++
    BitVec.ofNat 3 t.slot ++ t.code

/-- TRAPPC at entry (R56, R61). -/
def Ctx.trapPc (x : Ctx) : W64 := match x.npc with
  | some t => (1 : BitVec 1) ++ (0 : BitVec 16) ++ t ++ (0 : BitVec 17) ++ x.pc
  | none => (0 : BitVec 49) ++ x.pc

/-- The fixed-latency results not yet landed, as the snapshot buffer takes them at a cycle (R100). -/
def captures (fl : List InFlight) (cycle : Nat) (outer : Bool) : List SnapEntry :=
  fl.filterMap fun e => match e.due with
    | some d => some ⟨e.val, e.flags, d - cycle, outer, e.copyTo, e.copy⟩
    | none => none

/-- Entries kept at a later trap: their tags count from the first resumed bundle (R101). -/
def retag (snap : List SnapEntry) (replayAt : Option Nat) (cycle : Nat) (outer : Bool) : List SnapEntry :=
  match replayAt with
  | some r => snap.map fun e => { e with tag := r + e.tag - cycle, outer := outer }
  | none => snap.map fun e => { e with outer := outer }

/-- The context as a handler finds it; APEND tells of asynchronous traps that are now held (R59, R64, R95, R97, R100). -/
def Ctx.enter (x : Ctx) (t : TrapWords) (cycle : Nat) : Ctx :=
  { x with
    spec := { x.spec with
      status := x.spec.status ||| 8 ||| (if x.asyncQ.isEmpty then 0 else stApend)
      trapinfo := t.info
      trappc := x.trapPc
      faultmask := t.mask
      trapopa := t.opa
      trapopb := t.opb }
    pc := x.spec.trapvec.extractLsb' 0 15
    npc := none
    emul := 0
    inflight := x.inflight.filter fun e => e.due.isNone
    snap := retag x.snap x.replayAt cycle true ++ captures x.inflight cycle true
    replay := false
    replayAt := none
    stream := x.stream.map fun st => { st with stopped := true }
    notBefore := cycle + 4 }

/-- A control core stops: what the snapshot buffer holds was performed before and lands all the same, at its distance from now (R299). -/
def Ctx.halt (x : Ctx) (cycle : Nat) : Ctx :=
  { x with
    status := .stopped
    snap := []
    inflight := x.inflight ++ x.snap.map fun e => ⟨e.val, e.flags, some (cycle + e.tag), false, e.copyTo, e.copy⟩ }

/-- A double trap stops the context; the node's scope is killed and reported (R64, R107). -/
def State.doubleTrap (s : State) (r : CtxRef) (code : BitVec 8) : State :=
  let x := s.ctx r
  let s1 := s.modCtx r fun x => if isCtl r.core then x.halt s.cycle else { x with status := .stopped }
  if isCtl r.core then s1
  else
    let s2 := s1.modJob x.job fun j => { j with counts.doubles := j.counts.doubles + 1 }
    let s3 := s2.killScope (s.homeOf x.job) x.job x.spec.scope.toNat r.core 0 x.spec.tenant.toNat
    s3.report x.job { core := r.core.val, code := code.toNat, cause := 0x10, space := 4, tenant := x.spec.tenant.toNat,
                      scope := x.spec.scope.toNat, base := x.pc.toNat }

/-- A precise trap of a context: entry to the handler, or a double trap (R64, R95). -/
def State.takeTrap (s : State) (r : CtxRef) (t : TrapWords) : State :=
  if (s.ctx r).tmask then s.doubleTrap r t.code else s.modCtx r fun x => x.enter t s.cycle

/-- Asynchronous entry: the oldest pending trap is taken at a bundle boundary (R96, R97). -/
def State.takeAsync (s : State) (r : CtxRef) : State := match (s.ctx r).asyncQ with
  | [] => s
  | t :: ts => s.modCtx r fun x =>
      { x with asyncQ := ts }.enter { code := t.code, emul := x.emul, async := true, opa := t.opa, opb := t.opb } s.cycle

/-! Closing a bundle. -/

/-- What a staged bundle comes to (R28). -/
inductive Verdict where
  | wait
  | waitHeld
  | park (p : Park)
  | trap (faults : List (SlotRec × SlotFault))
  | commit
deriving DecidableEq, Repr

/-- Slots whose destinations another slot names too (R30). -/
def clashing (recs : List SlotRec) : List SlotRec :=
  recs.filter fun a => recs.any fun b => a.slot != b.slot && a.dests.any fun d => b.dests.contains d

/-- The faults of a bundle with its clashing slots as ILLOP (R28 to R30). -/
def faultsOf (recs : List SlotRec) : List (SlotRec × SlotFault) :=
  recs.filterMap fun a =>
    if (clashing recs).any (·.slot == a.slot) then some (a, trap 0x01) else a.fault.map (a, ·)

/-- How many fixed-latency results of a context are in flight (R99). -/
def Ctx.flying (x : Ctx) : Nat := (x.inflight.filter fun e => e.due.isSome).length

/-- How many fixed-latency results a context has outstanding (R99). -/
def Ctx.outstanding (x : Ctx) : Nat := x.flying + x.snap.length

/-- The verdict on staged slots: R28's steps, R99's limit and R30's destinations. A bundle that R99's limit makes wait although
its results and those in flight would fit waits for held results only (R101). -/
def verdictOf (x : Ctx) (recs : List SlotRec) : Verdict :=
  let bad := recs.filter (·.illop)
  if !bad.isEmpty then .trap (bad.map (·, trap 0x01))
  else if recs.any (fun r => r.waitHeld && r.fault.isSome) then
    .trap (recs.filterMap fun r => if r.waitHeld then r.fault.map (r, ·) else none)
  else if recs.any (·.wait) then .wait
  else if recs.any (·.waitHeld) then .waitHeld
  else if decide (48 < x.outstanding + (recs.map (·.fixed)).sum ∧ 0 < (recs.map (·.fixed)).sum) then
    if 48 < x.flying + (recs.map (·.fixed)).sum then .wait else .waitHeld
  else match recs.findSome? (·.parks) with
  | some p => .park p
  | none =>
    let fs := faultsOf recs
    if fs.isEmpty then .commit else .trap fs

/-- Codes whose entry keeps the slot word: ILLOP, EXTOP, SWTRAP (R61). -/
def keepsWord (code : BitVec 8) : Bool := code == 0x01 || code == 0x02 || code == 0x30

/-- The trap words of a faulting bundle: the lowest slot's code (R29, R45, R63). EMUL is 0, that of ILLOP and EXTOP, whatever the code:
for another trap of a bundle re-executed under EMUL no rule gives it (R61, R97; log 71, DESIGN CHOICE). -/
def trapWordsOf (fs : List (SlotRec × SlotFault)) : TrapWords :=
  let mask := fs.foldl (fun acc f => acc ||| BitVec.twoPow 64 f.1.slot) (0 : W64)
  match fs with
  | [] => { code := 0 }
  | f :: rest =>
    let (r, t) := rest.foldl (fun best g => if g.1.slot < best.1.slot then g else best) f
    { code := t.code, slot := r.slot, mask := mask, sword := if keepsWord t.code then r.word else 0,
      skip := t.code == 0x30, opa := t.opa, opb := t.opb }

/-- The bundle is cancelled with a precise trap; uncorrectable words that its reads found are poisoned and reported
before the handler runs (R10, R29, R106). -/
def State.trapBundle (s : State) (r : CtxRef) (fs : List (SlotRec × SlotFault)) : State :=
  let x := s.ctx r
  let s1 := s.coreFound r.core 0x01 0x08 x.job x.spec.tenant.toNat x.spec.scope.toNat (fs.map (·.2.found)).flatten
  s1.takeTrap r (trapWordsOf fs)

/-- The next bundle when a bundle with these effects commits (R54 to R57). -/
def Ctx.advance (x : Ctx) (effs : List Effect) : Ctx :=
  match x.npc with
  | some t => { x with pc := t, npc := none }
  | none =>
    match effs.findSome? flow with
    | some (.branch t) => { x with pc := x.pc + 1, npc := some t }
    | some (.jump t) => { x with pc := t }
    | some (.loopPush e) => { x with pc := x.pc + 1, loops := e :: x.loops }
    | some .loopPop =>
      let (nx, ls) := loopStep x.loops.tail x.pc
      { x with pc := nx, loops := ls }
    | _ =>
      let (nx, ls) := loopStep x.loops x.pc
      { x with pc := nx, loops := ls }
where
  /-- An effect that chooses the next bundle. -/
  flow (e : Effect) : Option Effect := match e with
    | .branch t => some (.branch t)
    | .jump t => some (.jump t)
    | .loopPush l => some (.loopPush l)
    | .loopPop => some .loopPop
    | _ => none

/-- A context at the first bundle after `rti`: the snapshot entries count from this cycle (R101). -/
def Ctx.resumeAt (x : Ctx) (cycle : Nat) : Ctx :=
  if x.replay && x.replayAt.isNone then { x with replayAt := some cycle } else x

/-- Effects that end or suspend the context, made after the bundle's others. -/
def Effect.leaves : Effect → Bool
  | .yield => true
  | .retire => true
  | .park _ => true
  | .gbar _ _ => true
  | .cbar _ => true
  | .brk => true
  | _ => false

/-- The range of the own scratchpad that a slot 4 effect writes. -/
def Effect.writeRange : Effect → Option (Nat × Nat)
  | .store off bs => some (off, bs.length)
  | .amo size _ off _ _ _ => some (off, size)
  | .take off _ => some (off, 256)
  | .vacate off len => some (off, len)
  | _ => none

/-- Whether an effect writes to the own scratchpad at commit. -/
def Effect.writes4 (e : Effect) : Bool := e.writeRange.isSome

/-- The number of the slot 5 read of a bundle, if it has one. -/
def bundleRead (effs : List Effect) : Option Nat := effs.findSome? fun e => match e with
  | .slot5 op _ => if op.kind.lands && !op.kind.writes then some op.seq else none
  | _ => none

/-- The slot 4 writes of a bundle take effect after the slot 5 read of the same bundle (R30, R135, R136); earlier bundles' pieces
have come before them when slot 4 was evaluated. -/
def State.beforeWrites (s : State) (r : CtxRef) (effs : List Effect) : State :=
  let rs := (effs.filterMap Effect.writeRange).filter fun x => x.2 != 0
  if isCtl r.core || rs.isEmpty || (bundleRead effs).isNone then s
  else s.before r { ranges := rs.map fun x => (r.core, x.1, x.2), writes := true, bundle := bundleRead effs }

/-- A bundle with these effects commits: generator words are taken, the next bundle is chosen, and the effects are
made in slot order, slot 4's writes after the bundle's reads, the context leaving last (R29, R30, R53, R135). An `mts STATUS` of slot 0
writes first, and VAC or SCX of the bundle's slots 4 and 5 is ORed in after it (R59; log 70, DESIGN CHOICE). -/
def State.commit (s : State) (r : CtxRef) (effs : List Effect) (draws : Nat) : State :=
  let s1 := s.modCtx r fun x =>
    let y := (x.resumeAt s.cycle).advance effs
    { y with emul := 0, spec := { y.spec with rngctr := y.spec.rngctr + BitVec.ofNat 64 draws } }
  let s2 := (effs.filter fun e => !e.leaves && !e.writes4).foldl (fun a e => a.apply r e) s1
  (effs.filter Effect.writes4 ++ effs.filter Effect.leaves).foldl (fun a e => a.apply r e) (s2.beforeWrites r effs)

/-- A bundle's verdict carried out. -/
def State.carry (s : State) (r : CtxRef) (recs : List SlotRec) : Verdict → State
  | .wait => s
  | .waitHeld => s.modCtx r fun x => x.resumeAt s.cycle
  | .park p => s.modCtx r fun x => { x with status := .parked p }
  | .trap fs => s.trapBundle r fs
  | .commit => s.commit r (recs.map (·.effs)).flatten (recs.map (·.draws)).sum

/-- A closed issue. -/
def Issue.closed : Issue := ⟨false, 0, []⟩

/-- The bundle in issue of the context being stepped is closed. -/
def State.closeBundle (s : State) : State :=
  ({ s with issue := Issue.closed } : State).carry s.cur s.issue.recs (verdictOf (s.ctx s.cur) s.issue.recs)

/-! Staging. -/

/-- The slot in which a map's words stand when no bundle is open. -/
def SlotMap.slot : SlotMap → Nat
  | .s => 1 | .v => 2 | .l => 4 | .n => 5 | .t => 6 | .k => 6 | _ => 0

/-- The slot being evaluated. -/
def State.slotNo (s : State) (m : SlotMap) : Nat := if s.issue.opened then s.issue.slot else m.slot

/-- Generator words that the earlier slots of the bundle take (R53). -/
def State.drawn (s : State) : Nat := if s.issue.opened then (s.issue.recs.map (·.draws)).sum else 0

/-- A slot's record joins the bundle in issue; with none open it is a bundle of its own, closed at once. -/
def State.stage (s : State) (a : SlotRec) : State :=
  if s.issue.opened then { s with issue := { s.issue with recs := s.issue.recs ++ [a] } }
  else ({ s with issue := ⟨false, 0, [a]⟩ } : State).closeBundle

/-- The outcome of every slot word: the state with the word staged. -/
abbrev Out := Host.Outcome State Fault Refusal

/-- A general slot word of an opcode is executed: `fixed` is whether its latency is fixed and above 1, `body` its
checks and effects in the context before the bundle. -/
def State.slotOp (s : State) (m : SlotMap) (op : BitVec 8) (h : Shape) (g : G) (fixed : Bool) (body : Ctx → Res) : Out :=
  .next (s.stage (h.eval (s.ctx s.cur) (s.slotNo m) (wordOf op g) g fixed (body (s.ctx s.cur))))
where
  /-- The word of general fields under an opcode (R15). -/
  wordOf (op : BitVec 8) (g : G) : SlotWord :=
    BitVec.ofBool g.n ++ g.p ++ op ++ BitVec.ofBool g.ea ++ BitVec.ofBool g.eb ++ g.d ++ g.a ++ g.b

/-- An engine command as its image gives it: the slot word, and the scalar registers that its A, B and D name (R316). -/
def Shape.issued (h : Shape) (op : BitVec 8) (x : Ctx) (g : G) : Issued :=
  let v (f : FieldKind) (i : BitVec 6) : W64 := if f.reg i = some (.s i) then x.s i else 0
  ⟨State.slotOp.wordOf op g, v h.a g.a, v h.b g.b, v h.d g.d⟩

/-- A word that is no instruction raises ILLOP (R42). -/
def State.slotIllop (s : State) (word : SlotWord) : Out :=
  .next (s.stage { SlotRec.idle (s.slotNo .any) word with illop := true })

/-- Whether the bundle at issue is the delay bundle of a taken branch, where some operations raise ILLOP (R55). -/
def Ctx.inDelay (x : Ctx) : Bool := x.npc.isSome

/-- Whether the bundle stands at the end address of the innermost loop (R55). -/
def Ctx.atLoopEnd (x : Ctx) : Bool := match x.loops with
  | [] => false
  | e :: _ => e.stop == x.pc

end Sys2Proof.Machine
end

