-- ==== Sys2Proof/Machine/Engine.lean ====
section
/-!
DEFINITION. Commands of slot 6 to the copy engines, the Canvas block store, the collective engines and the host (R211, R214 to
R216, R219 to R222, R227, R228, R237 to R242, R279, R296) and the events of copy engine commands.
-/

namespace Sys2Proof.Machine

/-! Checks at issue. -/

/-- Whether two views have the same rows, columns and batches. -/
def sameShape (a b : Rec64) : Bool := vwRows a == vwRows b && vwCols a == vwCols b && vwBatch a == vwBatch b

/-- Whether the extents of two views overlap (R221). -/
def extentsMeet (mx6 : Bool) (a b : Rec64) : Bool :=
  vwSpace a == vwSpace b && runsMeet (viewRuns mx6 a) (viewRuns mx6 b)

/-- The checks of a transfer in order (R215, R221). -/
def State.xferCheck (s : State) (x : Ctx) (mv : Bool) (ids ctr : W64) : Except SlotFault Ctr :=
  let v := x.entry (fld ids 7 0)
  let d := x.entry (fld ids 15 8)
  let k := s.core s.cur.core
  match counterOf x ctr with
  | none => .error (trap 0x06)
  | some c =>
    if fld ids 63 16 ≠ 0 ∨ palKind v ≠ 1 ∨ palKind d ≠ 1 ∨ !sameShape v d ∨ !spaceOk s.mx6 x v ∨ !spaceOk s.mx6 x d ∨
        (mv && extentsMeet s.mx6 v d) then .error (trap 0x06)
    else if palFmt v ≠ palFmt d ∨ fmtBits s.mx6 (palFmt v) = 0 then .error (trap 0x0F)
    else if mv && !(viewAligned s.mx6 v && viewAligned s.mx6 d) then .error (trap 0x05)
    else match (devFault s.mx6 v).or (devFault s.mx6 d) with
    | some f => .error f
    | none => if destOccupied s.mx6 k d || (mv && sourceBusy s.mx6 k v) then .error (trap 0x10) else .ok c

/-- The checks of `fill` in order (R222). -/
def State.fillCheck (s : State) (x : Ctx) (d : BitVec 6) (a ctr : W64) : Except SlotFault Ctr :=
  let v := x.entry (fld a 7 0)
  let k := s.core s.cur.core
  match counterOf x ctr with
  | none => .error (trap 0x06)
  | some c =>
    if fld a 63 9 ≠ 0 ∨ palKind v ≠ 1 ∨ (bit a 8 && d != 0) ∨ !spaceOk s.mx6 x v then .error (trap 0x06)
    else if isMx (palFmt v) ∨ fmtBits s.mx6 (palFmt v) = 0 then .error (trap 0x0F)
    else match devFault s.mx6 v with
    | some f => .error f
    | none => if (if bit a 8 then sourceBusy s.mx6 k v else destOccupied s.mx6 k v) then .error (trap 0x10) else .ok c

/-- The checks of `ctradd` (R214, R255): the counter it adds to, which need not be owned. -/
def State.ctraddCheck (s : State) (a : W64) : Except SlotFault Ctr :=
  let m := (s.core s.cur.core).mem
  if bit a 63 then (if fld a 62 6 = 0 then .ok (.flag (a.extractLsb' 0 6)) else .error (trap 0x06))
  else if a.toNat % 8 ≠ 0 then .error (trap 0x05)
  else if 0x7FFFF8 < a.toNat then .error (trap 0x06)
  else if m.poisoned a.toNat then .error (trap 0x08)
  else if (List.range 8).any fun i => !m.has (a.toNat + i) then .error (trap 0x07)
  else .ok (.mem a.toNat)

/-! Commands. -/

/-- A command of the context being stepped, before its commit (R184, R219). -/
def State.newCmd (s : State) (x : Ctx) (u : Issued) (op : CmdOp) (src dst : Nat) (ctr : Ctr) (fill : W64) : Cmd :=
  { id := 0, ctx := some s.cur, node := x.node, job := x.job, scope := x.spec.scope.toNat, tenant := x.spec.tenant.toNat
    core := s.cur.core, tag := x.cmdSeq, issued := u, op := op, srcId := src, dstId := dst, src := x.entry src, dst := x.entry dst, ctr := ctr
    fill := fill, state := .queued, pos := 0, shadow := [], shPois := [], claims := [], frames := [], vacPages := [], readPages := [], found := none, killed := false }

/-- A command of the copy engine's queue: it waits while the queue is full (R219). -/
def State.engineOp (s : State) (op : BitVec 8) (h : Shape) (g : G) (body : Ctx → Res) : Out :=
  s.slotOp .t op h g false fun x => if !s.engineRoom s.cur.core then .wait else body x

/-- A transfer (R215, R221). -/
def State.xfer (s : State) (opc : BitVec 8) (h : Shape) (g : G) (op : CmdOp) : Out :=
  s.engineOp opc h g fun x =>
    let ids := x.sa g
    match s.xferCheck x op.vacates ids (x.sb g) with
    | .error f => .trap f
    | .ok c => done [.cmd (s.newCmd x (h.issued opc x g) op (fld ids 7 0) (fld ids 15 8) c 0)]

/-- `pub` and `dsc`: RANGE where no unpublished transfer into the id is outstanding (R216, R228). -/
def State.settleOp (s : State) (opc : BitVec 8) (h : Shape) (g : G) (op : CmdOp) : Out :=
  s.engineOp opc h g fun x =>
    let id := (x.sa g).toNat
    match counterOf x (x.sb g) with
    | none => .trap (trap 0x06)
    | some c =>
      if 256 ≤ id || (s.npInto (some s.cur) x.node s.nextId id).isEmpty then .trap (trap 0x06)
      else done [.cmd (s.newCmd x (h.issued opc x g) op id id c 0)]

/-- `fretry` and `fskip`: RANGE where no held command has the tag; neither waits (R227). -/
def State.heldOp (s : State) (opc : BitVec 8) (h : Shape) (g : G) (e : Nat → Effect) : Out :=
  s.slotOp .t opc h g false fun x =>
    let tag := (x.sa g).toNat
    if 4096 ≤ tag || (s.heldCmd s.cur tag).isNone then .trap (trap 0x06) else done [e tag]

/-- Whether the tower of the context has a block store (R43, R236). -/
def State.hasCanvas (s : State) : Bool := (s.tower (towerOf s.cur.core)).canvB != 0

/-- An operation on Canvas names: EXTOP without a block store, RANGE for a bit above [55] (R44, R239). -/
def State.canvasOp (s : State) (opc : BitVec 8) (h : Shape) (g : G) (names : Ctx → List W64) (effs : Ctx → List Effect) : Out :=
  s.slotOp .t opc h g false fun x =>
    if !s.hasCanvas then h.extop x g
    else if !s.engineRoom s.cur.core then .wait
    else if (names x).any fun n => decide (2 ^ 56 ≤ n.toNat) then .trap (trap 0x06)
    else done (effs x)

/-! Collectives and messages (R211, R279, R296). -/

/-- The ring entry of a group, if the group is a ring (R277). -/
def State.ring (s : State) (t : Bool) (id : Nat) : Option Rec64 :=
  let g := (s.tower t).group id
  if grpType g = 2 then some g else none

/-- The ring's size P (R277). -/
def ringSize (g : Rec64) : Nat := nfld (dw g 0).toNat 35 18 + 1
/-- This device's position (R277). -/
def ringPos (g : Rec64) : Nat := nfld (dw g 0).toNat 17 0
/-- LIST (R277). -/
def ringList (g : Rec64) : Nat := (dw g 1).toNat
/-- RXPORT (R277). -/
def ringRx (g : Rec64) : Nat := nfld (dw g 2).toNat 11 8
/-- TXPORT (R277). -/
def ringTx (g : Rec64) : Nat := nfld (dw g 2).toNat 3 0
/-- RINGID (R277). -/
def ringId (g : Rec64) : W64 := dw g 3

/-- PEER and OP of a descriptor as its kind demands (R279). -/
def peerOk (d g : Rec64) : Bool :=
  let P := ringSize g
  let p := ringPos g
  (match clKind d with
    | 3 => decide (clPeer d < P)
    | 4 => clPeer d == (p + 1) % P
    | 5 => clPeer d == (p + P - 1) % P
    | _ => clPeer d == 0) && (clKind d == 0 || clOp d == 0)

/-- Whether a bucket is a local view of one batch in owned bytes, its rows without gaps (R211). -/
def bucketOk (mx6 : Bool) (x : Ctx) (v : Rec64) : Bool :=
  palKind v == 1 && vwSpace v == 0 && vwBatch v == 1 && 64 * vwPitch v == vwCols v * fmtBits mx6 (palFmt v) && localOk mx6 x v

/-- The checks of a collective in order (R211, R279): its ring. -/
def State.collCheck (s : State) (x : Ctx) (a : W64) : Except SlotFault Rec64 :=
  let d := x.entry (fld a 7 0)
  let v := x.entry (clBucket d)
  let ctrs := [clRctr d, clCctr d, clNfctr d]
  match s.ring (towerOf s.cur.core) (clRing d) with
  | none => .error (trap 0x06)
  | some g =>
    let unit := if clKind d = 4 ∨ clKind d = 5 then 64 else 64 * ringSize g
    if fld a 63 8 ≠ 0 ∨ palKind d ≠ 3 ∨ !bucketOk s.mx6 x v ∨ vwRows v * vwCols v % unit ≠ 0 ∨
        ctrs.any fun c => decide (2 ^ 23 ≤ c) then .error (trap 0x06)
    else if ctrs.any fun c => c % 8 != 0 then .error (trap 0x05)
    else if palFmt v ≠ palFmt d ∨ !(decide (palFmt v = 1 ∨ palFmt v = 2 ∨ palFmt v = 3)) then .error (trap 0x0F)
    else if !peerOk d g then .error (trap 0x06)
    else .ok g

/-- The collectives that a context has issued and that have not ended (R314). -/
def State.collsOf (s : State) (r : CtxRef) : List CollCmd := s.colls.filter fun c => c.ctx == some r && c.node == (s.ctx r).node

/-- The messages that a context has outstanding (R296). -/
def State.msgsOf (s : State) (r : CtxRef) : List QMsg := s.msgs.filter fun m => m.ctx == r && m.node == (s.ctx r).node

/-- The checks of `qpush` in order (R296): its bytes and counter. -/
def State.qpushCheck (s : State) (x : Ctx) (a : Nat) (ctr : W64) : Except SlotFault (BitVec 256 × Ctr) :=
  let k := s.core s.cur.core
  match addrChecks x 32 a 32, counterOf x ctr with
  | some f, _ => .error f
  | none, none => .error (trap 0x06)
  | none, some c =>
    let found := k.mem.foundRead a 32
    if !found.isEmpty || k.mem.poisoned a then .error { trap 0x08 with found := found }
    else if (List.range 32).any fun i => !k.mem.has (a + i) then .error (trap 0x07)
    else .ok (BitVec.ofNat 256 (leNat (k.mem.loads a 32)), c)

/-! The instructions. -/


/-- CPY (R215, R221). -/
def execCpy (g : G) (s : State) : Out :=
  s.xfer 0x30 .srcAB g .cpy

/-- ENGINE_MOVE (R215, R221). -/
def execEngineMove (g : G) (s : State) : Out :=
  s.xfer 0x31 .srcAB g .mov

/-- MOV_NP (R215, R221). -/
def execMovNp (g : G) (s : State) : Out :=
  s.xfer 0x32 .srcAB g .movNp

/-- CPY_NP (R215, R221). -/
def execCpyNp (g : G) (s : State) : Out :=
  s.xfer 0x33 .srcAB g .cpyNp

/-- PUB (R216). -/
def execPub (g : G) (s : State) : Out :=
  s.settleOp 0x34 .srcAB g .pub

/-- DSC (R228). -/
def execDsc (g : G) (s : State) : Out :=
  s.settleOp 0x35 .srcAB g .dsc

/-- FILL (R222). -/
def execFill (g : G) (s : State) : Out :=
  s.engineOp 0x36 .srcDAB g fun x =>
    let a := x.sa g
    match s.fillCheck x g.d a (x.sb g) with
    | .error f => .trap f
    | .ok c => done [.cmd (s.newCmd x (Shape.issued .srcDAB 0x36 x g) (.fill (bit a 8)) (fld a 7 0) (fld a 7 0) c (x.sd g))]

/-- CTRADD (R214). -/
def execCtradd (g : G) (s : State) : Out :=
  s.engineOp 0x37 .srcAB g fun x =>
    match s.ctraddCheck (x.sa g) with
    | .error f => .trap f
    | .ok c => done [.cmd (s.newCmd x (Shape.issued .srcAB 0x37 x g) (.ctradd (x.sb g)) 0 0 c 0)]

/-- FRETRY (R227). -/
def execFretry (g : G) (s : State) : Out :=
  s.heldOp 0x38 .srcA g .fretry

/-- FSKIP (R227). -/
def execFskip (g : G) (s : State) : Out :=
  s.heldOp 0x39 .srcA g .fskip

/-- KVSHARE (R239). -/
def execKvshare (g : G) (s : State) : Out :=
  s.canvasOp 0x42 .srcAB g (fun x => [x.sa g, x.sb g]) fun x =>
    [.cmd { s.newCmd x (Shape.issued .srcAB 0x42 x g) (.kvshare (x.sa g) (x.sb g)) 0 0 .none 0 with src := 0, dst := 0 }]

/-- KVDROP (R240). -/
def execKvdrop (g : G) (s : State) : Out :=
  s.canvasOp 0x43 .srcA g (fun x => [x.sa g]) fun x =>
    [.cmd { s.newCmd x (Shape.issued .srcA 0x43 x g) (.kvdrop (x.sa g)) 0 0 .none 0 with src := 0, dst := 0 }]

/-- KVSTAT (R241). -/
def execKvstat (g : G) (s : State) : Out :=
  s.canvasOp 0x44 .unaryS g (fun x => [x.sa g]) fun x =>
    [.empty (.s g.d), .cmd { s.newCmd x (Shape.issued .unaryS 0x44 x g) (.kvstat g.d (x.sa g)) 0 0 .none 0 with src := 0, dst := 0 }]

/-- COLL (R211, R279). -/
def execColl (g : G) (s : State) : Out :=
  s.slotOp .t 0x48 .srcA g false fun x =>
    if 16 ≤ (s.collsOf s.cur).length then .wait
    else
      let a := x.sa g
      match s.collCheck x a with
      | .error f => .trap f
      | .ok ring =>
        let d := x.entry (fld a 7 0)
        let c : CollCmd := {
          id := 0, ctx := some s.cur, node := x.node, job := x.job, scope := x.spec.scope.toNat,
          tenant := x.spec.tenant.toNat, core := s.cur.core, tag := x.cmdSeq, issued := Shape.issued .srcA 0x48 x g, desc := d, descId := fld a 7 0,
          bucket := x.entry (clBucket d), bucketId := clBucket d, ring := ring, arbw := x.spec.arbw, inst := 0, engine := 0,
          ready := 0, started := false, step := 0, work := [], workPois := [], rx := [], rxPois := [], peer := none, lastSeq := 0,
          failing := none, aborted := false, killed := false }
        done [.coll c]

/-- QPUSH (R296). -/
def execQpush (g : G) (s : State) : Out :=
  s.slotOp .t 0x50 .srcAB g false fun x =>
    if 16 ≤ (s.msgsOf s.cur).length then .wait
    else match s.qpushCheck x (x.sa g).toNat (x.sb g) with
    | .error f => .trap f
    | .ok (bs, c) => done [.touch (x.sa g).toNat 32, .qpush
        { id := 0, ctx := s.cur, node := x.node, job := x.job, scope := x.spec.scope.toNat, tenant := x.spec.tenant.toNat,
          core := s.cur.core, tag := x.cmdSeq, issued := Shape.issued .srcAB 0x50 x g, data := bs, ctr := c, posted := false }]

/-! Starting, publishing, discarding (R214, R216, R219, R222 to R224, R228). -/

/-- The local sectors that a command writes or vacates. -/
def Cmd.localSectors (mx6 : Bool) (c : Cmd) : List Nat :=
  (if vwSpace c.dst = 0 then runSectors (viewRuns mx6 c.dst) else []) ++
    (if c.op.vacates && vwSpace c.src == 0 then runSectors (viewRuns mx6 c.src) else [])

/-- Whether a command would write or vacate a held sector (R197). -/
def State.underHold (s : State) (c : Cmd) : Bool :=
  (c.localSectors s.mx6).any fun sec => (s.core c.core).holds.any fun h => h.1 == sec

/-- A queued command starts: a transfer marks its local sectors, a `ctradd` asks for its add and ends with it; `pub` and `dsc` start
as they act (R214, R219, R221, R328). One that `fretry` has released runs again (R227). -/
def State.startCmd (s : State) (id : Nat) : State := match s.cmd id with
  | none => s
  | some c =>
    if !s.runRoom c.core then s
    else if c.state == .waiting then if s.unreachable c.core then s.unreachCmd c else s.setCmd { c with state := .running }
    else if c.state != .queued || !s.inOrder c then s
    else match c.op with
    | .pub => s
    | .dsc => s
    | .ctradd v =>
      if s.ctraddReady c.ctx c.node id c.core then
        let s1 := (s.setCmd { c with state := .running }).ask (addOf c.core c.ctx c.ctr v c.node c.job c.scope c.tenant (some id) true)
        if s.unreachable c.core then s1.unreachNote c else s1
      else s
    | .kvshare _ _ => s.setCmd { c with state := .running }
    | .kvdrop _ => s.setCmd { c with state := .running }
    | .kvstat _ _ => s.setCmd { c with state := .running }
    | _ =>
      if s.unreachable c.core then s.unreachCmd c
      else if s.underHold c then s
      else (s.setCmd { c with state := .running }).markSectors c

/-- `pub` acts: the transfers it names publish in one step, each into what the one before it has left, GEN rises by 1, then its
counter (R216, R226). -/
def State.pubCmd (s : State) (id : Nat) : State := match s.cmd id with
  | none => s
  | some c =>
    let ts := s.npInto c.ctx c.node id c.dstId
    if c.op != .pub || c.state != .queued || !s.inOrder c || ts.any fun d => d.state != .complete then s
    else
      let s1 := ts.foldl (fun (a : State) d => a.publishData ((a.cmd d.id).getD d)) s
      ((if ts.isEmpty then s1 else s1.cmdBump c.ctx c.node c.dstId).endCmd id).cmdAdd c

/-- Whether a command has started and is complete or held. -/
def Cmd.settled (c : Cmd) : Bool := match c.state with
  | .complete => true
  | .held _ _ _ => true
  | _ => false

/-- `dsc` acts: the transfers it names are discarded in one step, then its counter (R228). -/
def State.dscCmd (s : State) (id : Nat) : State := match s.cmd id with
  | none => s
  | some c =>
    let ts := s.npInto c.ctx c.node id c.dstId
    if c.op != .dsc || c.state != .queued || !s.inOrder c || ts.any fun d => !d.settled then s
    else ((ts.foldl (fun (a : State) d => a.discardCmd d) s).endCmd id).cmdAdd c

/-! Canvas names (R237 to R242). -/

/-- The names that a command uses. -/
def Cmd.names (mx6 : Bool) (c : Cmd) : List Nat :=
  let of (v : Rec64) : List Nat :=
    if vwSpace v = 2 then ((viewRuns mx6 v).map fun r => (touched 65536 r.at_ r.len)).flatten else []
  match c.op with
  | .kvshare a b => [a.toNat, b.toNat]
  | .kvdrop a => [a.toNat]
  | .kvstat _ a => [a.toNat]
  | .pub => []
  | .dsc => []
  | .ctradd _ => []
  | _ => of c.src ++ of c.dst

/-- Whether two names of a tenant are one name or name one block. -/
def Tower.sameBlock (w : Tower) (tenant a b : Nat) : Bool :=
  a == b || ((w.block tenant a).isSome && w.block tenant a == w.block tenant b)

/-- Earlier commands of the same continuation. -/
def State.earlier (s : State) (c : Cmd) : List Cmd := s.cmds.filter fun d => c.sameCtx d && decide (d.id < c.id)

/-- Whether an earlier command of the context that names the same blocks has yet to end (R242). -/
def State.namesWait (s : State) (c : Cmd) : Bool :=
  (s.earlier c).any fun d => (d.names s.mx6).any fun a => (c.names s.mx6).any fun b =>
    (s.tower (towerOf c.core)).sameBlock c.tenant a b

/-- Whether a command is held. -/
def Cmd.isHeld (c : Cmd) : Bool := match c.state with
  | .held _ _ _ => true
  | _ => false

/-- Whether an earlier command that touches a Canvas name has yet to end; held ones are not waited for (R241). -/
def State.statWait (s : State) (c : Cmd) : Bool :=
  (s.earlier c).any fun d => !(d.names s.mx6).isEmpty && !d.isHeld

/-- A name conflict holds the command (R239, R240). -/
def State.nameConflict (s : State) (c : Cmd) (name : W64) : State :=
  s.holdCmd s c ⟨0x20, 0x06, 0, name.toNat⟩ ⟨0, 0, 0, 0, 0, 0, 0, false, false, false⟩

/-- `kvshare` and `kvdrop` are performed in one step (R2, R239, R240). -/
def State.nameCmd (s : State) (id : Nat) : State := match s.cmd id with
  | none => s
  | some c =>
    let t := towerOf c.core
    let w := s.tower t
    if !c.running || s.namesWait c then s
    else match c.op with
    | .kvshare a b => match w.block c.tenant a.toNat, w.block c.tenant b.toNat with
      | some n, none =>
        if 255 ≤ w.namesOf n ∨ 131072 ≤ w.canvNames.length then s.nameConflict c a
        else (s.modTower t fun w => { w with canvNames := w.canvNames ++ [(c.tenant, b.toNat, n)] }).endCmd id
      | none, _ => s.nameConflict c a
      | some _, some _ => s.nameConflict c b
    | .kvdrop a => match w.block c.tenant a.toNat with
      | none => s.nameConflict c a
      | some n =>
        let s1 := s.modTower t fun w => { w with
          canvNames := w.canvNames.filter fun e => !(e.1 == c.tenant && e.2.1 == a.toNat)
          canvFree := if w.namesOf n = 1 then n :: w.canvFree else w.canvFree }
        (if w.namesOf n = 1 then s1.modDmem (.block t) fun m => m.wipe (65536 * n) 65536 else s1).endCmd id
    | _ => s

/-- The status word of a name (R241). -/
def State.nameStatus (s : State) (t : Bool) (tenant name : Nat) : W64 :=
  let w := s.tower t
  let free := at_ 64 32 w.canvFree.length
  match w.block tenant name with
  | none => free
  | some b =>
    let m := w.canvBlocks
    let mine (l : List Nat) : Nat := (l.filter fun sec => sec / 2048 == b).length
    at_ 64 63 1 ||| at_ 64 62 (if 1 < w.namesOf b then 1 else 0) ||| at_ 64 61 (if mine m.pois = 0 then 0 else 1) |||
      at_ 64 53 (w.namesOf b) ||| free ||| at_ 64 12 (if mine m.pres = 2048 then 1 else 0) ||| at_ 64 0 (mine m.pres)

/-- A result of variable latency joins a continuation's results in flight, live or saved. -/
def State.sendResult (s : State) (r : CtxRef) (node : Nat) (v : RVal) : State :=
  if s.alive r node then s.modCtx r fun x => x.expect v else s.mapImage node fun x => x.expect v

/-- `kvstat` forms its result (R241). -/
def State.statCmd (s : State) (c : Cmd) (d : BitVec 6) (a : W64) : State :=
  if s.statWait c then s
  else match c.ctx with
  | none => s.endCmd c.id
  | some r => (s.endCmd c.id).sendResult r c.node (.s d (s.nameStatus (towerOf c.core) c.tenant a.toNat))

/-- A running command completes: a transfer runs its elements, `kvstat` forms its result; what a cancel has reached is
discarded (R221, R241, R270). A skipped one ends as soon as its trap has room (R96). -/
def State.completeCmd (s : State) (id : Nat) : State := match s.cmd id with
  | none => s
  | some c =>
    if c.state == .skipped then (s.finishCmd c).getD s
    else if !c.running then s
    else if c.killed then s.discardCmd c
    else match c.op with
    | .kvstat d a => s.statCmd c d a
    | op => if op.transfers then s.runCmd c else s

/-- A running transfer meets a failing element and is held (R227); without one nothing happens. -/
def State.holdAt (s : State) (id : Nat) : State := match s.cmd id with
  | none => s
  | some c =>
    if !c.running || c.killed || !c.op.transfers then s
    else match s.elemLoop c ((c.elems s.mx6).drop c.pos) with
    | (some _, _, _) => s.runCmd c
    | (none, _, _) => s

/-! Events. -/

/-- COMMAND_START (R219). -/
def execCommandStart (id : Nat) (s : State) : Out := .next (s.startCmd id)

/-- TRANSFER_COMPLETION (R221). -/
def execTransferCompletion (id : Nat) (s : State) : Out := match s.cmd id with
  | none => .next s
  | some c => if c.running && c.op.transfers && !c.killed && s.outside c then .fault .noSuchMemory else .next (s.completeCmd id)

/-- PUBLISH (R216). -/
def execPublish (id : Nat) (s : State) : Out := .next (s.pubCmd id)

/-- DISCARD (R228). -/
def execDiscard (id : Nat) (s : State) : Out := .next (s.dscCmd id)

/-- CANVAS_NAME_UPDATE (R242). -/
def execCanvasNameUpdate (id : Nat) (s : State) : Out := .next (s.nameCmd id)

/-- COMMAND_HELD (R227). -/
def execCommandHeld (id : Nat) (s : State) : Out := .next (s.holdAt id)

/-- ENGINE_COUNTER_ADD (R348): the n-th add asked for is made where its doubleword allows it. -/
def execEngineCounterAdd (n : Nat) (s : State) : Out := match s.adds[n]? with
  | none => .next s
  | some a => .next (if s.makeable a then ({ s with adds := s.adds.eraseIdx n } : State).makeAdd a else s)

end Sys2Proof.Machine
end

