-- ==== Sys2Proof/Machine/Num.lean ====
section
/-!
DEFINITION. Number formats (R156 to R158, R163), exact values, the roundings RNE, RTZ and SR (R165).
-/

namespace Sys2Proof.Machine

/-- A binary floating-point format: exponent bits, fraction bits, bias (R156, R163). -/
structure Fmt where
  ew : Nat
  fw : Nat
  bias : Nat
deriving DecidableEq, Repr

/-- f32 (R156). -/
def f32 : Fmt := ⟨8, 23, 127⟩
/-- f16 (R156). -/
def f16 : Fmt := ⟨5, 10, 15⟩
/-- bf16 (R156). -/
def bf16 : Fmt := ⟨8, 7, 127⟩
/-- The recombination word W (R163). -/
def fW : Fmt := ⟨10, 13, 511⟩
/-- binary64, in which the checksum row works (R207). -/
def f64 : Fmt := ⟨11, 52, 1023⟩

/-- The width of a format. -/
def Fmt.width (F : Fmt) : Nat := 1 + F.ew + F.fw

/-- The canonical quiet NaN (R157). -/
def Fmt.qnan (F : Fmt) : Nat := (2 ^ F.ew - 1) * 2 ^ F.fw + 2 ^ (F.fw - 1)

/-- The bits of an infinity without its sign. -/
def Fmt.infBits (F : Fmt) : Nat := (2 ^ F.ew - 1) * 2 ^ F.fw

/-- The sign bit's weight. -/
def Fmt.signBit (F : Fmt) : Nat := 2 ^ (F.ew + F.fw)

/-- An exact value: NaN (signalling or quiet), infinity, or (−1)^neg · m · 2^e. -/
inductive Val where
  | nan (sig : Bool)
  | inf (neg : Bool)
  | fin (neg : Bool) (m : Nat) (e : Int)
deriving DecidableEq, Repr

/-- The value of a word of a format with infinities and NaNs (R157, R163). -/
def Fmt.value (F : Fmt) (b : Nat) : Val :=
  let neg := b / F.signBit % 2 == 1
  let E := b / 2 ^ F.fw % 2 ^ F.ew
  let f := b % 2 ^ F.fw
  if E = 2 ^ F.ew - 1 then
    if f = 0 then .inf neg else .nan (f < 2 ^ (F.fw - 1))
  else if E = 0 then .fin neg f (1 - F.bias - F.fw)
  else .fin neg (2 ^ F.fw + f) (E - F.bias - F.fw)

/-- Whether a value is a NaN. -/
def Val.isNan : Val → Bool
  | .nan _ => true
  | _ => false

/-- Whether a value is a signalling NaN. -/
def Val.isSig : Val → Bool
  | .nan s => s
  | _ => false

/-- Whether a value is a zero. -/
def Val.isZero : Val → Bool
  | .fin _ m _ => m == 0
  | _ => false

/-- Whether a value is finite. -/
def Val.isFin : Val → Bool
  | .fin _ _ _ => true
  | _ => false

/-- The value with the other sign. -/
def Val.neg : Val → Val
  | .nan s => .nan s
  | .inf n => .inf !n
  | .fin n m e => .fin (!n) m e

/-- The floor of the base 2 logarithm of a nonzero m · 2^e. -/
def topBit (m : Nat) (e : Int) : Int := Nat.log2 m + e

/-! Rounding (R165). A sticky bit stands for a nonzero part below the last bit of m. -/

/-- How a value between two representable ones is rounded. -/
inductive Mode where
  | rne
  | rtz
  | sr (r : Nat)
deriving DecidableEq, Repr

/-- Whether n, the quotient with remainder rem of 2^k and a sticky bit, goes to n + 1. -/
def roundsUp (mode : Mode) (n rem k : Nat) (sticky : Bool) : Bool :=
  match mode with
  | .rtz => false
  | .rne => decide (2 ^ k < 2 * rem) || (2 * rem == 2 ^ k && (sticky || n % 2 == 1))
  | .sr r => decide (2 ^ 16 ≤ rem * 2 ^ 16 / 2 ^ k + r)

/-- A rounded result: its bits without the sign, whether it is inexact, whether it overflowed, whether it was tiny
(R165, R170). -/
structure Rounded where
  bits : Nat
  nx : Bool
  ov : Bool
  tiny : Bool
deriving DecidableEq, Repr

/-- m · 2^e with a sticky bit as a multiple of 2^q under a mode: the multiple and whether it is inexact. -/
def quantise (mode : Mode) (q : Int) (m : Nat) (e : Int) (sticky : Bool) : Nat × Bool :=
  if q ≤ e then (m * 2 ^ (e - q).toNat, sticky)
  else
    let k := (q - e).toNat
    let n := m / 2 ^ k
    let rem := m % 2 ^ k
    (if roundsUp mode n rem k sticky then n + 1 else n, rem != 0 || sticky)

/-- The exponent of the last place of a format at m · 2^e. -/
def Fmt.lastPlace (F : Fmt) (m : Nat) (e : Int) : Int := max (topBit m e) (1 - F.bias) - F.fw

/-- A magnitude m · 2^e, plus a sticky part, in a format with infinities. Above the largest finite value SR is RNE, and RTZ gives
that value (R165). -/
def Fmt.round (F : Fmt) (mode : Mode) (m : Nat) (e : Int) (sticky : Bool) : Rounded :=
  if m = 0 then ⟨0, sticky, false, sticky⟩
  else
    let q := F.lastPlace m e
    let base : Nat := (q - (1 - F.bias - F.fw)).toNat * 2 ^ F.fw
    let cut := quantise .rtz q m e sticky
    let beyond : Bool := decide (F.infBits ≤ base + cut.1) || (decide (base + cut.1 + 1 = F.infBits) && cut.2)
    let md := match mode with | .sr r => if beyond then Mode.rne else .sr r | x => x
    let (n, nx) := quantise md q m e sticky
    let bits := base + n
    let tiny := decide (topBit m e < 1 - (F.bias : Int))
    if F.infBits ≤ bits then ⟨if mode = .rtz then F.infBits - 1 else F.infBits, true, true, false⟩ else ⟨bits, nx, false, tiny⟩

/-- A magnitude rounded to an integer under a mode, with whether it is inexact. -/
def roundInt (mode : Mode) (m : Nat) (e : Int) : Nat × Bool := quantise mode 0 m e false

/-! Exact arithmetic on finite values. -/

/-- The signed mantissa of m · 2^e at an exponent not above e. -/
def scaled (neg : Bool) (m : Nat) (e base : Int) : Int :=
  let x : Int := ((m * 2 ^ (e - base).toNat : Nat) : Int)
  if neg then -x else x

/-- The exact sum. A zero sum is −0 only when both operands are −0 (R164, R167). -/
def addFin (n₁ : Bool) (m₁ : Nat) (e₁ : Int) (n₂ : Bool) (m₂ : Nat) (e₂ : Int) : Val :=
  let base := min e₁ e₂
  let x := scaled n₁ m₁ e₁ base + scaled n₂ m₂ e₂ base
  if x = 0 then .fin (n₁ && n₂ && m₁ == 0 && m₂ == 0) 0 base
  else .fin (decide (x < 0)) x.natAbs base

/-- The sum of two values; ∞ − ∞ is NaN (R164, R167). -/
def Val.add : Val → Val → Val
  | .nan s, .nan t => .nan (s || t)
  | .nan s, _ => .nan s
  | _, .nan t => .nan t
  | .inf a, .inf b => if a = b then .inf a else .nan false
  | .inf a, _ => .inf a
  | _, .inf b => .inf b
  | .fin n₁ m₁ e₁, .fin n₂ m₂ e₂ => addFin n₁ m₁ e₁ n₂ m₂ e₂

/-- The product of two values; 0 × ∞ is NaN. -/
def Val.mul : Val → Val → Val
  | .nan s, .nan t => .nan (s || t)
  | .nan s, _ => .nan s
  | _, .nan t => .nan t
  | .inf a, .inf b => .inf (a != b)
  | .inf a, .fin b m _ => if m = 0 then .nan false else .inf (a != b)
  | .fin a m _, .inf b => if m = 0 then .nan false else .inf (a != b)
  | .fin n₁ m₁ e₁, .fin n₂ m₂ e₂ => .fin (n₁ != n₂) (m₁ * m₂) (e₁ + e₂)

/-- Order of two finite values: whether the first is less. −0 and +0 are equal. -/
def finLt (n₁ : Bool) (m₁ : Nat) (e₁ : Int) (n₂ : Bool) (m₂ : Nat) (e₂ : Int) : Bool :=
  let base := min e₁ e₂
  decide (scaled n₁ m₁ e₁ base < scaled n₂ m₂ e₂ base)

/-- Less-than on values; false for a NaN. -/
def Val.lt : Val → Val → Bool
  | .nan _, _ => false
  | _, .nan _ => false
  | .inf a, .inf b => a && !b
  | .inf a, _ => a
  | _, .inf b => !b
  | .fin n₁ m₁ e₁, .fin n₂ m₂ e₂ => finLt n₁ m₁ e₁ n₂ m₂ e₂

/-- Equality of values: +0 equals −0, a NaN equals nothing. -/
def Val.eq (a b : Val) : Bool := !a.isNan && !b.isNan && !a.lt b && !b.lt a

/-! Signed words. -/

/-- The bits of a rounded magnitude with a sign. -/
def Fmt.sign (F : Fmt) (neg : Bool) (bits : Nat) : Nat := if neg then F.signBit + bits else bits

/-- A value rounded to the bits of a format, its NaN the canonical one. -/
def Fmt.bitsOf (F : Fmt) (mode : Mode) : Val → Nat
  | .nan _ => F.qnan
  | .inf n => F.sign n F.infBits
  | .fin n m e => F.sign n (F.round mode m e false).bits

/-- A value rounded into a format, as a value (R164, R167). -/
def Fmt.fit (F : Fmt) (mode : Mode) (v : Val) : Val := F.value (F.bitsOf mode v)

/-- A signed integer as a value. -/
def Val.ofInt (x : Int) : Val := .fin (decide (x < 0)) x.natAbs 0

/-- A value times a power of two. -/
def Val.shift (k : Int) : Val → Val
  | .fin n m e => .fin n m (e + k)
  | v => v

end Sys2Proof.Machine
end

