-- ==== Sys2Proof/Machine/Flags.lean ====
section
/-!
DEFINITION. Floating-point operations of one lane with the flags they raise (R51, R60, R170 to R177).
-/

namespace Sys2Proof.Machine

/-- Flags in the order of FFLAGS: NV, DZ, OF, UF, NX (R60). -/
abbrev Flags := BitVec 5
/-- NV. -/
def fNV : Flags := 16
/-- DZ. -/
def fDZ : Flags := 8
/-- OF. -/
def fOF : Flags := 4
/-- UF. -/
def fUF : Flags := 2
/-- NX. -/
def fNX : Flags := 1

/-- A flag raised under a condition. -/
def raise (b : Bool) (f : Flags) : Flags := if b then f else 0

/-- A lane's result and flags. -/
structure Lane where
  bits : Nat
  flags : Flags
deriving DecidableEq, Repr

/-- The flags of a rounding: overflow is inexact; underflow is tiny and inexact (R170). -/
def Rounded.flags (r : Rounded) : Flags := raise r.ov fOF ||| raise (r.tiny && r.nx) fUF ||| raise r.nx fNX

/-- A value rounded to a format with the flags of the rounding; `nv` is an invalid operation. -/
def Fmt.finish (F : Fmt) (mode : Mode) (v : Val) (nv : Bool) : Lane := match v with
  | .nan _ => ⟨F.qnan, raise nv fNV⟩
  | .inf n => ⟨F.sign n F.infBits, raise nv fNV⟩
  | .fin n m e => let r := F.round mode m e false
    ⟨F.sign n r.bits, raise nv fNV ||| r.flags⟩

/-- Invalid in a sum: a signalling NaN, or ∞ − ∞ (R51, R172). -/
def Val.addInvalid (a b : Val) : Bool :=
  a.isSig || b.isSig || match a, b with
    | .inf x, .inf y => x != y
    | _, _ => false

/-- Invalid in a product: a signalling NaN, or 0 × ∞ (R51, R172). -/
def Val.mulInvalid (a b : Val) : Bool :=
  a.isSig || b.isSig || match a, b with
    | .inf _, .fin _ m _ => m == 0
    | .fin _ m _, .inf _ => m == 0
    | _, _ => false

/-- a + b (R51, R172). -/
def Fmt.add (F : Fmt) (a b : Nat) : Lane :=
  F.finish .rne ((F.value a).add (F.value b)) ((F.value a).addInvalid (F.value b))

/-- a − b. -/
def Fmt.sub (F : Fmt) (a b : Nat) : Lane :=
  F.finish .rne ((F.value a).add (F.value b).neg) ((F.value a).addInvalid (F.value b).neg)

/-- a × b. -/
def Fmt.mul (F : Fmt) (a b : Nat) : Lane :=
  F.finish .rne ((F.value a).mul (F.value b)) ((F.value a).mulInvalid (F.value b))

/-- a × b + d on values, rounded once; 0 × ∞ is invalid also when d is a quiet NaN (R51, R172). -/
def Fmt.fmaVal (F : Fmt) (a b d : Val) : Lane :=
  F.finish .rne ((a.mul b).add d) (a.mulInvalid b || (a.mul b).addInvalid d)

/-- a × b + d. -/
def Fmt.fma (F : Fmt) (a b d : Nat) : Lane := F.fmaVal (F.value a) (F.value b) (F.value d)

/-- a × b − d. -/
def Fmt.fms (F : Fmt) (a b d : Nat) : Lane := F.fmaVal (F.value a) (F.value b) (F.value d).neg

/-- Whether a is less than b with −0 below +0 (R173). -/
def Fmt.below (F : Fmt) (a b : Nat) : Bool :=
  (F.value a).lt (F.value b) ||
    ((F.value a).isZero && (F.value b).isZero && decide (F.signBit ≤ a) && decide (b < F.signBit))

/-- Minimum or maximum (R173): of two numbers a, or b where `second` says so. -/
def Fmt.pick (F : Fmt) (a b : Nat) (second : Bool) : Lane :=
  let nv := raise ((F.value a).isSig || (F.value b).isSig) fNV
  match (F.value a).isNan, (F.value b).isNan with
  | true, true => ⟨F.qnan, nv⟩
  | true, false => ⟨b, nv⟩
  | false, true => ⟨a, nv⟩
  | false, false => ⟨if second then b else a, nv⟩

/-- Minimum (R173). -/
def Fmt.min (F : Fmt) (a b : Nat) : Lane := F.pick a b (F.below b a)
/-- Maximum (R173). -/
def Fmt.max (F : Fmt) (a b : Nat) : Lane := F.pick a b (F.below a b)

/-- A compare's outcome and flags. -/
structure Cmp where
  res : Bool
  flags : Flags
deriving DecidableEq, Repr

/-- Equality: NV only for a signalling NaN (R51, R174). -/
def Fmt.cmpEq (F : Fmt) (a b : Nat) : Cmp :=
  ⟨(F.value a).eq (F.value b), raise ((F.value a).isSig || (F.value b).isSig) fNV⟩
/-- Less-than: NV for any NaN (R51, R174). -/
def Fmt.cmpLt (F : Fmt) (a b : Nat) : Cmp :=
  ⟨(F.value a).lt (F.value b), raise ((F.value a).isNan || (F.value b).isNan) fNV⟩
/-- Less or equal: NV for any NaN (R174). -/
def Fmt.cmpLe (F : Fmt) (a b : Nat) : Cmp :=
  ⟨(F.value a).lt (F.value b) || (F.value a).eq (F.value b), raise ((F.value a).isNan || (F.value b).isNan) fNV⟩

/-! Conversions (R51, R165, R176, R177). -/

/-- A value of one format converted to another (R176, R177). -/
def Fmt.convert (F T : Fmt) (mode : Mode) (a : Nat) : Lane := T.finish mode (F.value a) (F.value a).isSig

/-- A signed integer to a format, RNE (R51, R176). -/
def Fmt.ofInt (F : Fmt) (x : Int) : Lane := F.finish .rne (.ofInt x) false

/-- A value to a w-bit signed integer under a mode: a NaN gives 0, a value beyond the range saturates, both with NV
and without NX (R51, R165). -/
def Fmt.toInt (F : Fmt) (mode : Mode) (w : Nat) (a : Nat) : BitVec w × Flags :=
  let top : Int := 2 ^ (w - 1)
  match F.value a with
  | .nan _ => (0, fNV)
  | .inf n => (BitVec.ofInt w (if n then -top else top - 1), fNV)
  | .fin n m e =>
    let (k, nx) := roundInt mode m e
    let x : Int := if n then -(k : Int) else k
    if top ≤ x then (BitVec.ofInt w (top - 1), fNV)
    else if x < -top then (BitVec.ofInt w (-top), fNV)
    else (BitVec.ofInt w x, raise nx fNX)

/-! Transcendentals (R175), by integers of 256 and more fraction bits (log 19, DEDUCED). -/

/-- The integer square root of n, bit by bit from bit k − 1 down. -/
def isqrt (n : Nat) : Nat → Nat → Nat
  | 0, r => r
  | k + 1, r => isqrt n k (if (r + 2 ^ k) * (r + 2 ^ k) ≤ n then r + 2 ^ k else r)

/-- 1 / a (R175). -/
def rcpF32 (a : Nat) : Lane := match f32.value a with
  | .nan s => ⟨f32.qnan, raise s fNV⟩
  | .inf n => ⟨f32.sign n 0, 0⟩
  | .fin n m e =>
    if m = 0 then ⟨f32.sign n f32.infBits, fDZ⟩
    else
      let r := f32.round .rne (2 ^ 80 / m) (-80 - e) (2 ^ 80 % m != 0)
      ⟨f32.sign n r.bits, r.flags⟩

/-- 1 / √a (R175). -/
def rsqrtF32 (a : Nat) : Lane := match f32.value a with
  | .nan s => ⟨f32.qnan, raise s fNV⟩
  | .inf n => if n then ⟨f32.qnan, fNV⟩ else ⟨0, 0⟩
  | .fin n m e =>
    if m = 0 then ⟨f32.sign n f32.infBits, fDZ⟩
    else if n then ⟨f32.qnan, fNV⟩
    else
      let odd := e % 2 != 0
      let mm := if odd then 2 * m else m
      let ee := if odd then e - 1 else e
      let q := isqrt (2 ^ 160 / mm) 81 0
      let r := f32.round .rne q (-80 - ee / 2) (q * q * mm != 2 ^ 160)
      ⟨r.bits, r.flags⟩

/-- Fraction bits of the series. -/
def serBits : Nat := 320

/-- ⌊ln 2 · 2^320⌋, by the series of 1 / (k · 2^k), from term k on. -/
def ln2From (k : Nat) : Nat → Nat
  | 0 => 0
  | n + 1 => 2 ^ serBits / (k * 2 ^ k) + ln2From (k + 1) n

/-- ln 2 in units of 2^−320. -/
def ln2 : Nat := ln2From 1 320

/-- The sum of t^k / k! from a term on, in units of 2^−320. -/
def expFrom (t term k : Nat) : Nat → Nat
  | 0 => term
  | n + 1 => term + expFrom t (term * t / 2 ^ serBits / (k + 1)) (k + 1) n

/-- 2^f for a fraction f in units of 2^−320. -/
def exp2Frac (f : Nat) : Nat := expFrom (f * ln2 / 2 ^ serBits) (2 ^ serBits) 0 80

/-- 2^a (R175): integers are exact; beyond the format's range a value as large or small as any rounds alike. -/
def exp2F32 (a : Nat) : Lane := match f32.value a with
  | .nan s => ⟨f32.qnan, raise s fNV⟩
  | .inf n => if n then ⟨0, 0⟩ else ⟨f32.infBits, 0⟩
  | .fin n m e =>
    if 8 < topBit m e ∧ m ≠ 0 then
      let r := f32.round .rne 1 (if n then -400 else 400) false
      ⟨r.bits, r.flags⟩
    else
      let x := scaled n m (e + serBits) 0
      let i := x / 2 ^ serBits
      let f := (x % 2 ^ serBits).toNat
      let r := if f = 0 then f32.round .rne 1 i false else f32.round .rne (exp2Frac f) (i - serBits) true
      ⟨r.bits, r.flags⟩

/-- The sum of z^(2j+1) / (2j+1) from an odd power p = 2j+1 on, in units of 2^−320; z2 is z². -/
def atanhFrom (z2 pow p : Nat) : Nat → Nat
  | 0 => 0
  | n + 1 => pow / p + atanhFrom z2 (pow * z2 / 2 ^ serBits) (p + 2) n

/-- log₂ a (R175). -/
def log2F32 (a : Nat) : Lane := match f32.value a with
  | .nan s => ⟨f32.qnan, raise s fNV⟩
  | .inf n => if n then ⟨f32.qnan, fNV⟩ else ⟨f32.infBits, 0⟩
  | .fin n m e =>
    if m = 0 then ⟨f32.signBit + f32.infBits, fDZ⟩
    else if n then ⟨f32.qnan, fNV⟩
    else
      let one := 2 ^ Nat.log2 m
      let k := topBit m e
      if m = one then f32.ofInt k
      else
        let z := (m - one) * 2 ^ serBits / (m + one)
        let l := 2 * atanhFrom (z * z / 2 ^ serBits) z 1 110 * 2 ^ serBits / ln2
        let x : Int := k * 2 ^ serBits + l
        let r := f32.round .rne x.natAbs (-serBits) true
        ⟨f32.sign (decide (x < 0)) r.bits, r.flags⟩

end Sys2Proof.Machine
end

