-- ==== Sys2Proof/Machine/Scalar.lean ====
section
/-!
DEFINITION. Scalar instructions of slots 1 and 7 (R47 to R53).
-/

namespace Sys2Proof.Machine

/-! Integer functions. -/

/-- Leading zero bits; 64 for 0 (R47). -/
def clz64 (x : W64) : W64 := if x = 0 then 64 else BitVec.ofNat 64 (63 - Nat.log2 x.toNat)

/-- Trailing zero bits from bit i on, at most n. -/
def ctzFrom (x : W64) (i : Nat) : Nat → Nat
  | 0 => 0
  | n + 1 => if x.getLsbD i then 0 else 1 + ctzFrom x (i + 1) n

/-- Trailing zero bits; 64 for 0 (R47). -/
def ctz64 (x : W64) : W64 := BitVec.ofNat 64 (ctzFrom x 0 64)

/-- Number of set bits among the low n. -/
def popCount {w : Nat} (x : BitVec w) : Nat → Nat
  | 0 => 0
  | n + 1 => popCount x n + (if x.getLsbD n then 1 else 0)

/-- Bit i of the result is bit 63 − i (R47). -/
def brev64 (x : W64) : W64 :=
  BitVec.ofNat 64 (lanesNat 1 (fun i => BitVec.ofBool (x.getLsbD (63 - i))) 64)

/-- `bext` (R49): the bits of a at the set positions i and above of b, from result bit j on. -/
def bextFrom (a b : W64) (i j : Nat) : Nat → Nat
  | 0 => 0
  | n + 1 =>
    if b.getLsbD i then (if a.getLsbD i then 2 ^ j else 0) + bextFrom a b (i + 1) (j + 1) n else bextFrom a b (i + 1) j n

/-- `bdep` (R49): the bits of a from j on at the set positions i and above of b. -/
def bdepFrom (a b : W64) (i j : Nat) : Nat → Nat
  | 0 => 0
  | n + 1 =>
    if b.getLsbD i then (if a.getLsbD j then 2 ^ i else 0) + bdepFrom a b (i + 1) (j + 1) n else bdepFrom a b (i + 1) j n

/-- The signed quotient of R48. -/
def quotS (a b : W64) : W64 := if b = 0 then BitVec.allOnes 64 else BitVec.ofInt 64 (a.toInt.tdiv b.toInt)
/-- The signed remainder of R48. -/
def remS (a b : W64) : W64 := if b = 0 then a else BitVec.ofInt 64 (a.toInt.tmod b.toInt)
/-- The unsigned quotient of R48. -/
def quotU (a b : W64) : W64 := if b = 0 then BitVec.allOnes 64 else BitVec.ofNat 64 (a.toNat / b.toNat)
/-- The unsigned remainder of R48. -/
def remU (a b : W64) : W64 := if b = 0 then a else BitVec.ofNat 64 (a.toNat % b.toNat)

/-- Word n of a context's generator (R53). -/
def rngWord (seed coreId n : W64) : W64 :=
  let x0 := (seed ^^^ (coreId <<< 32)) + n * 0x9E3779B97F4A7C15
  let x1 := (x0 ^^^ (x0 >>> 30)) * 0xBF58476D1CE4E5B9
  let x2 := (x1 ^^^ (x1 >>> 27)) * 0x94D049BB133111EB
  x2 ^^^ (x2 >>> 31)

/-! Shapes of meaning. -/

/-- A scalar instruction with a scalar result of a latency. -/
def State.alu (s : State) (op : BitVec 8) (h : Shape) (g : G) (lat : Nat) (f : Ctx → W64) : Out :=
  s.slotOp .s op h g (decide (1 < lat)) fun x => done [result (.s g.d (f x)) 0 lat]

/-- A scalar instruction with a one-cycle predicate result (R50). -/
def State.test (s : State) (op : BitVec 8) (h : Shape) (g : G) (f : Ctx → Bool) : Out :=
  s.slotOp .s op h g false fun x => done [result (.p g.pd (f x)) 0 1]

/-- A check: CHKFAIL where it fails (R52). -/
def State.check (s : State) (op : BitVec 8) (h : Shape) (g : G) (f : Ctx → Bool) : Out :=
  s.slotOp .s op h g false fun x => if f x then done [] else .trap (trap 0x0A)

/-- The binary32 word in the low half of a scalar (R51). -/
def lo32 (x : W64) : Nat := x.toNat % 2 ^ 32

/-- A scalar FP32 instruction: the result in the low half, the high half 0, flags as it lands (R51). -/
def State.falu (s : State) (op : BitVec 8) (h : Shape) (g : G) (f : Ctx → Lane) : Out :=
  s.slotOp .s op h g true fun x => done [result (.s g.d (BitVec.ofNat 64 (f x).bits)) (f x).flags 4]

/-- A scalar FP32 compare (R51). -/
def State.ftest (s : State) (op : BitVec 8) (h : Shape) (g : G) (f : Ctx → Cmp) : Out :=
  s.slotOp .s op h g true fun x => done [result (.p g.pd (f x).res) (f x).flags 4]

/-- A conversion to a 64-bit integer (R51). -/
def State.fcvt (s : State) (op : BitVec 8) (h : Shape) (g : G) (mode : Mode) : Out :=
  s.slotOp .s op h g true fun x =>
    done [result (.s g.d (f32.toInt mode 64 (lo32 (x.sa g))).1) (f32.toInt mode 64 (lo32 (x.sa g))).2 4]

/-! The instructions. -/

/-- ADD (R47). -/
def execAdd (g : G) (s : State) : Out :=
  s.alu 0x01 .sss g 1 fun x => x.sa g + x.sb g

/-- SUB (R47). -/
def execSub (g : G) (s : State) : Out :=
  s.alu 0x02 .sss g 1 fun x => x.sa g - x.sb g

/-- ADDI (R47). -/
def execAddi (g : G) (s : State) : Out :=
  s.alu 0x03 .ssImm g 1 fun x => x.sa g + g.simm

/-- MUL (R47). -/
def execMul (g : G) (s : State) : Out :=
  s.alu 0x04 .sss g 3 fun x => x.sa g * x.sb g

/-- MULH (R47). -/
def execMulh (g : G) (s : State) : Out :=
  s.alu 0x05 .sss g 3 fun x => BitVec.ofInt 64 ((x.sa g).toInt * (x.sb g).toInt / 2 ^ 64)

/-- MULHN (R47). -/
def execMulhn (g : G) (s : State) : Out :=
  s.alu 0x06 .sss g 3 fun x => BitVec.ofNat 64 ((x.sa g).toNat * (x.sb g).toNat / 2 ^ 64)

/-- DIV (R48). -/
def execDiv (g : G) (s : State) : Out :=
  s.alu 0x07 .sss g 20 fun x => quotS (x.sa g) (x.sb g)

/-- DIVN (R48). -/
def execDivn (g : G) (s : State) : Out :=
  s.alu 0x08 .sss g 20 fun x => quotU (x.sa g) (x.sb g)

/-- REM (R48). -/
def execRem (g : G) (s : State) : Out :=
  s.alu 0x09 .sss g 20 fun x => remS (x.sa g) (x.sb g)

/-- REMN (R48). -/
def execRemn (g : G) (s : State) : Out :=
  s.alu 0x0A .sss g 20 fun x => remU (x.sa g) (x.sb g)

/-- MIN (R47). -/
def execMin (g : G) (s : State) : Out :=
  s.alu 0x0B .sss g 1 fun x => if (x.sa g).slt (x.sb g) then x.sa g else x.sb g

/-- MAX (R47). -/
def execMax (g : G) (s : State) : Out :=
  s.alu 0x0C .sss g 1 fun x => if (x.sa g).slt (x.sb g) then x.sb g else x.sa g

/-- MINN (R47). -/
def execMinn (g : G) (s : State) : Out :=
  s.alu 0x0D .sss g 1 fun x => if (x.sa g).ult (x.sb g) then x.sa g else x.sb g

/-- MAXN (R47). -/
def execMaxn (g : G) (s : State) : Out :=
  s.alu 0x0E .sss g 1 fun x => if (x.sa g).ult (x.sb g) then x.sb g else x.sa g

/-- ABS (R47). -/
def execAbs (g : G) (s : State) : Out :=
  s.alu 0x0F .unaryS g 1 fun x => if (x.sa g).msb then -(x.sa g) else x.sa g

/-- AND (R47). -/
def execAnd (g : G) (s : State) : Out :=
  s.alu 0x10 .sss g 1 fun x => x.sa g &&& x.sb g

/-- OR (R47). -/
def execOr (g : G) (s : State) : Out :=
  s.alu 0x11 .sss g 1 fun x => x.sa g ||| x.sb g

/-- XOR (R47). -/
def execXor (g : G) (s : State) : Out :=
  s.alu 0x12 .sss g 1 fun x => x.sa g ^^^ x.sb g

/-- ANDN (R47). -/
def execAndn (g : G) (s : State) : Out :=
  s.alu 0x13 .sss g 1 fun x => x.sa g &&& ~~~ (x.sb g)

/-- ANDI (R47). -/
def execAndi (g : G) (s : State) : Out :=
  s.alu 0x14 .ssImm g 1 fun x => x.sa g &&& g.uimm

/-- ORI (R47). -/
def execOri (g : G) (s : State) : Out :=
  s.alu 0x15 .ssImm g 1 fun x => x.sa g ||| g.uimm

/-- XORI (R47). -/
def execXori (g : G) (s : State) : Out :=
  s.alu 0x16 .ssImm g 1 fun x => x.sa g ^^^ g.uimm

/-- SHL (R47). -/
def execShl (g : G) (s : State) : Out :=
  s.alu 0x18 .sss g 1 fun x => x.sa g <<< ((x.sb g).toNat % 64)

/-- SHR (R47). -/
def execShr (g : G) (s : State) : Out :=
  s.alu 0x19 .sss g 1 fun x => x.sa g >>> ((x.sb g).toNat % 64)

/-- SRA (R47). -/
def execSra (g : G) (s : State) : Out :=
  s.alu 0x1A .sss g 1 fun x => (x.sa g).sshiftRight ((x.sb g).toNat % 64)

/-- ROTL (R47). -/
def execRotl (g : G) (s : State) : Out :=
  s.alu 0x1B .sss g 1 fun x => (x.sa g).rotateLeft ((x.sb g).toNat % 64)

/-- SHLI (R47). -/
def execShli (g : G) (s : State) : Out :=
  s.alu 0x1C .ssImm g 1 fun x => x.sa g <<< g.b.toNat

/-- SHRI (R47). -/
def execShri (g : G) (s : State) : Out :=
  s.alu 0x1D .ssImm g 1 fun x => x.sa g >>> g.b.toNat

/-- SRAI (R47). -/
def execSrai (g : G) (s : State) : Out :=
  s.alu 0x1E .ssImm g 1 fun x => (x.sa g).sshiftRight g.b.toNat

/-- CLZ (R47). -/
def execClz (g : G) (s : State) : Out :=
  s.alu 0x20 .unaryS g 1 fun x => clz64 (x.sa g)

/-- CTZ (R47). -/
def execCtz (g : G) (s : State) : Out :=
  s.alu 0x21 .unaryS g 1 fun x => ctz64 (x.sa g)

/-- POPC (R47). -/
def execPopc (g : G) (s : State) : Out :=
  s.alu 0x22 .unaryS g 1 fun x => BitVec.ofNat 64 (popCount (x.sa g) 64)

/-- BEXT (R49). -/
def execBext (g : G) (s : State) : Out :=
  s.alu 0x23 .sss g 1 fun x => BitVec.ofNat 64 (bextFrom (x.sa g) (x.sb g) 0 0 64)

/-- BDEP (R49). -/
def execBdep (g : G) (s : State) : Out :=
  s.alu 0x24 .sss g 1 fun x => BitVec.ofNat 64 (bdepFrom (x.sa g) (x.sb g) 0 0 64)

/-- BREV (R47). -/
def execBrev (g : G) (s : State) : Out :=
  s.alu 0x25 .unaryS g 1 fun x => brev64 (x.sa g)

/-- CMP_EQ (R50). -/
def execCmpEq (g : G) (s : State) : Out :=
  s.test 0x28 .pss g fun x => x.sa g == x.sb g

/-- CMP_NE (R50). -/
def execCmpNe (g : G) (s : State) : Out :=
  s.test 0x29 .pss g fun x => x.sa g != x.sb g

/-- CMP_LT (R50). -/
def execCmpLt (g : G) (s : State) : Out :=
  s.test 0x2A .pss g fun x => (x.sa g).slt (x.sb g)

/-- CMP_LE (R50). -/
def execCmpLe (g : G) (s : State) : Out :=
  s.test 0x2B .pss g fun x => (x.sa g).sle (x.sb g)

/-- CMP_LTN (R50). -/
def execCmpLtn (g : G) (s : State) : Out :=
  s.test 0x2C .pss g fun x => (x.sa g).ult (x.sb g)

/-- CMP_LEN (R50). -/
def execCmpLen (g : G) (s : State) : Out :=
  s.test 0x2D .pss g fun x => (x.sa g).ule (x.sb g)

/-- CMPI_EQ (R50). -/
def execCmpiEq (g : G) (s : State) : Out :=
  s.test 0x2E .psImm g fun x => x.sa g == g.simm

/-- CMPI_LT (R50). -/
def execCmpiLt (g : G) (s : State) : Out :=
  s.test 0x2F .psImm g fun x => (x.sa g).slt g.simm

/-- PAND (R50). -/
def execPand (g : G) (s : State) : Out :=
  s.test 0x30 .ppp g fun x => x.p g.pa && x.p g.pb

/-- POR (R50). -/
def execPor (g : G) (s : State) : Out :=
  s.test 0x31 .ppp g fun x => x.p g.pa || x.p g.pb

/-- PXOR (R50). -/
def execPxor (g : G) (s : State) : Out :=
  s.test 0x32 .ppp g fun x => x.p g.pa != x.p g.pb

/-- PNOT (R50). -/
def execPnot (g : G) (s : State) : Out :=
  s.test 0x33 .pp g fun x => !x.p g.pa

/-- MOV (R47). -/
def execMov (g : G) (s : State) : Out :=
  s.alu 0x34 .unaryS g 1 fun x => x.sa g

/-- MOVI (R47). -/
def execMovi (g : G) (s : State) : Out :=
  s.alu 0x35 .dstImm12 g 1 fun _ => g.simm12

/-- LIMM (R22, R47). -/
def execLimm (g : G) (imm : BitVec 32) (s : State) : Out :=
  s.alu 0x36 .dstS g 1 fun _ => imm.signExtend 64

/-- LIMMH (R22, R47). -/
def execLimmh (g : G) (imm : BitVec 32) (s : State) : Out :=
  s.alu 0x37 .modS g 1 fun x => imm ++ (x.sd g).extractLsb' 0 32

/-- LEA_1 (R47). -/
def execLea1 (g : G) (s : State) : Out :=
  s.alu 0x38 .sss g 1 fun x => x.sa g + x.sb g * 1

/-- LEA_2 (R47). -/
def execLea2 (g : G) (s : State) : Out :=
  s.alu 0x39 .sss g 1 fun x => x.sa g + x.sb g * 2

/-- LEA_4 (R47). -/
def execLea4 (g : G) (s : State) : Out :=
  s.alu 0x3A .sss g 1 fun x => x.sa g + x.sb g * 4

/-- LEA_8 (R47). -/
def execLea8 (g : G) (s : State) : Out :=
  s.alu 0x3B .sss g 1 fun x => x.sa g + x.sb g * 8

/-- CHK_EQ (R52). -/
def execChkEq (g : G) (s : State) : Out :=
  s.check 0x40 .srcAB g fun x => x.sa g == x.sb g

/-- CHK_P (R52). -/
def execChkP (g : G) (s : State) : Out :=
  s.check 0x41 .srcPP g fun x => x.p g.pa == x.p g.pb

/-- RNG (R53). -/
def execRng (g : G) (s : State) : Out :=
  s.slotOp .s 0x44 .dstS g true fun x =>
    .ok [result (.s g.d (rngWord x.spec.rngseed (coreIdReg s.cur.core) (x.spec.rngctr + BitVec.ofNat 64 s.drawn))) 0 2] 1

/-- FADD_F32 (R51). -/
def execFaddF32 (g : G) (s : State) : Out :=
  s.falu 0x50 .sss g fun x => f32.add (lo32 (x.sa g)) (lo32 (x.sb g))

/-- FSUB_F32 (R51). -/
def execFsubF32 (g : G) (s : State) : Out :=
  s.falu 0x51 .sss g fun x => f32.sub (lo32 (x.sa g)) (lo32 (x.sb g))

/-- FMUL_F32 (R51). -/
def execFmulF32 (g : G) (s : State) : Out :=
  s.falu 0x52 .sss g fun x => f32.mul (lo32 (x.sa g)) (lo32 (x.sb g))

/-- FMA_F32 (R51). -/
def execFmaF32 (g : G) (s : State) : Out :=
  s.falu 0x53 .sssD g fun x => f32.fma (lo32 (x.sa g)) (lo32 (x.sb g)) (lo32 (x.sd g))

/-- FCMP_LT (R51). -/
def execFcmpLt (g : G) (s : State) : Out :=
  s.ftest 0x54 .pss g fun x => f32.cmpLt (lo32 (x.sa g)) (lo32 (x.sb g))

/-- FCMP_EQ (R51). -/
def execFcmpEq (g : G) (s : State) : Out :=
  s.ftest 0x55 .pss g fun x => f32.cmpEq (lo32 (x.sa g)) (lo32 (x.sb g))

/-- CVT_F32_I64 (R51). -/
def execCvtF32I64 (g : G) (s : State) : Out :=
  s.falu 0x56 .unaryS g fun x => f32.ofInt (x.sa g).toInt

/-- CVT_I64_F32 (R51). -/
def execCvtI64F32 (g : G) (s : State) : Out :=
  s.fcvt 0x57 .unaryS g .rne

/-- CVT_I64_F32_RZ (R51). -/
def execCvtI64F32Rz (g : G) (s : State) : Out :=
  s.fcvt 0x58 .unaryS g .rtz

end Sys2Proof.Machine
end

