-- ==== Sys2Proof/Machine/VectorInt.lean ====
section
/-!
DEFINITION. Vector integer, logic, data movement and mask instructions of slots 2 and 3 (R113 to R124).
-/

namespace Sys2Proof.Machine

/-! Lanes and masks (R113, R114, R116). -/

/-- The mask bit of lane i of width w. -/
def maskBit (m : KMask) (w i : Nat) : Bool := match w with
  | 32 => m.getLsbD (2 * i)
  | 8 => m.getLsbD (i / 2)
  | _ => m.getLsbD i

/-- The old register with the governed lanes replaced (R17, R114). -/
def mergeLanes (w : Nat) (m : KMask) (old : Vec) (f : Nat → BitVec w) : Vec :=
  ofLanes w (2048 / w) fun i => if maskBit m w i then f i else lane w old i

/-- A mask from its bits. -/
def maskOf (f : Nat → Bool) : KMask := BitVec.ofNat 128 (lanesNat 1 (fun i => BitVec.ofBool (f i)) 128)

/-- The mask that a compare of width w writes, every bit of it (R116). -/
def cmpMask (w : Nat) (m : KMask) (c : Nat → Bool) : KMask := match w with
  | 32 => maskOf fun j => m.getLsbD (2 * (j / 2)) && c (j / 2)
  | 8 => maskOf fun j => m.getLsbD j && c (2 * j) && c (2 * j + 1)
  | _ => maskOf fun j => m.getLsbD j && c j

/-! Shapes of meaning. -/

/-- An instruction that writes the governed lanes of vD, without flags. -/
def State.vlanes (s : State) (op : BitVec 8) (h : Shape) (g : G) (w lat : Nat) (f : Ctx → Nat → BitVec w) : Out :=
  s.slotOp .v op h g true fun x => done [.launch (.v g.d (mergeLanes w (x.lanes g) (x.vd g) (f x))) 0 lat]

/-- A lane function of two vectors (R115, R117). -/
def State.vlane2 (s : State) (op : BitVec 8) (h : Shape) (g : G) (w : Nat) (f : BitVec w → BitVec w → BitVec w) : Out :=
  s.vlanes op h g w 2 fun x i => f (lane w (x.va g) i) (lane w (x.vb g) i)

/-- A lane function of one vector. -/
def State.vlane1 (s : State) (op : BitVec 8) (h : Shape) (g : G) (w : Nat) (f : BitVec w → BitVec w) : Out :=
  s.vlanes op h g w 2 fun x i => f (lane w (x.va g) i)

/-- A compare into a mask (R116). -/
def State.vcmp (s : State) (op : BitVec 8) (h : Shape) (g : G) (w : Nat) (f : BitVec w → BitVec w → Bool) : Out :=
  s.slotOp .v op h g true fun x =>
    done [.launch (.k g.pd (cmpMask w (x.lanes g) fun i => f (lane w (x.va g) i) (lane w (x.vb g) i))) 0 2]

/-- A result of a mask instruction (R121). -/
def State.kop (s : State) (op : BitVec 8) (h : Shape) (g : G) (f : Ctx → RVal) : Out :=
  s.slotOp .v op h g true fun x => done [.launch (f x) 0 2]

/-- The high half of a signed product (R115). -/
def mulHi (w : Nat) (a b : BitVec w) : BitVec w := BitVec.ofInt w (a.toInt * b.toInt / 2 ^ w)

/-- |a|; the most negative value stays (R115). -/
def absLane {w : Nat} (a : BitVec w) : BitVec w := if a.msb then -a else a

/-! The instructions. -/

/-- VADD (R115). -/
def execVadd (g : G) (s : State) : Out :=
  s.vlane2 0x01 .vvv g 32 fun a b => a + b

/-- VSUB (R115). -/
def execVsub (g : G) (s : State) : Out :=
  s.vlane2 0x02 .vvv g 32 fun a b => a - b

/-- VMUL (R115). -/
def execVmul (g : G) (s : State) : Out :=
  s.vlane2 0x03 .vvv g 32 fun a b => a * b

/-- VMULH (R115). -/
def execVmulh (g : G) (s : State) : Out :=
  s.vlane2 0x04 .vvv g 32 fun a b => mulHi 32 a b

/-- VMIN (R115). -/
def execVmin (g : G) (s : State) : Out :=
  s.vlane2 0x05 .vvv g 32 fun a b => if a.slt b then a else b

/-- VMAX (R115). -/
def execVmax (g : G) (s : State) : Out :=
  s.vlane2 0x06 .vvv g 32 fun a b => if a.slt b then b else a

/-- VMIN_N32 (R115). -/
def execVminN32 (g : G) (s : State) : Out :=
  s.vlane2 0x07 .vvv g 32 fun a b => if a.ult b then a else b

/-- VMAX_N32 (R115). -/
def execVmaxN32 (g : G) (s : State) : Out :=
  s.vlane2 0x08 .vvv g 32 fun a b => if a.ult b then b else a

/-- VABS (R115). -/
def execVabs (g : G) (s : State) : Out :=
  s.vlane1 0x09 .unaryV g 32 absLane

/-- VCMP_EQ (R116). -/
def execVcmpEq (g : G) (s : State) : Out :=
  s.vcmp 0x0A .kvv g 32 fun a b => a == b

/-- VCMP_LT (R116). -/
def execVcmpLt (g : G) (s : State) : Out :=
  s.vcmp 0x0B .kvv g 32 fun a b => a.slt b

/-- VCMP_LT_N32 (R116). -/
def execVcmpLtN32 (g : G) (s : State) : Out :=
  s.vcmp 0x0C .kvv g 32 fun a b => a.ult b

/-- VADD_H (R115). -/
def execVaddH (g : G) (s : State) : Out :=
  s.vlane2 0x11 .vvv g 16 fun a b => a + b

/-- VSUB_H (R115). -/
def execVsubH (g : G) (s : State) : Out :=
  s.vlane2 0x12 .vvv g 16 fun a b => a - b

/-- VMUL_H (R115). -/
def execVmulH (g : G) (s : State) : Out :=
  s.vlane2 0x13 .vvv g 16 fun a b => a * b

/-- VMULH_H (R115). -/
def execVmulhH (g : G) (s : State) : Out :=
  s.vlane2 0x14 .vvv g 16 fun a b => mulHi 16 a b

/-- VMIN_H (R115). -/
def execVminH (g : G) (s : State) : Out :=
  s.vlane2 0x15 .vvv g 16 fun a b => if a.slt b then a else b

/-- VMAX_H (R115). -/
def execVmaxH (g : G) (s : State) : Out :=
  s.vlane2 0x16 .vvv g 16 fun a b => if a.slt b then b else a

/-- VMIN_N16 (R115). -/
def execVminN16 (g : G) (s : State) : Out :=
  s.vlane2 0x17 .vvv g 16 fun a b => if a.ult b then a else b

/-- VMAX_N16 (R115). -/
def execVmaxN16 (g : G) (s : State) : Out :=
  s.vlane2 0x18 .vvv g 16 fun a b => if a.ult b then b else a

/-- VABS_H (R115). -/
def execVabsH (g : G) (s : State) : Out :=
  s.vlane1 0x19 .unaryV g 16 absLane

/-- VCMP_EQ_H (R116). -/
def execVcmpEqH (g : G) (s : State) : Out :=
  s.vcmp 0x1A .kvv g 16 fun a b => a == b

/-- VCMP_LT_H (R116). -/
def execVcmpLtH (g : G) (s : State) : Out :=
  s.vcmp 0x1B .kvv g 16 fun a b => a.slt b

/-- VCMP_LT_N16 (R116). -/
def execVcmpLtN16 (g : G) (s : State) : Out :=
  s.vcmp 0x1C .kvv g 16 fun a b => a.ult b

/-- VADD_B (R115). -/
def execVaddB (g : G) (s : State) : Out :=
  s.vlane2 0x21 .vvv g 8 fun a b => a + b

/-- VSUB_B (R115). -/
def execVsubB (g : G) (s : State) : Out :=
  s.vlane2 0x22 .vvv g 8 fun a b => a - b

/-- VMUL_B (R115). -/
def execVmulB (g : G) (s : State) : Out :=
  s.vlane2 0x23 .vvv g 8 fun a b => a * b

/-- VMULH_B (R115). -/
def execVmulhB (g : G) (s : State) : Out :=
  s.vlane2 0x24 .vvv g 8 fun a b => mulHi 8 a b

/-- VMIN_B (R115). -/
def execVminB (g : G) (s : State) : Out :=
  s.vlane2 0x25 .vvv g 8 fun a b => if a.slt b then a else b

/-- VMAX_B (R115). -/
def execVmaxB (g : G) (s : State) : Out :=
  s.vlane2 0x26 .vvv g 8 fun a b => if a.slt b then b else a

/-- VMIN_N8 (R115). -/
def execVminN8 (g : G) (s : State) : Out :=
  s.vlane2 0x27 .vvv g 8 fun a b => if a.ult b then a else b

/-- VMAX_N8 (R115). -/
def execVmaxN8 (g : G) (s : State) : Out :=
  s.vlane2 0x28 .vvv g 8 fun a b => if a.ult b then b else a

/-- VABS_B (R115). -/
def execVabsB (g : G) (s : State) : Out :=
  s.vlane1 0x29 .unaryV g 8 absLane

/-- VCMP_EQ_B (R116). -/
def execVcmpEqB (g : G) (s : State) : Out :=
  s.vcmp 0x2A .kvv g 8 fun a b => a == b

/-- VCMP_LT_B (R116). -/
def execVcmpLtB (g : G) (s : State) : Out :=
  s.vcmp 0x2B .kvv g 8 fun a b => a.slt b

/-- VCMP_LT_N8 (R116). -/
def execVcmpLtN8 (g : G) (s : State) : Out :=
  s.vcmp 0x2C .kvv g 8 fun a b => a.ult b

/-- VAND (R117). -/
def execVand (g : G) (s : State) : Out :=
  s.vlane2 0x30 .vvv g 16 fun a b => a &&& b

/-- VOR (R117). -/
def execVor (g : G) (s : State) : Out :=
  s.vlane2 0x31 .vvv g 16 fun a b => a ||| b

/-- VXOR (R117). -/
def execVxor (g : G) (s : State) : Out :=
  s.vlane2 0x32 .vvv g 16 fun a b => a ^^^ b

/-- VNOT (R117). -/
def execVnot (g : G) (s : State) : Out :=
  s.vlane1 0x33 .unaryV g 16 fun a => ~~~ a

/-- VSHL (R117). -/
def execVshl (g : G) (s : State) : Out :=
  s.vlane2 0x34 .vvv g 32 fun a b => a <<< (b.toNat % 32)

/-- VSHR (R117). -/
def execVshr (g : G) (s : State) : Out :=
  s.vlane2 0x35 .vvv g 32 fun a b => a >>> (b.toNat % 32)

/-- VSRA (R117). -/
def execVsra (g : G) (s : State) : Out :=
  s.vlane2 0x36 .vvv g 32 fun a b => a.sshiftRight (b.toNat % 32)

/-- VSHLI (R117). -/
def execVshli (g : G) (s : State) : Out :=
  s.vlane1 0x37 .vvImm31 g 32 fun a => a <<< g.b.toNat

/-- VSHRI (R117). -/
def execVshri (g : G) (s : State) : Out :=
  s.vlane1 0x38 .vvImm31 g 32 fun a => a >>> g.b.toNat

/-- VSRAI (R117). -/
def execVsrai (g : G) (s : State) : Out :=
  s.vlane1 0x39 .vvImm31 g 32 fun a => a.sshiftRight g.b.toNat

/-- VBCAST_W (R118). -/
def execVbcastW (g : G) (s : State) : Out :=
  s.vlanes 0x90 .vs g 32 3 fun x _ => (x.sa g).extractLsb' 0 32

/-- VBCAST_H (R118). -/
def execVbcastH (g : G) (s : State) : Out :=
  s.vlanes 0x91 .vs g 16 3 fun x _ => (x.sa g).extractLsb' 0 16

/-- VBCAST_B (R118). -/
def execVbcastB (g : G) (s : State) : Out :=
  s.vlanes 0x92 .vs g 8 3 fun x _ => (x.sa g).extractLsb' 0 8

/-- VMOV (R118). -/
def execVmov (g : G) (s : State) : Out :=
  s.vlanes 0x93 .unaryV g 16 2 fun x i => lane 16 (x.va g) i

/-- VSEL (R118). -/
def execVsel (g : G) (s : State) : Out :=
  s.slotOp .v 0x94 .vvv g true fun x =>
    done [.launch (.v g.d (mergeLanes 16 (x.lanes g) (x.vb g) (lane 16 (x.va g)))) 0 2]

/-- VPERM_W (R119). -/
def execVpermW (g : G) (s : State) : Out :=
  s.vlanes 0x95 .vvv g 32 3 fun x i => lane 32 (x.va g) ((lane 32 (x.vb g) i).toNat % 64)

/-- VPERM_H (R119). -/
def execVpermH (g : G) (s : State) : Out :=
  s.vlanes 0x96 .vvv g 16 3 fun x i => lane 16 (x.va g) ((lane 16 (x.vb g) i).toNat % 128)

/-- VROT (R119). -/
def execVrot (g : G) (s : State) : Out :=
  s.vlanes 0x97 .vvs g 16 3 fun x i =>
    lane 8 (x.va g) ((2 * i + 1 + (x.sb g).toNat) % 256) ++ lane 8 (x.va g) ((2 * i + (x.sb g).toNat) % 256)

/-- VEXT_W (R120). -/
def execVextW (g : G) (s : State) : Out :=
  s.slotOp .v 0x98 .plainSvs g true fun x =>
    if 63 < (x.sb g).toNat then .trap (trap 0x06)
    else done [.launch (.s g.d ((lane 32 (x.va g) (x.sb g).toNat).signExtend 64)) 0 3]

/-- VINS_W (R120). -/
def execVinsW (g : G) (s : State) : Out :=
  s.slotOp .v 0x99 .vss g true fun x =>
    if 63 < (x.sb g).toNat then .trap (trap 0x06)
    else done [.launch (.v g.d (mergeLanes 32 (x.lanes g) (x.vd g) fun i =>
      if i = (x.sb g).toNat then (x.sa g).extractLsb' 0 32 else lane 32 (x.vd g) i)) 0 3]

/-- VIOTA_W (R118). -/
def execViotaW (g : G) (s : State) : Out :=
  s.vlanes 0x9A .vs g 32 3 fun x i => (x.sa g).extractLsb' 0 32 + BitVec.ofNat 32 i

/-- KAND (R121). -/
def execKand (g : G) (s : State) : Out :=
  s.kop 0xB0 .plainKkk g fun x => .k g.pd (x.k g.pa &&& x.k g.pb)

/-- KOR (R121). -/
def execKor (g : G) (s : State) : Out :=
  s.kop 0xB1 .plainKkk g fun x => .k g.pd (x.k g.pa ||| x.k g.pb)

/-- KXOR (R121). -/
def execKxor (g : G) (s : State) : Out :=
  s.kop 0xB2 .plainKkk g fun x => .k g.pd (x.k g.pa ^^^ x.k g.pb)

/-- KNOT (R121). -/
def execKnot (g : G) (s : State) : Out :=
  s.kop 0xB3 .plainKk g fun x => .k g.pd (~~~ (x.k g.pa))

/-- KPOP (R121). -/
def execKpop (g : G) (s : State) : Out :=
  s.kop 0xB4 .plainSk g fun x => .s g.d (BitVec.ofNat 64 (popCount (x.k g.pa) 128))

/-- KSET (R121). -/
def execKset (g : G) (s : State) : Out :=
  s.kop 0xB5 .plainKss g fun x => .k g.pd (x.sb g ++ x.sa g)

/-- KGET (R121). -/
def execKget (g : G) (s : State) : Out :=
  s.kop 0xB6 .plainSkImm1 g fun x => if g.b = 0 then .s g.d ((x.k g.pa).extractLsb' 0 64) else .s g.d ((x.k g.pa).extractLsb' 64 64)

/-- VRNG (R53, R122). -/
def execVrng (g : G) (s : State) : Out :=
  s.slotOp .v 0xC0 .dstV g true fun x =>
    let word (i : Nat) : W64 := rngWord x.spec.rngseed (coreIdReg s.cur.core) (x.spec.rngctr + BitVec.ofNat 64 (s.drawn + i))
    .ok [.launch (.v g.d (mergeLanes 16 (x.lanes g) (x.vd g) fun j => (word (j / 4)).extractLsb' (16 * (j % 4)) 16)) 0 2] 32

/-- VCHK (R123). -/
def execVchk (g : G) (s : State) : Out :=
  s.slotOp .v 0xC4 .srcVV g false fun x =>
    if (List.range 128).all fun j => !maskBit (x.lanes g) 16 j || lane 16 (x.va g) j == lane 16 (x.vb g) j then done []
    else .trap (trap 0x0A)

end Sys2Proof.Machine
end

