-- ==== Sys2Proof/Machine/VectorFloat.lean ====
section
/-!
DEFINITION. Vector floating-point, conversion, MX, reduction and scan instructions (R155, R170 to R183).
-/

namespace Sys2Proof.Machine

/-! Lanes with flags (R171, R172). -/

/-- Lane i of width w as a number. -/
def laneNat (w : Nat) (v : Vec) (i : Nat) : Nat := (lane w v i).toNat

/-- The flags of the governed lanes (R171). -/
def laneFlags (w n : Nat) (m : KMask) (f : Nat → Flags) : Flags :=
  (List.range n).foldl (fun acc i => if maskBit m w i then acc ||| f i else acc) 0

/-- An instruction that writes the governed lanes of vD with the flags of their results. -/
def State.vfl (s : State) (op : BitVec 8) (h : Shape) (g : G) (w lat : Nat) (f : Ctx → Nat → Lane) : Out :=
  s.slotOp .v op h g true fun x =>
    done [.launch (.v g.d (mergeLanes w (x.lanes g) (x.vd g) fun i => BitVec.ofNat w (f x i).bits))
      (laneFlags w (2048 / w) (x.lanes g) fun i => (f x i).flags) lat]

/-- A lane function of two vectors in a format (R172). -/
def State.vf2 (s : State) (op : BitVec 8) (h : Shape) (g : G) (F : Fmt) (f : Nat → Nat → Lane) : Out :=
  s.vfl op h g F.width 4 fun x i => f (laneNat F.width (x.va g) i) (laneNat F.width (x.vb g) i)

/-- A lane function of three vectors in a format, d the old lane of vD (R172). -/
def State.vf3 (s : State) (op : BitVec 8) (h : Shape) (g : G) (F : Fmt) (f : Nat → Nat → Nat → Lane) : Out :=
  s.vfl op h g F.width 4 fun x i =>
    f (laneNat F.width (x.va g) i) (laneNat F.width (x.vb g) i) (laneNat F.width (x.vd g) i)

/-- A compare in a format into a mask, with the flags of the governed lanes (R174). -/
def State.vfcmp (s : State) (op : BitVec 8) (h : Shape) (g : G) (F : Fmt) (f : Nat → Nat → Cmp) : Out :=
  s.slotOp .v op h g true fun x =>
    let c (i : Nat) : Cmp := f (laneNat F.width (x.va g) i) (laneNat F.width (x.vb g) i)
    done [.launch (.k g.pd (cmpMask F.width (x.lanes g) fun i => (c i).res))
      (laneFlags F.width (2048 / F.width) (x.lanes g) fun i => (c i).flags) 2]

/-- A transcendental of f32 lanes (R175). -/
def State.vtrans (s : State) (op : BitVec 8) (h : Shape) (g : G) (f : Nat → Lane) : Out :=
  s.vfl op h g 32 10 fun x i => f (laneNat 32 (x.va g) i)

/-- The f32 source of halfword j of a narrowing conversion (R176). -/
def Ctx.narrow (x : Ctx) (g : G) (j : Nat) : Nat :=
  if j < 64 then laneNat 32 (x.va g) j else laneNat 32 (x.vb g) (j - 64)

/-! MX blocks in a register (R158, R160, R162, R168, R169, R178). -/

/-- An MX element format: width, exponent bits, fraction bits, bias, emax; mxi8 is `int` (R156, R168). -/
structure MxFmt where
  w : Nat
  ew : Nat
  fw : Nat
  bias : Nat
  emax : Int
  int : Bool
deriving DecidableEq, Repr

/-- e4m3. -/
def mxE4m3 : MxFmt := ⟨8, 4, 3, 7, 8, false⟩
/-- e5m2. -/
def mxE5m2 : MxFmt := ⟨8, 5, 2, 15, 15, false⟩
/-- e3m2. -/
def mxE3m2 : MxFmt := ⟨6, 3, 2, 3, 4, false⟩
/-- e2m3. -/
def mxE2m3 : MxFmt := ⟨6, 2, 3, 1, 2, false⟩
/-- e2m1. -/
def mxE2m1 : MxFmt := ⟨4, 2, 1, 1, 2, false⟩
/-- mxi8. -/
def mxI8 : MxFmt := ⟨8, 0, 0, 0, 0, true⟩

/-- The MX format of a code of R156. -/
def mxOf (f : Nat) : MxFmt := match f with
  | 0x10 => mxE4m3 | 0x11 => mxE5m2 | 0x12 => mxE3m2 | 0x13 => mxE2m3 | 0x14 => mxE2m1 | _ => mxI8

/-- The value of an element (R158). -/
def MxFmt.value (F : MxFmt) (b : Nat) : Val :=
  if F.int then
    let q := (BitVec.ofNat 8 b).toInt
    .fin (decide (q < 0)) q.natAbs (-6)
  else
    let neg := b / 2 ^ (F.w - 1) % 2 == 1
    let E := b / 2 ^ F.fw % 2 ^ F.ew
    let f := b % 2 ^ F.fw
    if F = mxE4m3 ∧ b % 128 = 127 then .nan false
    else if F = mxE5m2 ∧ E = 31 then (if f = 0 then .inf neg else .nan false)
    else if E = 0 then .fin neg f (1 - F.bias - F.fw)
    else .fin neg (2 ^ F.fw + f) (E - F.bias - F.fw)

/-- The code of the largest magnitude, of either sign, without its sign (R156, R168). -/
def MxFmt.maxCode (F : MxFmt) : Nat :=
  if F = mxE4m3 then 0x7E else if F = mxE5m2 then 0x7B else 2 ^ (F.w - 1) - 1

/-- The code of a finite value y: saturated at M⁺ and M⁻, else rounded; and whether it differs from y (R168). -/
def MxFmt.quant (F : MxFmt) (mode : Mode) (neg : Bool) (m : Nat) (e : Int) : Nat × Bool :=
  if F.int then
    let top : Nat := if neg then 128 else 127
    if !finLt false m e false top (-6) then
      (if neg then 128 else 127, finLt false top (-6) false m e)
    else
      let (n, nx) := quantise mode (-6) m e false
      (if neg && n != 0 then 256 - n else n, nx)
  else
    let sgn := if neg then 2 ^ (F.w - 1) else 0
    match F.value F.maxCode with
    | .fin _ tm te =>
      if !finLt false m e false tm te then (sgn + F.maxCode, finLt false tm te false m e)
      else if m = 0 then (sgn, false)
      else
        let q := max (topBit m e) (1 - (F.bias : Int)) - F.fw
        let (n, nx) := quantise mode q m e false
        (sgn + (q - (1 - F.bias - F.fw)).toNat * 2 ^ F.fw + n, nx)
    | _ => (sgn, false)

/-- The base 2 logarithm's floor of the largest magnitude of finite values; none where all are 0 (R168). -/
def amaxTop (vs : List Val) : Option Int := vs.foldl (fun acc v => match v with
  | .fin _ m e => if m = 0 then acc else match acc with
    | none => some (topBit m e)
    | some t => some (max t (topBit m e))
  | _ => acc) none

/-- A quantised block: element codes in index order, scale byte, whether any element is inexact (R168). -/
def MxFmt.block (F : MxFmt) (mode : Nat → Mode) (vs : List Val) : List Nat × Nat × Bool :=
  if vs.any fun v => !v.isFin then (List.replicate 32 0, 0xFF, false)
  else
    let e : Int := match amaxTop vs with
      | none => -127
      | some t => max (-127) (min 127 (t - F.emax))
    let qs := vs.zipIdx.map fun v => match v.1.shift (-e) with
      | .fin n m x => F.quant (mode v.2) n m x
      | _ => (0, false)
    (qs.map (·.1), (e + 127).toNat, qs.any (·.2))

/-- The bits of a block of codes in an order (R162). -/
def packBlock (w : Nat) (laneOrder : Bool) (codes : List Nat) : Nat :=
  (codes.zipIdx.map fun c => c.1 * 2 ^ lanePos w laneOrder c.2).sum

/-- Element k of block b of a register in natural order (R178). -/
def mxElem (w : Nat) (v : Vec) (b k : Nat) : Nat := v.toNat / 2 ^ (32 * w * b + w * k) % 2 ^ w

/-- The scale byte of block b (R178). -/
def mxScale (v : Vec) (b : Nat) : Nat := v.toNat / 2 ^ (8 * (252 + b)) % 256

/-- The value of an element under a scale byte (R160). -/
def MxFmt.scaled (F : MxFmt) (code scale : Nat) : Val :=
  if scale = 0xFF then .nan false else (F.value code).shift ((scale : Int) - 127)

/-- `vqmx` and `vqmx.sr` (R179); `present` is false for a 6-bit format while FEAT_LO.MX6 is 0 (R44). -/
def State.vqmx (s : State) (op : BitVec 8) (h : Shape) (g : G) (F : MxFmt) (stoch present : Bool) : Out :=
  s.slotOp .v op h g true fun x =>
    if !present then h.extop x g
    else
      let input (m : Nat) : Val := f32.value (x.narrow g m)
      let mode (b k : Nat) : Mode := if stoch then .sr (laneNat 16 (x.vd g) (32 * b + k)) else .rne
      let blocks := (List.range 4).map fun b => F.block (mode b) ((List.range 32).map fun k => input (32 * b + k))
      let bits := (blocks.zipIdx.map fun b =>
        packBlock F.w false b.1.1 * 2 ^ (32 * F.w * b.2) + b.1.2.1 * 2 ^ (8 * (252 + b.2))).sum
      done [.launch (.v g.d (BitVec.ofNat 2048 bits)) (raise (blocks.any fun b => b.2.2) fNX) 6]

/-- The shape under which an absent `vdqmx` is evaluated: its B field is read as a vector register (R45). -/
def Shape.absentVdqmx : Shape := { Shape.vvImm1 with b := .v }

/-- `vdqmx` (R180). -/
def State.vdqmx (s : State) (op : BitVec 8) (h : Shape) (g : G) (F : MxFmt) (present : Bool) : Out :=
  s.slotOp .v op h g true fun x =>
    if !present then h.extop x g
    else
      let f (i : Nat) : Lane :=
        let b := 2 * g.b.toNat + i / 32
        f32.finish .rne (F.scaled (mxElem F.w (x.va g) b (i % 32)) (mxScale (x.va g) b)) false
      done [.launch (.v g.d (mergeLanes 32 (x.lanes g) (x.vd g) fun i => BitVec.ofNat 32 (f i).bits))
        (laneFlags 32 64 (x.lanes g) fun i => (f i).flags) 4]

/-- `vlane` and `vunlane` (R181): the blocks' bits are moved, every other byte is copied. -/
def relaneVec (w : Nat) (toLane : Bool) (v : Vec) : Vec :=
  let n := 128 * w
  let blocks := (List.range 4).map fun b => relane w toLane (v.toNat / 2 ^ (32 * w * b) % 2 ^ (32 * w)) * 2 ^ (32 * w * b)
  BitVec.ofNat 2048 (v.toNat / 2 ^ n * 2 ^ n + blocks.sum)

/-- The element width that a code of `vlane` names (R181). -/
def laneWidth (c : BitVec 6) : Nat := match c.toNat with | 0 => 8 | 1 => 6 | _ => 4

/-! Reductions and scans (R182, R183). -/

/-- One level of the pairwise tree with its flags. -/
def treeLevel (f : Nat → Nat → Lane) : List Nat → List Nat × Flags
  | a :: b :: l =>
    let r := f a b
    let (t, fl) := treeLevel f l
    (r.bits :: t, r.flags ||| fl)
  | l => (l, 0)

/-- Levels of the tree. -/
def treeFrom (f : Nat → Nat → Lane) (xs : List Nat) (fl : Flags) : Nat → List Nat × Flags
  | 0 => (xs, fl)
  | n + 1 =>
    let (ys, g) := treeLevel f xs
    treeFrom f ys (fl ||| g) n

/-- The doubling order of a scan: level l with distance 2^l. -/
def scanFrom (f : Nat → Nat → Lane) (xs : List Nat) (fl : Flags) (d : Nat) : Nat → List Nat × Flags
  | 0 => (xs, fl)
  | n + 1 =>
    let rs := (xs.drop d).zipWith (fun hi lo => f lo hi) xs
    scanFrom f (xs.take d ++ rs.map (·.bits)) (rs.foldl (fun a r => a ||| r.flags) fl) (2 * d) n

/-- The 32-bit lanes of a register. -/
def lanes32 (v : Vec) : List Nat := (List.range 64).map (laneNat 32 v)

/-- A reduction: the result in every governed lane, the flags of every internal operation (R182). -/
def State.vred (s : State) (op : BitVec 8) (h : Shape) (g : G) (f : Nat → Nat → Lane) : Out :=
  s.slotOp .v op h g true fun x =>
    let (t, fl) := treeFrom f (lanes32 (x.va g)) 0 6
    done [.launch (.v g.d (mergeLanes 32 (x.lanes g) (x.vd g) fun _ => BitVec.ofNat 32 (t.getD 0 0))) fl 8]

/-- A scan (R183). -/
def State.vscan (s : State) (op : BitVec 8) (h : Shape) (g : G) (f : Nat → Nat → Lane) : Out :=
  s.slotOp .v op h g true fun x =>
    let (t, fl) := scanFrom f (lanes32 (x.va g)) 0 1 6
    done [.launch (.v g.d (mergeLanes 32 (x.lanes g) (x.vd g) fun i => BitVec.ofNat 32 (t.getD i 0))) fl 8]

/-- An i32 sum without flags. -/
def addI32 (a b : Nat) : Lane := ⟨(a + b) % 2 ^ 32, 0⟩
/-- The signed maximum without flags. -/
def maxI32 (a b : Nat) : Lane := ⟨if (BitVec.ofNat 32 a).slt (BitVec.ofNat 32 b) then b else a, 0⟩

/-! The instructions. -/

/-- VFADD (R172). -/
def execVfadd (g : G) (s : State) : Out :=
  s.vf2 0x40 .vvv g f32 f32.add

/-- VFSUB (R172). -/
def execVfsub (g : G) (s : State) : Out :=
  s.vf2 0x41 .vvv g f32 f32.sub

/-- VFMUL (R172). -/
def execVfmul (g : G) (s : State) : Out :=
  s.vf2 0x42 .vvv g f32 f32.mul

/-- VFMA (R172). -/
def execVfma (g : G) (s : State) : Out :=
  s.vf3 0x43 .vvvD g f32 f32.fma

/-- VFMS (R172). -/
def execVfms (g : G) (s : State) : Out :=
  s.vf3 0x44 .vvvD g f32 f32.fms

/-- VFMIN (R173). -/
def execVfmin (g : G) (s : State) : Out :=
  s.vf2 0x45 .vvv g f32 f32.min

/-- VFMAX (R173). -/
def execVfmax (g : G) (s : State) : Out :=
  s.vf2 0x46 .vvv g f32 f32.max

/-- VFABS (R172). -/
def execVfabs (g : G) (s : State) : Out :=
  s.vlane1 0x47 .unaryV g 32 fun a => a &&& BitVec.ofNat 32 (2 ^ 31 - 1)

/-- VFNEG (R172). -/
def execVfneg (g : G) (s : State) : Out :=
  s.vlane1 0x48 .unaryV g 32 fun a => a ^^^ BitVec.ofNat 32 (2 ^ 31)

/-- VFCMP_EQ (R174). -/
def execVfcmpEq (g : G) (s : State) : Out :=
  s.vfcmp 0x49 .kvv g f32 f32.cmpEq

/-- VFCMP_LT (R174). -/
def execVfcmpLt (g : G) (s : State) : Out :=
  s.vfcmp 0x4A .kvv g f32 f32.cmpLt

/-- VFCMP_LE (R174). -/
def execVfcmpLe (g : G) (s : State) : Out :=
  s.vfcmp 0x4B .kvv g f32 f32.cmpLe

/-- VRCP (R175). -/
def execVrcp (g : G) (s : State) : Out :=
  s.vtrans 0x4C .unaryV g rcpF32

/-- VRSQRT (R175). -/
def execVrsqrt (g : G) (s : State) : Out :=
  s.vtrans 0x4D .unaryV g rsqrtF32

/-- VEXP2 (R175). -/
def execVexp2 (g : G) (s : State) : Out :=
  s.vtrans 0x4E .unaryV g exp2F32

/-- VLOG2 (R175). -/
def execVlog2 (g : G) (s : State) : Out :=
  s.vtrans 0x4F .unaryV g log2F32

/-- VFADD_F16 (R172). -/
def execVfaddF16 (g : G) (s : State) : Out :=
  s.vf2 0x50 .vvv g f16 f16.add

/-- VFSUB_F16 (R172). -/
def execVfsubF16 (g : G) (s : State) : Out :=
  s.vf2 0x51 .vvv g f16 f16.sub

/-- VFMUL_F16 (R172). -/
def execVfmulF16 (g : G) (s : State) : Out :=
  s.vf2 0x52 .vvv g f16 f16.mul

/-- VFMA_F16 (R172). -/
def execVfmaF16 (g : G) (s : State) : Out :=
  s.vf3 0x53 .vvvD g f16 f16.fma

/-- VFMS_F16 (R172). -/
def execVfmsF16 (g : G) (s : State) : Out :=
  s.vf3 0x54 .vvvD g f16 f16.fms

/-- VFMIN_F16 (R173). -/
def execVfminF16 (g : G) (s : State) : Out :=
  s.vf2 0x55 .vvv g f16 f16.min

/-- VFMAX_F16 (R173). -/
def execVfmaxF16 (g : G) (s : State) : Out :=
  s.vf2 0x56 .vvv g f16 f16.max

/-- VFABS_F16 (R172). -/
def execVfabsF16 (g : G) (s : State) : Out :=
  s.vlane1 0x57 .unaryV g 16 fun a => a &&& BitVec.ofNat 16 (2 ^ 15 - 1)

/-- VFNEG_F16 (R172). -/
def execVfnegF16 (g : G) (s : State) : Out :=
  s.vlane1 0x58 .unaryV g 16 fun a => a ^^^ BitVec.ofNat 16 (2 ^ 15)

/-- VFCMP_EQ_F16 (R174). -/
def execVfcmpEqF16 (g : G) (s : State) : Out :=
  s.vfcmp 0x59 .kvv g f16 f16.cmpEq

/-- VFCMP_LT_F16 (R174). -/
def execVfcmpLtF16 (g : G) (s : State) : Out :=
  s.vfcmp 0x5A .kvv g f16 f16.cmpLt

/-- VFCMP_LE_F16 (R174). -/
def execVfcmpLeF16 (g : G) (s : State) : Out :=
  s.vfcmp 0x5B .kvv g f16 f16.cmpLe

/-- VFADD_BF16 (R172). -/
def execVfaddBf16 (g : G) (s : State) : Out :=
  s.vf2 0x60 .vvv g bf16 bf16.add

/-- VFSUB_BF16 (R172). -/
def execVfsubBf16 (g : G) (s : State) : Out :=
  s.vf2 0x61 .vvv g bf16 bf16.sub

/-- VFMUL_BF16 (R172). -/
def execVfmulBf16 (g : G) (s : State) : Out :=
  s.vf2 0x62 .vvv g bf16 bf16.mul

/-- VFMA_BF16 (R172). -/
def execVfmaBf16 (g : G) (s : State) : Out :=
  s.vf3 0x63 .vvvD g bf16 bf16.fma

/-- VFMS_BF16 (R172). -/
def execVfmsBf16 (g : G) (s : State) : Out :=
  s.vf3 0x64 .vvvD g bf16 bf16.fms

/-- VFMIN_BF16 (R173). -/
def execVfminBf16 (g : G) (s : State) : Out :=
  s.vf2 0x65 .vvv g bf16 bf16.min

/-- VFMAX_BF16 (R173). -/
def execVfmaxBf16 (g : G) (s : State) : Out :=
  s.vf2 0x66 .vvv g bf16 bf16.max

/-- VFABS_BF16 (R172). -/
def execVfabsBf16 (g : G) (s : State) : Out :=
  s.vlane1 0x67 .unaryV g 16 fun a => a &&& BitVec.ofNat 16 (2 ^ 15 - 1)

/-- VFNEG_BF16 (R172). -/
def execVfnegBf16 (g : G) (s : State) : Out :=
  s.vlane1 0x68 .unaryV g 16 fun a => a ^^^ BitVec.ofNat 16 (2 ^ 15)

/-- VFCMP_EQ_BF16 (R174). -/
def execVfcmpEqBf16 (g : G) (s : State) : Out :=
  s.vfcmp 0x69 .kvv g bf16 bf16.cmpEq

/-- VFCMP_LT_BF16 (R174). -/
def execVfcmpLtBf16 (g : G) (s : State) : Out :=
  s.vfcmp 0x6A .kvv g bf16 bf16.cmpLt

/-- VFCMP_LE_BF16 (R174). -/
def execVfcmpLeBf16 (g : G) (s : State) : Out :=
  s.vfcmp 0x6B .kvv g bf16 bf16.cmpLe

/-- VCVT_F16_F32 (R176). -/
def execVcvtF16F32 (g : G) (s : State) : Out :=
  s.vfl 0x70 .vvv g 16 3 fun x j => f32.convert f16 .rne (x.narrow g j)

/-- VCVT_BF16_F32 (R176). -/
def execVcvtBf16F32 (g : G) (s : State) : Out :=
  s.vfl 0x71 .vvv g 16 3 fun x j => f32.convert bf16 .rne (x.narrow g j)

/-- VCVT_F32_F16 (R176). -/
def execVcvtF32F16 (g : G) (s : State) : Out :=
  s.vfl 0x72 .vvImm1 g 32 3 fun x i => f16.convert f32 .rne (laneNat 16 (x.va g) (64 * g.b.toNat + i))

/-- VCVT_F32_BF16 (R176). -/
def execVcvtF32Bf16 (g : G) (s : State) : Out :=
  s.vfl 0x73 .vvImm1 g 32 3 fun x i => bf16.convert f32 .rne (laneNat 16 (x.va g) (64 * g.b.toNat + i))

/-- VCVT_I32_F32 (R176). -/
def execVcvtI32F32 (g : G) (s : State) : Out :=
  s.vfl 0x74 .unaryV g 32 3 fun x i =>
    ⟨(f32.toInt .rne 32 (laneNat 32 (x.va g) i)).1.toNat, (f32.toInt .rne 32 (laneNat 32 (x.va g) i)).2⟩

/-- VCVT_I32_F32_RZ (R176). -/
def execVcvtI32F32Rz (g : G) (s : State) : Out :=
  s.vfl 0x75 .unaryV g 32 3 fun x i =>
    ⟨(f32.toInt .rtz 32 (laneNat 32 (x.va g) i)).1.toNat, (f32.toInt .rtz 32 (laneNat 32 (x.va g) i)).2⟩

/-- VCVT_F32_I32 (R176). -/
def execVcvtF32I32 (g : G) (s : State) : Out :=
  s.vfl 0x76 .unaryV g 32 3 fun x i => f32.ofInt (lane 32 (x.va g) i).toInt

/-- VSR_BF16_F32 (R177). -/
def execVsrBf16F32 (g : G) (s : State) : Out :=
  s.vfl 0x77 .vvvD g 16 6 fun x j => f32.convert bf16 (.sr (laneNat 16 (x.vd g) j)) (x.narrow g j)

/-- VSR_F16_F32 (R177). -/
def execVsrF16F32 (g : G) (s : State) : Out :=
  s.vfl 0x78 .vvvD g 16 6 fun x j => f32.convert f16 (.sr (laneNat 16 (x.vd g) j)) (x.narrow g j)

/-- VQMX_E4M3 (R179). -/
def execVqmxE4m3 (g : G) (s : State) : Out :=
  s.vqmx 0x79 .plainVvv g mxE4m3 false true

/-- VQMX_E5M2 (R179). -/
def execVqmxE5m2 (g : G) (s : State) : Out :=
  s.vqmx 0x7A .plainVvv g mxE5m2 false true

/-- VQMX_E3M2 (R179). -/
def execVqmxE3m2 (g : G) (s : State) : Out :=
  s.vqmx 0x7B .plainVvv g mxE3m2 false s.mx6

/-- VQMX_E2M3 (R179). -/
def execVqmxE2m3 (g : G) (s : State) : Out :=
  s.vqmx 0x7C .plainVvv g mxE2m3 false s.mx6

/-- VQMX_E2M1 (R179). -/
def execVqmxE2m1 (g : G) (s : State) : Out :=
  s.vqmx 0x7D .plainVvv g mxE2m1 false true

/-- VQMX_MXI8 (R179). -/
def execVqmxMxi8 (g : G) (s : State) : Out :=
  s.vqmx 0x7E .plainVvv g mxI8 false true

/-- VQMX_SR_E4M3 (R179). -/
def execVqmxSrE4m3 (g : G) (s : State) : Out :=
  s.vqmx 0x80 .plainVvvD g mxE4m3 true true

/-- VQMX_SR_E5M2 (R179). -/
def execVqmxSrE5m2 (g : G) (s : State) : Out :=
  s.vqmx 0x81 .plainVvvD g mxE5m2 true true

/-- VQMX_SR_E3M2 (R179). -/
def execVqmxSrE3m2 (g : G) (s : State) : Out :=
  s.vqmx 0x82 .plainVvvD g mxE3m2 true s.mx6

/-- VQMX_SR_E2M3 (R179). -/
def execVqmxSrE2m3 (g : G) (s : State) : Out :=
  s.vqmx 0x83 .plainVvvD g mxE2m3 true s.mx6

/-- VQMX_SR_E2M1 (R179). -/
def execVqmxSrE2m1 (g : G) (s : State) : Out :=
  s.vqmx 0x84 .plainVvvD g mxE2m1 true true

/-- VQMX_SR_MXI8 (R179). -/
def execVqmxSrMxi8 (g : G) (s : State) : Out :=
  s.vqmx 0x85 .plainVvvD g mxI8 true true

/-- VDQMX_E4M3 (R180). -/
def execVdqmxE4m3 (g : G) (s : State) : Out :=
  s.vdqmx 0x88 .vvImm1 g mxE4m3 true

/-- VDQMX_E5M2 (R180). -/
def execVdqmxE5m2 (g : G) (s : State) : Out :=
  s.vdqmx 0x89 .vvImm1 g mxE5m2 true

/-- VDQMX_E3M2 (R180). -/
def execVdqmxE3m2 (g : G) (s : State) : Out :=
  s.vdqmx 0x8A (if s.mx6 then .vvImm1 else .absentVdqmx) g mxE3m2 s.mx6

/-- VDQMX_E2M3 (R180). -/
def execVdqmxE2m3 (g : G) (s : State) : Out :=
  s.vdqmx 0x8B (if s.mx6 then .vvImm1 else .absentVdqmx) g mxE2m3 s.mx6

/-- VDQMX_E2M1 (R180). -/
def execVdqmxE2m1 (g : G) (s : State) : Out :=
  s.vdqmx 0x8C .vvImm1 g mxE2m1 true

/-- VDQMX_MXI8 (R180). -/
def execVdqmxMxi8 (g : G) (s : State) : Out :=
  s.vdqmx 0x8D .vvImm1 g mxI8 true

/-- VLANE (R181). -/
def execVlane (g : G) (s : State) : Out :=
  s.slotOp .v 0x9B .plainVvImm2 g true fun x =>
    done [.launch (.v g.d (relaneVec (laneWidth g.b) true (x.va g))) 0 3]

/-- VUNLANE (R181). -/
def execVunlane (g : G) (s : State) : Out :=
  s.slotOp .v 0x9C .plainVvImm2 g true fun x =>
    done [.launch (.v g.d (relaneVec (laneWidth g.b) false (x.va g))) 0 3]

/-- VRED_ADD_F32 (R182). -/
def execVredAddF32 (g : G) (s : State) : Out :=
  s.vred 0xA0 .unaryV g f32.add

/-- VRED_MAX_F32 (R182). -/
def execVredMaxF32 (g : G) (s : State) : Out :=
  s.vred 0xA1 .unaryV g f32.max

/-- VRED_MIN_F32 (R182). -/
def execVredMinF32 (g : G) (s : State) : Out :=
  s.vred 0xA2 .unaryV g f32.min

/-- VRED_ADD_I32 (R182). -/
def execVredAddI32 (g : G) (s : State) : Out :=
  s.vred 0xA3 .unaryV g addI32

/-- VSCAN_ADD_F32 (R183). -/
def execVscanAddF32 (g : G) (s : State) : Out :=
  s.vscan 0xA4 .unaryV g f32.add

/-- VSCAN_MAX_I32 (R155, R183). -/
def execVscanMaxI32 (g : G) (s : State) : Out :=
  s.vscan 0xA5 .unaryV g maxI32

/-- VSCAN_ADD_I32 (R183). -/
def execVscanAddI32 (g : G) (s : State) : Out :=
  s.vscan 0xA6 .unaryV g addI32

end Sys2Proof.Machine
end

