-- ==== Sys2Proof/Machine/MatrixUnit.lean ====
section
/-!
DEFINITION. The matrix engine: operands as read (R192), group sums (R164, R166), accumulator updates (R167, R196),
steps in both orders (R193 to R195), the checksum row (R207), the drain (R205, R206, R208).
-/

namespace Sys2Proof.Machine

/-! Operands (R161, R162, R192). -/

/-- The bytes of a view in element order, vacant ones read as fill (R152, R159). -/
def Core.viewBytes (k : Core) (mx6 : Bool) (e : Rec64) : List Byte :=
  ((viewRuns mx6 e).map fun r => k.mem.loads r.at_ r.len).flatten

/-- A number from n bytes of an array at a place, lowest first. -/
def arrNat (a : Array Byte) (i : Nat) : Nat → Nat
  | 0 => 0
  | n + 1 => (a.getD i 0xFF).toNat + 256 * arrNat a (i + 1) n

/-- An operand: its 128 × 128 element values, row by row, without block scales, and its scale bytes, four to a row;
0x7F, which is 1, where there is none (R160). -/
structure Operand where
  vals : Array Val
  scales : Array Nat

/-- The operand that a view's bytes stand for. -/
def operandOf (mx6 : Bool) (e : Rec64) (bytes : List Byte) : Operand :=
  let a := bytes.toArray
  let w := fmtBits mx6 (palFmt e)
  if isMx (palFmt e) then
    let F := mxOf (palFmt e)
    let stride := 4 * w + (if vwScv e then 1 else 0)
    let blocks := (Array.range 512).map fun b => arrNat a (b * stride) (4 * w)
    { vals := (Array.range 16384).map fun i =>
        F.value ((blocks.getD (i / 32) 0) / 2 ^ lanePos w (vwLane e) (i % 32) % 2 ^ w)
      scales := (Array.range 512).map fun b => if vwScv e then (a.getD (b * stride + 4 * w) 0xFF).toNat else 0x7F }
  else
    let F := if palFmt e = 3 then bf16 else f16
    { vals := (Array.range 16384).map fun i => F.value (arrNat a (2 * i) 2)
      scales := Array.replicate 512 0x7F }

/-- A 128 × 128 array read row by row, or column by column. -/
def turned {α : Type} (d : α) (t : Bool) (a : Array α) : Array α :=
  if t then (Array.range 16384).map fun i => a.getD (i % 128 * 128 + i / 128) d else a

/-- The value of an element with its block's scale applied (R160). -/
def withScale (v : Val) (scale : Nat) : Val := if scale = 0xFF then .nan false else v.shift ((scale : Int) - 127)

/-- A as its rows, or B as its columns, K innermost: element (line i, K index k) at 128 i + k. For A `t` is `.ta`; for
B it is the absence of `.tb` (R192). -/
def Operand.lines (o : Operand) (t : Bool) : Array Val := turned (Val.nan false) t o.vals

/-- The same with the scales applied; scales exist only where lines are rows of the view. -/
def Operand.scaledLines (o : Operand) (t : Bool) : Array Val :=
  if t then o.lines t
  else (Array.range 16384).map fun i => withScale (o.vals.getD i (Val.nan false)) (o.scales.getD (i / 32) 0x7F)

/-! Group sums and updates. -/

/-- A product truncated toward zero to a multiple of 2^base (R166). -/
def truncTo (base : Int) : Val → Int
  | .fin n m e =>
    let q : Nat := if base ≤ e then m * 2 ^ (e - base).toNat else m / 2 ^ (base - e).toNat
    if n then -(q : Int) else q
  | _ => 0

/-- The largest leading exponent of nonzero finite products. -/
def leadExp (ps : List Val) : Option Int := amaxTop ps

/-- The group sum of 32 products, without scales (R166). -/
def groupSum (ps : List Val) : Val :=
  if ps.any Val.isNan then .nan false
  else
    let pos := ps.any (· == .inf false)
    let neg := ps.any (· == .inf true)
    if pos && neg then .nan false
    else if pos then .inf false
    else if neg then .inf true
    else match leadExp ps with
    | none => .fin false 0 0
    | some E =>
      let base := E - 64
      let t := (ps.map (truncTo base)).sum
      .fin (decide (t < 0)) t.natAbs base

/-- An accumulator as worked on: its elements row by row, and the counters of R196. -/
structure AccWork where
  arr : Array (BitVec 32)
  inx : Nat
  ovf : Nat
  nan : Nat

/-- One update of an element by a group sum (R167, R196). -/
def AccWork.update (w : AccWork) (n : Nat) (S : Val) : AccWork :=
  let old := f32.value (w.arr.getD n 0).toNat
  let sum := old.add S
  let r : Rounded := match sum with
    | .fin _ m e => f32.round .rne m e false
    | _ => ⟨0, false, false, false⟩
  { arr := w.arr.setIfInBounds n (BitVec.ofNat 32 (f32.bitsOf .rne sum))
    inx := w.inx + (if r.nx then 1 else 0)
    ovf := w.ovf + (if old.isFin && S.isFin && r.ov then 1 else 0)
    nan := w.nan + (if sum.isNan && !old.isNan then 1 else 0) }

/-- An accumulator opened for work. -/
def Acc.open_ (a : Acc) : AccWork :=
  { arr := a.cells.foldl (fun arr c => arr.setIfInBounds c.1 c.2) (Array.replicate 16384 0)
    inx := a.inx, ovf := a.ovf, nan := a.nan }

/-- The elements of an array that are not +0. -/
def accCells (arr : Array (BitVec 32)) : List (Nat × BitVec 32) :=
  arr.toList.zipIdx.filterMap fun x => if x.1 = 0 then none else some (x.2, x.1)

/-- An accumulator with the outcome of some work. -/
def Acc.close (a : Acc) (w : AccWork) : Acc :=
  { a with cells := accCells w.arr, inx := w.inx, ovf := w.ovf, nan := w.nan }

/-- A 64 × 64 factor of a step: its lines, K innermost, and two block scales a line. -/
structure Factor where
  vals : Array Val
  scales : Array Nat

/-- The group g of line i of a factor. -/
def Factor.group (f : Factor) (i g : Nat) : List Val :=
  (List.range 32).map fun k => f.vals.getD (64 * i + 32 * g + k) (Val.nan false)

/-- The group sum of line i of X and line j of Y, scales applied (R166). -/
def factorSum (X Y : Factor) (xg : Array (List Val)) (yg : Array (List Val)) (i j g : Nat) : Val :=
  let sa := X.scales.getD (2 * i + g) 0x7F
  let sb := Y.scales.getD (2 * j + g) 0x7F
  if sa = 0xFF ∨ sb = 0xFF then .nan false
  else (groupSum (List.zipWith Val.mul (xg.getD (2 * i + g) []) (yg.getD (2 * j + g) []))).shift
    ((sa : Int) - 127 + (sb - 127))

/-- A target quadrant of a step: its first row and column, and whether the group sums are subtracted (R194, R195). -/
structure Target where
  row : Nat
  col : Nat
  neg : Bool

/-- The updates of one step: each element, groups in ascending K, targets in order (R194, R195). -/
def AccWork.step (w : AccWork) (X Y : Factor) (ts : List Target) : AccWork :=
  let xg := (Array.range 128).map fun n => X.group (n / 2) (n % 2)
  let yg := (Array.range 128).map fun n => Y.group (n / 2) (n % 2)
  (List.range 64).foldl (fun w i => (List.range 64).foldl (fun w j => (List.range 2).foldl (fun w g =>
    let S := factorSum X Y xg yg i j g
    ts.foldl (fun w t => w.update ((t.row + i) * 128 + t.col + j) (if t.neg then S.neg else S)) w) w) w) w

/-- A quadrant of lines: lines 64 p on, K from 64 q on. -/
def quadrant (lines : Array Val) (scales : Array Nat) (p q : Nat) : Factor :=
  { vals := (Array.range 4096).map fun i => lines.getD ((64 * p + i / 64) * 128 + 64 * q + i % 64) (Val.nan false)
    scales := (Array.range 128).map fun i => scales.getD ((64 * p + i / 2) * 4 + 2 * q + i % 2) 0x7F }

/-- A pre-addition, element by element, rounded once into W (R164). -/
def preAdd (a b : Factor) (sub : Bool) : Factor :=
  { a with vals := Array.zipWith (fun x y => fW.fit .rne (x.add (if sub then y.neg else y))) a.vals b.vals }

/-- Step n of classical order: the quadrants of A and B and the target (R194). -/
def classicalStep (A B : Array Val) (sA sB : Array Nat) (n : Nat) : Factor × Factor × List Target :=
  let q := n / 2
  let h := n % 2
  (quadrant A sA (q / 2) h, quadrant B sB (q % 2) h, [⟨64 * (q / 2), 64 * (q % 2), false⟩])

/-- Step n of recombination (R195). Lines of B are its columns: quadrant B_pq is line block q, K block p. -/
def recombStep (A B : Array Val) (n : Nat) : Factor × Factor × List Target :=
  let one := Array.replicate 512 0x7F
  let a (p q : Nat) : Factor := quadrant A one (p - 1) (q - 1)
  let b (p q : Nat) : Factor := quadrant B one (q - 1) (p - 1)
  let c11 := Target.mk 0 0
  let c12 := Target.mk 0 64
  let c21 := Target.mk 64 0
  let c22 := Target.mk 64 64
  match n with
  | 0 => (preAdd (a 1 1) (a 2 2) false, preAdd (b 1 1) (b 2 2) false, [c11 false, c22 false])
  | 1 => (preAdd (a 2 1) (a 2 2) false, b 1 1, [c21 false, c22 true])
  | 2 => (a 1 1, preAdd (b 1 2) (b 2 2) true, [c12 false, c22 false])
  | 3 => (a 2 2, preAdd (b 2 1) (b 1 1) true, [c11 false, c21 false])
  | 4 => (preAdd (a 1 1) (a 1 2) false, b 2 2, [c11 true, c12 false])
  | 5 => (preAdd (a 2 1) (a 1 1) true, preAdd (b 1 1) (b 1 2) false, [c22 false])
  | _ => (preAdd (a 1 2) (a 2 2) true, preAdd (b 2 1) (b 2 2) false, [c11 false])

/-- Step n of a command on an accumulator. -/
def mmqStep (mx6 : Bool) (c : MxCmd) (rc ta tb : Bool) (acc : Acc) (n : Nat) : Acc :=
  let oa := operandOf mx6 c.a c.opA
  let ob := operandOf mx6 c.b c.opB
  let (X, Y, ts) := if rc then recombStep (oa.scaledLines ta) (ob.scaledLines !tb) n
    else classicalStep (oa.lines ta) (ob.lines !tb) oa.scales ob.scales n
  acc.close (acc.open_.step X Y ts)

/-! The checksum row (R207). -/

/-- The magnitude of a value. -/
def Val.mag : Val → Val
  | .fin _ m e => .fin false m e
  | .inf _ => .inf false
  | v => v

/-- The sum of values, exactly. -/
def vsum (l : List Val) : Val := l.foldl Val.add (.fin false 0 0)

/-- The larger of two magnitudes; a NaN stays. -/
def vmaxMag (a b : Val) : Val := if a.isNan then a else if b.isNan then b.mag else if a.lt b.mag then b.mag else a

/-- A binary64 value increased by an exact one, rounded once. -/
def add64 (x : BitVec 64) (v : Val) : BitVec 64 := BitVec.ofNat 64 (f64.bitsOf .rne ((f64.value x.toNat).add v))

/-- The checksum state after a command (R207). -/
def checksum (mx6 : Bool) (c : MxCmd) (rc ta tb : Bool) (acc : Acc) : Acc :=
  let A := (operandOf mx6 c.a c.opA).scaledLines ta
  let B := (operandOf mx6 c.b c.opB).scaledLines !tb
  let at_ (x : Array Val) (i k : Nat) : Val := x.getD (128 * i + k) (Val.nan false)
  let r := (Array.range 128).map fun k => vsum ((List.range 128).map fun i => at_ A i k)
  let q := (Array.range 128).map fun k => vsum ((List.range 128).map fun i => (at_ A i k).mag)
  let dot (f : Val → Val) (x : Array Val) (j : Nat) : Val :=
    vsum ((List.range 128).map fun k => (x.getD k (Val.nan false)).mul (f (at_ B j k)))
  let upd (l : List (Nat × BitVec 64)) (f : Val → Val) (x : Array Val) : List (Nat × BitVec 64) :=
    tabEntries 0 0 ((List.range 128).map fun j => add64 (tabGet 0 l j) (dot f x j))
  let big (x : Array Val) : Val := x.foldl vmaxMag (.fin false 0 0)
  { acc with
    ck := upd acc.ck id r
    mg := upd acc.mg Val.mag q
    g := acc.g + (if rc then 8 else 4)
    rho := if rc then add64 acc.rho (((big A).mul (big B)).shift 5) else acc.rho }

/-- The first column that fails its test (R207). -/
def Acc.failing (a : Acc) : Option Nat :=
  let arr := a.open_.arr
  (List.range 128).find? fun j =>
    let s := vsum ((List.range 128).map fun i => f32.value (arr.getD (128 * i + j) 0).toNat)
    let ck := f64.value (tabGet 0 a.ck j).toNat
    let mg := f64.value (tabGet 0 a.mg j).toNat
    let rho := f64.value a.rho.toNat
    s.isFin && ck.isFin && mg.isFin && rho.isFin &&
      (((mg.mul (.fin false a.g 0)).shift (-23)).add rho).lt (s.add ck.neg).mag

/-! Timing (R193, R198). -/

/-- Beats of a step and the consumed cycle for a format. -/
def beatsOf (f : Nat) : Nat × Nat := match f with
  | 0x10 => (32, 132) | 0x11 => (32, 132) | 0x12 => (32, 100) | 0x13 => (32, 100) | 0x14 => (16, 68) | 0x15 => (64, 132)
  | _ => (64, 260)

/-- Whether a command runs in recombination. -/
def MxOp.rc : MxOp → Bool
  | .mmq _ rc _ _ => rc
  | .mzero => false

/-- Steps of a command. -/
def MxCmd.steps (c : MxCmd) : Nat := if c.op.rc then 7 else 8

/-- The cycle in which the operands are consumed, counted from a start. -/
def MxCmd.consumedAt (c : MxCmd) (start : Nat) : Nat := start + (beatsOf (palFmt c.a)).2

/-- The lead of a command, which forms the first operands (R193). -/
def MxCmd.lead (c : MxCmd) : Nat := if c.op.rc then 32 else 16

/-- The cycle of the step boundary that is n steps after a start or restart (R193, R198). -/
def MxCmd.boundaryAt (c : MxCmd) (start n : Nat) : Nat :=
  if n = 0 then start else start + c.lead + (beatsOf (palFmt c.a)).1 * n + 8

/-- The cycle in which the next step's updates have landed; the last step of a resumed command also waits until 8 cycles after the
operands are consumed. `mzero` is done 4 cycles after its start (R193, R198, R199). -/
def MxCmd.stepAt (c : MxCmd) (start : Nat) : Nat := match c.op with
  | .mzero => start + 4
  | .mmq _ _ _ _ =>
    let t := c.boundaryAt start (c.step + 1 - c.firstStep)
    if c.step + 1 = c.steps ∧ c.firstStep ≠ 0 then max t (c.consumedAt start + 8) else t

/-- Whether a pre-emption waits for a command: one past its operands, or one that stands at no step boundary in a cycle (R198). -/
def MxCmd.runsOn (c : MxCmd) (cycle : Nat) : Bool := match c.op, c.started with
  | .mmq _ _ _ _, some t => c.consumed || cycle != c.boundaryAt t (c.step - c.firstStep)
  | _, _ => false

/-- The context that a core's matrix engine serves. -/
def State.mxCtx (s : State) (c : CoreRef) : CtxRef := ⟨c, (s.core c).mx.owner == some true⟩

/-- Whether the context that a core's matrix engine serves is to be pre-empted: no command of its queue starts, and a running `mmq` that
has not consumed its operands stops at its next step boundary (R198, R314). -/
def State.mxHalted (s : State) (c : CoreRef) : Bool := (s.core c).mx.owner.isSome && (s.ctx (s.mxCtx c)).preempt

/-- Accumulator 0 or 1. -/
def Matrix.acc (m : Matrix) (i : Bool) : Acc := if i then m.acc1 else m.acc0

/-- Replaces an accumulator. -/
def Matrix.setAcc (m : Matrix) (i : Bool) (a : Acc) : Matrix := if i then { m with acc1 := a } else { m with acc0 := a }

/-- Whether the head of the queue may start: the one before is done, and earlier drains of its accumulator have read
their last row (R152, R199, R206). -/
def Matrix.startable (m : Matrix) (cycle : Nat) (c : MxCmd) : Bool :=
  c.started.isNone && decide (m.readyAt ≤ cycle) && m.drains.all fun d =>
    d.acc != c.acc || decide (c.id < d.id) || match d.started with
      | some t => decide (t + 128 ≤ cycle)
      | none => false

/-- The sectors of a command's operands. -/
def MxCmd.sectors (mx6 : Bool) (c : MxCmd) : List Nat := runSectors (viewRuns mx6 c.a ++ viewRuns mx6 c.b)

/-- What an engine command of a context reads of the scratchpad: runs of views, each with its Palette id. -/
abbrev Reading := List (Nat × Rec64 × Run)

/-- The reading of a view. -/
def reading (id : Nat) (v : Rec64) (runs : List Run) : Reading := runs.map fun e => (id, v, e)

/-- The operands that a matrix command reads as it starts (R152, R198). -/
def MxCmd.reads (mx6 : Bool) (c : MxCmd) : Reading := match c.op with
  | .mzero => []
  | .mmq _ _ _ _ => if c.consumed then [] else reading c.aId c.a (viewRuns mx6 c.a) ++ reading c.bId c.b (viewRuns mx6 c.b)

/-- The bias that a drain reads as it starts (R205). -/
def Drain.reads (d : Drain) : Reading := match d.bias with
  | some v => reading d.biasId v (Sys2Proof.Machine.biasRuns v)
  | none => []

/-- Whether a reading finds an uncorrectable word first. -/
def Core.finds (k : Core) (rd : Reading) : Bool := rd.any fun e => !(k.mem.foundRead e.2.2.at_ e.2.2.len).isEmpty

/-- Whether a command that would find an uncorrectable word waits, for its context's trap queue is full (R96). -/
def State.findsFull (s : State) (c : CoreRef) (r : CtxRef) (node : Nat) (rd : Reading) : Bool :=
  (s.core c).finds rd && match s.deliver r node ⟨0x23, 0, 0⟩ with
    | .full => true
    | _ => false

/-- A core whose scratchpad a reading has read: the segments return to power, single errors are corrected (R70, R94). -/
def Core.readIn (k : Core) (rd : Reading) : Core := rd.foldl (fun (k : Core) e =>
  { k.powerUp e.2.2.at_ e.2.2.len with mem := k.mem.correct e.2.2.at_ e.2.2.len }) k

/-- An engine command of a context reads local bytes, whose segments return to power: newly found words are poisoned and reported
with cause 0x02, or 0x03 where the command only moves, DEVUE for the first goes to the context, single errors are corrected (R70, R94, R105, R107). -/
def State.computeFound (s : State) (c : CoreRef) (r : CtxRef) (node job tenant scope tag : Nat) (rd : Reading) (cause : Nat := 0x02) : State :=
  let found (k : Core) (e : Run) : List Nat := k.mem.foundRead e.at_ e.len
  let s1 := rd.foldl (fun (a : State) e =>
    a.coreFound c cause 0x23 job tenant scope (found (a.core c) e.2.2) (some e.1)) s
  let s2 := s1.modCore c fun k => k.readIn rd
  match rd.find? fun e => !(found (s.core c) e.2.2).isEmpty with
  | none => s2
  | some (pal, v, e) =>
    let w := (found (s.core c) e).headD 0
    let opa := faultA 0x08 pal (8 * w)
    match s2.deliver r node ⟨0x23, opa, faultB tag e.batch (vwRow0 v + e.row)
        (vwCol0 v + e.col + (8 * w - e.at_) * 8 / (if e.bits = 0 then 8 else e.bits))⟩ with
    | .done s3 => s3
    | .full => s2
    | .gone => s2.report job (orphan c tenant scope 0x23 0 opa)

/-- The head of the matrix queue starts: `.z` and `mzero` clear the accumulator, an `mmq` reads its operands, poisoned
sectors poison the accumulator (R104, R152, R193, R196, R199). -/
def State.mxStart (s : State) (c : CoreRef) : State := match (s.core c).mx.queue with
  | [] => s
  | q :: qs =>
    let r := s.mxCtx c
    let x := s.ctx r
    if !(s.core c).mx.startable s.cycle q || s.mxHalted c || s.findsFull c r x.node (q.reads s.mx6) then s
    else match q.op with
    | .mzero => s.modCore c fun k =>
        { k with mx := ({ k.mx with queue := { q with started := some s.cycle } :: qs } : Matrix).setAcc q.acc Acc.zero }
    | .mmq z _ _ _ =>
      let s1 := s.computeFound c r x.node x.job x.spec.tenant.toNat x.spec.scope.toNat q.seq (q.reads s.mx6)
      s1.modCore c fun k =>
        let acc0 := if z && q.step == 0 then Acc.zero else k.mx.acc q.acc
        let pois := !q.consumed && (q.sectors s.mx6).any fun sec => setHas k.mem.pois sec
        let q1 : MxCmd := { q with
          started := some s.cycle
          firstStep := q.step
          opA := if q.consumed then q.opA else k.viewBytes s.mx6 q.a
          opB := if q.consumed then q.opB else k.viewBytes s.mx6 q.b }
        { k with mx := ({ k.mx with queue := q1 :: qs } : Matrix).setAcc q.acc { acc0 with pois := acc0.pois || pois } }

/-- The operands are consumed: holds end, the counter receives 1 (R197). -/
def State.mxConsume (s : State) (c : CoreRef) : State := match (s.core c).mx.queue with
  | [] => s
  | q :: qs => match q.op, q.started with
    | .mmq _ _ _ _, some t =>
      if q.consumed || decide (s.cycle < q.consumedAt t) then s
      else
        let r := s.mxCtx c
        let x := s.ctx r
        (s.modCore c fun k => { k with
          mx := { k.mx with queue := { q with consumed := true } :: qs }
          holds := k.holds.filter fun h => h.2 != q.id }).ask
            (addOf c (some r) q.ctr 1 x.node x.job x.spec.scope.toNat x.spec.tenant.toNat)
    | _, _ => s

/-- A step of the running command lands; with the last one the command is done, and at any other a command that a pre-emption finds
before its consumed cycle stops (R193, R196, R198, R207). -/
def State.mxStep (s : State) (c : CoreRef) : State := match (s.core c).mx.queue with
  | [] => s
  | q :: qs => match q.started with
    | none => s
    | some t =>
      if s.cycle < q.stepAt t then s
      else
        let done (k : Core) : Core := { k with mx := { k.mx with queue := qs, readyAt := s.cycle } }
        match q.op with
        | .mzero => s.modCore c done
        | .mmq _ rc ta tb =>
          let last := q.step + 1 == q.steps
          if last && !q.consumed then s
          else s.modCore c fun k =>
            let a := mmqStep s.mx6 q rc ta tb (k.mx.acc q.acc) q.step
            if last then
              let k1 := done k
              { k1 with mx := k1.mx.setAcc q.acc (checksum s.mx6 q rc ta tb a) }
            else
              let stops := s.mxHalted c && !q.consumed
              { k with mx := ({ k.mx with queue := { q with step := q.step + 1, started := if stops then none else q.started } :: qs } :
                  Matrix).setAcc q.acc a }

/-! The drain. -/

/-- An element widened to f32, exactly (R205, R212). -/
def widen (f b : Nat) : Nat := match f with
  | 1 => b
  | 3 => f32.bitsOf .rne (bf16.value b)
  | _ => f32.bitsOf .rne (f16.value b)

/-- An output element of a drain (R205). -/
def drainElem (epi : Rec64) (acc : Nat) (bias : Option Nat) (mode : Mode) : Nat :=
  let t0 := (f32.mul (epAlpha epi).toNat acc).bits
  let t1 := match bias with | some b => (f32.add t0 b).bits | none => t0
  let t2 :=
    if (f32.value t1).isNan then t1
    else match epAct epi with
    | 1 => if (Val.fin false 0 0).lt (f32.value t1) then t1 else 0
    | 2 => (f32.min (f32.max t1 (epClo epi).toNat).bits (epChi epi).toNat).bits
    | _ => t1
  match palFmt epi with
  | 1 => t2
  | 4 => (f32.toInt .rne 32 t2).1.toNat
  | 3 => bf16.bitsOf mode (f32.value t2)
  | _ => f16.bitsOf mode (f32.value t2)

/-- The bytes of the destination view, each row with its address (R205). -/
def Drain.rows (d : Drain) (coreId : W64) (acc : Acc) (bias : Nat → Option Nat) : List (Nat × List Byte) :=
  let arr := acc.open_.arr
  let size := fmtSize (palFmt d.epi)
  (List.range 128).map fun i =>
    (vwBase d.dst + 8 * vwPitch d.dst * i, ((List.range 128).map fun j =>
      let n := 128 * i + j
      let mode := if epMode d.epi = 1 then
          Mode.sr ((rngWord d.seed coreId (d.rctr + BitVec.ofNat 64 (n / 4))).toNat / 2 ^ (16 * (n % 4)) % 2 ^ 16)
        else .rne
      leBytes size (drainElem d.epi (arr.getD n 0).toNat (bias j) mode)).flatten)

/-- The bias of a drain: element (0, j), widened (R205). -/
def Core.biasOf (k : Core) (v : Rec64) (j : Nat) : Nat :=
  let size := fmtSize (palFmt v)
  widen (palFmt v) (leNat (k.mem.loads (vwBase v + size * j) size))

/-- The first drain starts, no operand hold lying on its destination (R197): the accumulator and the bias are read, the
checksum test is made, holds on the bias end (R205 to R208). -/
def State.drainStart (s : State) (c : CoreRef) : State := match (s.core c).mx.drains with
  | [] => s
  | d :: ds =>
    let waits := (s.core c).mx.queue.any fun q => d.after.contains q.id
    let held := (runSectors (viewRuns s.mx6 d.dst)).any fun sec => (s.core c).holds.any fun h => h.1 == sec && h.2 != d.id
    if d.started.isSome || waits || held || s.findsFull c d.ctx d.node d.reads then s
    else
      let s1 := s.computeFound c d.ctx d.node d.job d.tenant d.scope d.seq d.reads
      s1.modCore c fun k =>
        let a := k.mx.acc d.acc
        let biasPois := match d.bias with
          | some v => (runSectors (biasRuns v)).any fun sec => setHas k.mem.pois sec
          | none => false
        let pois := a.pois || biasPois
        let biasVals := match d.bias with
          | some v => (Array.range 128).map fun j => k.biasOf v j
          | none => #[]
        let d1 : Drain := { d with
          started := some s.cycle
          outPois := pois
          out := ((d.rows (coreIdReg c) a fun j => biasVals[j]?).map fun r =>
            r.2.zipIdx.map fun b => (r.1 + b.2, b.1)).flatten
          failCol := if pois then none else a.failing }
        { k with mx := { k.mx with drains := d1 :: ds }, holds := k.holds.filter fun h => h.2 != d.id }

/-- Runs of consecutive addresses of a list of bytes. -/
def byteRuns (l : List (Nat × Byte)) : List (Nat × List Byte) := runsOf (l.map fun b => (b.1, some b.2))

/-- The first drain leaves the epilogue engine; its destination is no longer pending. -/
def Core.endDrain (k : Core) (d : Drain) (ds : List Drain) : Core :=
  { k with mx := { k.mx with drains := ds }, pend := k.pend.filter fun t => t.2 != d.id
           holds := k.holds.filter fun h => h.2 != d.id }

/-- CHKF of an accumulator, where its owner's state is kept: the engine, or the image of a pre-empted node (R200). -/
def State.setChkf (s : State) (c : CoreRef) (d : Drain) (b : Bool) : State :=
  if (s.core c).mx.owner == some d.ctx.q && (s.ctx d.ctx).node == d.node then
    s.modCore c fun k => { k with mx := k.mx.setAcc d.acc { k.mx.acc d.acc with chkf := b } }
  else s.modNode d.node fun n => { n with image := n.image.map fun im => { im with mx := im.mx.map fun p =>
    if d.acc then (p.1, { p.2 with chkf := b }) else ({ p.1 with chkf := b }, p.2) } }

/-- A drain whose checksum test failed: its shadow is discarded and MXCHK raised, held while the context's queue is
full (R96, R207). -/
def State.drainFail (s : State) (c : CoreRef) (d : Drain) (ds : List Drain) (j : Nat) : State :=
  let opa := faultA 0x10 d.dstId (vwBase d.dst + fmtSize (palFmt d.dst) * j)
  let s1 := (s.modCore c fun k => k.endDrain d ds).setChkf c d true
  let s2 := s1.modJob d.job fun j => { j with counts.mxchk := j.counts.mxchk + 1 }
  match s2.deliver d.ctx d.node ⟨0x22, opa, faultB d.seq 0 (vwRow0 d.dst) (vwCol0 d.dst + j)⟩ with
  | .done s3 => s3
  | .full => s
  | .gone => s2.report d.job (orphan c d.tenant d.scope 0x22 0 opa)

/-- What a drain's publish leaves of its core: its sectors wholly written, zero outside the view, poisoned where an input was
(R104, R153, R206). -/
def Core.publishDrain (k : Core) (mx6 : Bool) (d : Drain) (ds : List Drain) : Core :=
  let secs := runSectors (viewRuns mx6 d.dst)
  let k1 := secs.foldl (fun (k : Core) sec => k.powerUp (32 * sec) 32) (k.endDrain d ds)
  let m0 := secs.foldl (fun (m : Scratch) sec => m.put (32 * sec) (List.replicate 32 0)) k1.mem
  let m1 := (byteRuns d.out).foldl (fun (m : Scratch) r => m.put r.1 r.2) m0
  { k1 with mem := if d.outPois then secs.foldl (fun (m : Scratch) sec => m.poison sec) m1 else m1 }

/-- The end of the running drain: in drain cycle 150 a failed test, in drain cycle 152 the publish, whose sectors are
wholly written, zero outside the view, then GEN and the counter; a killed drain is discarded (R153, R198, R206 to
R209). -/
def State.drainPublish (s : State) (c : CoreRef) : State := match (s.core c).mx.drains with
  | [] => s
  | d :: ds => match d.started with
    | none => s
    | some t =>
      if s.cycle < t + 150 then s
      else if d.discard then s.modCore c fun k => k.endDrain d ds
      else match d.failCol with
      | some j => s.drainFail c d ds j
      | none =>
        if s.cycle < t + 152 then s
        else
          let s1 := s.modCore c fun k => k.publishDrain s.mx6 d ds
          let s2 := if d.outPois then s1 else s1.setChkf c d false
          (s2.cmdBump (some d.ctx) d.node d.dstId).ask (addOf c (some d.ctx) d.ctr 1 d.node d.job d.scope d.tenant)

end Sys2Proof.Machine
end

