-- ==== Sys2Proof/Machine/Collective.lean ====
section
/-!
DEFINITION. Collectives on their rings and the Carux links that carry them (R211 to R213, R277 to R288, R330), and the
posting of `qpush` messages (R296). A collective's steps are numbered as R284 numbers them; in each it sends at most one
chunk and receives at most one.
-/

namespace Sys2Proof.Machine

/-! Links (R286, R287). -/

/-- A port's link. -/
def State.link (s : State) (port : Nat) : Link := (s.links.find? (·.port == port)).getD (Link.down port)

/-- Changes a link. -/
def State.modLink (s : State) (port : Nat) (f : Link → Link) : State :=
  { s with links := s.links.map fun l => if l.port == port then f l else l }

/-- Header doubleword 0 of a flit, SEQ aside (R286). -/
def flitHead (type : Nat) (stream : BitVec 8) (pois len : Nat) : W64 :=
  at_ 64 56 type ||| at_ 64 36 stream.toNat ||| at_ 64 29 pois ||| at_ 64 20 len

/-- A header with its SEQ (R286). -/
def withSeq (h : W64) (seq : BitVec 12) : W64 := h ||| at_ 64 44 seq.toNat

/-- SEQ of a header (R286). -/
def Flit.seq (f : Flit) : BitVec 12 := BitVec.ofNat 12 (fld f.dw0 55 44)

/-- TYPE of a header (R286). -/
def Flit.type (f : Flit) : Nat := fld f.dw0 63 56

/-- STREAM of a header (R286). -/
def Flit.stream (f : Flit) : BitVec 8 := BitVec.ofNat 8 (fld f.dw0 43 36)

/-- Whether flits of a link are taken: it is up, and its peer is listed and has agreed keys with the device (R330). -/
def Link.takes (l : Link) : Bool := l.up && l.listed

/-- Whether a link may send: it is up, its peer is listed, and its flit counter stays below 2^40 under this key (R287, R330). -/
def Link.canSend (l : Link) : Bool := l.up && l.listed && decide (l.txCtr + 1 < 2 ^ 40)

/-- Sends queued flits while fewer than 1024 are unacknowledged (R287). -/
def Link.pump (l : Link) : List Flit → Link
  | [] => { l with queue := [] }
  | f :: fs =>
    if l.canSend && decide (l.unacked.length < 1024) then
      { l with unacked := l.unacked ++ [f], sent := l.sent ++ [f], txCtr := l.txCtr + 1 }.pump fs
    else { l with queue := f :: fs }

/-- Puts flits, each a header without SEQ, OFF and payload, in line for a link. -/
def Link.push (l : Link) (fs : List (W64 × W64 × List Byte)) : Link :=
  let l1 := fs.foldl (fun (a : Link) f =>
    { a with queue := a.queue ++ [⟨withSeq f.1 a.txSeq, f.2.1, f.2.2⟩], txSeq := a.txSeq + 1 }) l
  l1.pump l1.queue

/-- A flit without a place in the sequence: an acknowledgement or a retry request of a SEQ. -/
def Link.control (l : Link) (type : Nat) (seq : BitVec 12) : Link :=
  if l.canSend then { l with sent := l.sent ++ [⟨withSeq (flitHead type 0 0 0) seq, 0, []⟩], txCtr := l.txCtr + 1 } else l

/-- A flit has come in sequence and whole: the next one is awaited. -/
def Link.got (l : Link) : Link := { l with rxSeq := l.rxSeq + 1, retries := 0, rxCtr := l.rxCtr + 1 }

/-- A flit has come in sequence and whole, and is acknowledged. -/
def Link.took (l : Link) : Link := l.got.control 2 l.rxSeq

/-- An acknowledgement of every flit up to a SEQ (R287). -/
def Link.ack (l : Link) (seq : BitVec 12) : Link :=
  if l.takes && l.unacked.any fun f => f.seq == seq then
    let l1 := { l with unacked := ((l.unacked.dropWhile fun (f : Flit) => f.seq != seq).drop 1), retrySince := none }
    l1.pump l1.queue
  else l

/-- Sends a flit again; a time flit is stamped anew, with `stamp` (R287, R288). -/
def Link.resend (l : Link) (stamp : Nat) (f : Flit) : Link :=
  if l.canSend then
    { l with sent := l.sent ++ [if f.type = 5 then { f with dw1 := BitVec.ofNat 64 stamp } else f], txCtr := l.txCtr + 1 }
  else l

/-- Go-back-N: every unacknowledged flit from a SEQ on is sent again (R287). `time`: the present time in nanoseconds, `stamp`: in fabric
cycles. -/
def Link.goBack (l : Link) (seq : BitVec 12) (time stamp : Nat) : Link :=
  if !l.takes then l
  else
  let l1 := (l.unacked.dropWhile fun (f : Flit) => f.seq != seq).foldl (fun (a : Link) f => a.resend stamp f) l
  { l1 with retrySince := l1.retrySince.or (some time) }

/-! Steps and chunks (R212, R280). -/

/-- Kinds whose steps sum or take maxima: all-reduce and reduce-scatter (R280). -/
def CollCmd.reduces (c : CollCmd) : Bool := decide (clKind c.desc < 2)

/-- The ring's size (R277). -/
def CollCmd.P (c : CollCmd) : Nat := ringSize c.ring

/-- This member's position (R277). -/
def CollCmd.pos (c : CollCmd) : Nat := ringPos c.ring

/-- Elements of the bucket. -/
def CollCmd.elems (c : CollCmd) : Nat := vwRows c.bucket * vwCols c.bucket

/-- Elements of a chunk, the last ones of a `send` or `recv` aside, whose bucket need not divide evenly (log 22, DEDUCED). -/
def CollCmd.chunk (c : CollCmd) : Nat := (c.elems / 64 + c.P - 1) / c.P * 64

/-- First element and length of a chunk. -/
def CollCmd.span (c : CollCmd) (i : Nat) : Nat × Nat :=
  let a := min (i * c.chunk) c.elems
  (a, min c.chunk (c.elems - a))

/-- The bytes of an element of the bucket. -/
def CollCmd.size (c : CollCmd) : Nat := if palFmt c.desc = 1 then 4 else 2

/-- The bytes of an element on the link in a step: partial sums travel as f32 (R212). -/
def CollCmd.wire (c : CollCmd) (t : Nat) : Nat :=
  if c.reduces && clOp c.desc == 0 && decide (t + 1 < c.P) then 4 else c.size

/-- The distance of this member from a broadcast's root (R280). -/
def CollCmd.dist (c : CollCmd) : Nat := (c.pos + c.P - clPeer c.desc) % c.P

/-- How many steps a collective has; none on a ring of one (R212, R277, R280). -/
def CollCmd.steps (c : CollCmd) : Nat :=
  if c.P = 1 then 0 else match clKind c.desc with
  | 0 => 2 * c.P - 2
  | 1 => c.P - 1
  | 2 => c.P - 1
  | 3 => 2 * c.P - 2
  | _ => c.P

/-- The chunk this member sends in a step (R212, R280). -/
def CollCmd.tx (c : CollCmd) (t : Nat) : Option Nat :=
  let P := c.P
  let p := c.pos
  match clKind c.desc with
  | 0 => some ((p + 2 * P - t) % P)
  | 1 => some ((p + P - t) % P)
  | 2 => some ((p + 1 + P - t) % P)
  | 3 => if c.dist + 1 < P ∧ c.dist ≤ t ∧ t < c.dist + P then some (t - c.dist) else none
  | 4 => some t
  | _ => none

/-- The chunk this member receives in a step. -/
def CollCmd.rxc (c : CollCmd) (t : Nat) : Option Nat :=
  let P := c.P
  let p := c.pos
  match clKind c.desc with
  | 0 => some ((p + 2 * P - 1 - t) % P)
  | 1 => some ((p + 2 * P - 1 - t) % P)
  | 2 => some ((p + P - t) % P)
  | 3 => if 1 ≤ c.dist ∧ c.dist ≤ t + 1 ∧ t + 1 < c.dist + P then some (t + 1 - c.dist) else none
  | 4 => none
  | _ => some t

/-- The home chunk (R280). -/
def CollCmd.home (c : CollCmd) : Nat := (c.pos + 1) % c.P

/-- The format of the bucket's elements. -/
def CollCmd.fmt (c : CollCmd) : Fmt := match palFmt c.desc with
  | 1 => f32
  | 2 => f16
  | _ => bf16

/-! Working on the bucket. -/

/-- Elements first to first + n − 1 of the bucket as worked on. -/
def CollCmd.part (c : CollCmd) (first n : Nat) : List (BitVec 32) := (c.work.drop first).take n

/-- The elements of a chunk replaced. -/
def CollCmd.setPart (c : CollCmd) (first : Nat) (xs : List (BitVec 32)) : CollCmd :=
  { c with work := c.work.take first ++ xs ++ c.work.drop (first + xs.length) }

/-- An element as its step works on it: a sum's f16 and bf16 are widened (R212). -/
def CollCmd.widen (c : CollCmd) (x : BitVec 32) : BitVec 32 :=
  if c.reduces && clOp c.desc == 0 && palFmt c.desc != 1 then BitVec.ofNat 32 (c.fmt.convert f32 .rne x.toNat).bits else x

/-- A received element with the member's own (R212, R281). -/
def CollCmd.combine (c : CollCmd) (got own : BitVec 32) : BitVec 32 :=
  BitVec.ofNat 32 (if clOp c.desc = 1 then (c.fmt.max got.toNat own.toNat).bits else (f32.add got.toNat own.toNat).bits)

/-- A final partial in the bucket's format (R212, R281). -/
def CollCmd.narrow (c : CollCmd) (x : BitVec 32) : BitVec 32 :=
  if clOp c.desc = 1 ∨ palFmt c.desc = 1 then x else BitVec.ofNat 32 (f32.convert c.fmt .rne x.toNat).bits

/-- Bytes as elements of n bytes. -/
def elemsOf (n : Nat) (bs : List Byte) : List (BitVec 32) :=
  (List.range (bs.length / n)).map fun i => BitVec.ofNat 32 (leNat ((bs.drop (n * i)).take n))

/-- The poisoned elements of a chunk, counted from its first. -/
def CollCmd.poisIn (c : CollCmd) (i : Nat) : List Nat :=
  let (a, n) := c.span i
  (c.workPois.filter fun e => decide (a ≤ e ∧ e < a + n)).map (· - a)

/-- What a chunk received whole does (R212, R280, R281): in a reducing step it joins the member's partial, and poison in either
poisons the whole chunk; else it is taken unchanged with its poison. -/
def CollCmd.takeChunk (c : CollCmd) (i : Nat) : CollCmd :=
  let (a, n) := c.span i
  let got := elemsOf (c.wire c.step) c.rx
  let reducing := c.reduces && decide (c.step + 1 < c.P)
  let new :=
    if reducing then
      let sum := List.zipWith c.combine got (c.part a n)
      if c.step + 2 = c.P then sum.map c.narrow else sum
    else got
  let keep := c.workPois.filter fun e => !decide (a ≤ e ∧ e < a + n)
  let came := c.rxPois.filter (· < n)
  let pois := if reducing then (if came.isEmpty && (c.poisIn i).isEmpty then [] else List.range n) else came
  { c.setPart a new with workPois := pois.map (· + a) ++ keep, rx := [], rxPois := [] }

/-! Sending (R278, R286). -/

/-- STREAM of this collective: its engine and the low bits of its instance number (R286, log 22, DEDUCED). -/
def CollCmd.stream (c : CollCmd) : BitVec 8 := BitVec.ofNat 8 (32 * c.engine + c.inst % 32)

/-- A chunk as flits of up to 224 bytes; `pois`: the 32-byte sectors of the chunk that are poisoned, each marked in its flit's
header (R281, R286). -/
def chunkFlits (stream : BitVec 8) (pois : List Nat) (off : Nat) (bs : List Byte) : Nat → List (W64 × W64 × List Byte)
  | 0 => []
  | fuel + 1 =>
    if bs.isEmpty then [] else
      let now := bs.take 224
      let mark := (List.range 7).foldl (fun m i => if pois.contains (off / 32 + i) then m + 2 ^ i else m) 0
      (flitHead 1 stream mark now.length, BitVec.ofNat 64 off, now) ::
        chunkFlits stream pois (off + 224) (bs.drop 224) fuel

/-- The flits of the chunk sent in a step. -/
def CollCmd.flits (c : CollCmd) (t i : Nat) : List (W64 × W64 × List Byte) :=
  let (a, n) := c.span i
  let w := c.wire t
  let bs := ((c.part a n).map fun x => leBytes w x.toNat).flatten
  chunkFlits c.stream ((c.poisIn i).map (· * w / 32)).dedup 0 bs (bs.length / 224 + 1)

/-- The elements of a chunk that the marks of a data flit name poisoned, its payload at an offset (R286). -/
def markedElems (w off marks : Nat) : List Nat :=
  ((List.range 7).filter marks.testBit).flatMap fun i => (List.range (32 / w)).map (· + (off + 32 * i) / w)

/-- Whether this member checks a hello before chunks flow: all but the sender of a `send` (R278, log 22, DEDUCED). -/
def CollCmd.expects (c : CollCmd) : Bool := clKind c.desc != 4

/-- The elements a step receives. -/
def CollCmd.due (c : CollCmd) (t : Nat) : Nat := match c.rxc t with
  | some i => (c.span i).2
  | none => 0

/-- Enters the present step: its chunk is sent. One that neither sends nor receives is passed; one that only sends goes on until
its flits have been acknowledged (R284, log 22, DEDUCED). -/
def CollCmd.enter (c : CollCmd) : Nat → CollCmd × List (W64 × W64 × List Byte)
  | 0 => (c, [])
  | fuel + 1 =>
    if c.steps ≤ c.step then (c, []) else
      let out := match c.tx c.step with
        | some i => c.flits c.step i
        | none => []
      if c.due c.step != 0 || !out.isEmpty then (c, out) else { c with step := c.step + 1 }.enter fuel

/-! A collective in the state. -/

/-- A collective. -/
def State.coll (s : State) (id : Nat) : Option CollCmd := s.colls.find? (·.id == id)

/-- Replaces a collective. -/
def State.setColl (s : State) (c : CollCmd) : State := { s with colls := s.colls.map fun d => if d.id == c.id then c else d }

/-- The members' links: where it sends and where it receives. -/
def CollCmd.ports (c : CollCmd) : List Nat := [ringTx c.ring, ringRx c.ring]

/-- The links that its instance uses: a `send` and a `recv` are between two members (R280, R284). -/
def CollCmd.uses (c : CollCmd) : List Nat :=
  if clKind c.desc = 4 then [ringTx c.ring] else if clKind c.desc = 5 then [ringRx c.ring] else c.ports

/-- The free collective engine of the lowest number of a tower (R283). -/
def State.freeEngine (s : State) (t : Bool) : Option Nat :=
  (List.range 8).find? fun i => !s.colls.any fun c => c.started && towerOf c.core == t && c.engine == i

/-- Whether no other collective of the tower became ready before this one and still waits (R283). -/
def State.firstReady (s : State) (c : CollCmd) : Bool :=
  !s.colls.any fun d => !d.started && d.ready != 0 && towerOf d.core == towerOf c.core && decide (d.ready < c.ready)

/-- The bucket's elements as read at the start: vacant and pending bytes are fill (R159, R212). -/
def State.bucketElems (s : State) (c : CollCmd) : List (BitVec 32) :=
  let m := (s.core c.core).mem
  (viewRuns s.mx6 c.bucket).flatMap fun r => elemsOf c.size (m.loads r.at_ r.len)

/-- The local offset of an element of the bucket: its rows follow without gaps (R211). -/
def CollCmd.offset (c : CollCmd) (e : Nat) : Nat := vwBase c.bucket + e * c.size

/-- The poisoned elements of the bucket. -/
def State.bucketPois (s : State) (c : CollCmd) : List Nat :=
  let m := (s.core c.core).mem
  if m.pois.isEmpty then [] else (List.range c.elems).filter fun e => m.poisoned (c.offset e)

/-- The elements of the bucket that a kind reads at its start, as first and count: an all-gather its home chunk, a `recv` and the
members of a broadcast but its root none (R280). -/
def CollCmd.readSpan (c : CollCmd) : Nat × Nat := match clKind c.desc with
  | 2 => c.span c.home
  | 3 => if c.dist = 0 then (0, c.elems) else (0, 0)
  | 5 => (0, 0)
  | _ => (0, c.elems)

/-- What a collective reads of the scratchpad as it starts: the parts of the bucket's rows that lie in those elements. -/
def CollCmd.reads (mx6 : Bool) (c : CollCmd) : Reading :=
  let lo := c.offset c.readSpan.1
  let hi := lo + c.readSpan.2 * c.size
  reading c.bucketId c.bucket ((viewRuns mx6 c.bucket).filterMap fun (e : Run) =>
    let a := max e.at_ lo
    let b := min (e.at_ + e.len) hi
    if a < b then some { e with at_ := a, len := b - a, col := e.col + (a - e.at_) / c.size } else none)

/-- The cause of a loss report by a collective: 0x02 where it computes, 0x03 where it only moves (R105, log 22, DEDUCED). -/
def CollCmd.cause (c : CollCmd) : Nat := if c.reduces then 0x02 else 0x03

/-- Uncorrectable words of the bucket that the start's read finds; single errors are corrected (R70, R105). -/
def State.bucketFound (s : State) (c : CollCmd) : State :=
  let rd := c.reads s.mx6
  match c.ctx with
  | some r => s.computeFound c.core r c.node c.job c.tenant c.scope c.tag rd c.cause
  | none =>
    (rd.foldl (fun (a : State) e =>
      a.coreFound c.core c.cause 0 c.job c.tenant c.scope ((a.core c.core).mem.foundRead e.2.2.at_ e.2.2.len) (some e.1)) s).modCore c.core
        fun k => rd.foldl (fun (k : Core) e => { k.powerUp e.2.2.at_ e.2.2.len with mem := k.mem.correct e.2.2.at_ e.2.2.len }) k

/-- Whether a collective waits to start: its bucket lies under an operand hold that it would write through, or it would find an
error while its context's trap queue is full (R96, R197). -/
def State.collWaits (s : State) (c : CollCmd) : Bool :=
  let held := (runSectors (viewRuns s.mx6 c.bucket)).any fun sec => (s.core c.core).holds.any fun h => h.1 == sec
  (held && clKind c.desc != 4) || match c.ctx with
    | some r => s.findsFull c.core r c.node (c.reads s.mx6)
    | none => false

/-- The counters of an ending collective: NFCTR receives the count, and then CCTR 1 (R212). -/
def State.collCounters (s : State) (c : CollCmd) (count : Nat) : State :=
  let ctr (off : Nat) : Ctr := if off = 0 then .none else .mem off
  let a := addOf c.core c.ctx (ctr (clNfctr c.desc)) (BitVec.ofNat 64 count) c.node c.job c.scope c.tenant (some c.id) true
  if clNfctr c.desc = 0 then s.ask { a with ctr := ctr (clCctr c.desc), amount := 1 }
  else s.ask { a with andThen := ctr (clCctr c.desc) }

/-- The bucket is plain present again and the collective gone (R212, R284). -/
def State.endColl (s : State) (c : CollCmd) : State :=
  let s1 := s.modCore c.core fun k => { k with transit := k.transit.filter (·.2 != c.id) }
  { s1 with colls := s1.colls.filter (·.id != c.id) }

/-- An ended collective whose first abort the device has yet to forward (R284). -/
def State.recordColl (s : State) (c : CollCmd) : State :=
  if !c.started || c.aborted || c.P = 1 then s else { s with collsDone := s.collsDone ++ [(c.id, ringRx c.ring, ringTx c.ring, c.stream)] }

/-- A collective on a core that cannot be reached, be it since it started, transfers nothing and adds to its counters; then the next of
the context tests RCTR (R212, R328). -/
def State.unreachColl (s : State) (c : CollCmd) : State :=
  ((((s.endColl c).recordColl c).collCounters c 0).testColls c.core).report c.job
    { core := c.core.val, code := 0x0C, cause := 0x30, tenant := c.tenant, scope := c.scope, base := vwBase c.bucket }

/-- The hello of a member, a header without SEQ, OFF and payload (R278). -/
def State.helloOf (s : State) (c : CollCmd) : W64 × W64 × List Byte :=
  (flitHead 6 c.stream 0 16, 0, leBytes 8 s.deviceNumber.toNat ++ leBytes 8 (ringId c.ring).toNat)

/-- A collective starts: the bucket is in transit, the hello goes to the next member (R212, R278, R280, R283). A ring of
one has no steps and no hello (R277). -/
def State.startColl (s : State) (id : Nat) : State := match s.coll id with
  | none => s
  | some c => match s.freeEngine (towerOf c.core) with
    | none => s
    | some e =>
      if c.started || c.killed || c.ready == 0 || !s.firstReady c || s.collAdding c then s
      else if s.unreachable c.core then s.unreachColl c
      else if s.collWaits c then s
      else
        let s1 := s.bucketFound c
        let c1 := { c with started := true, engine := e }
        let c2 := { c1 with work := (s1.bucketElems c).map (if c.P = 1 then (fun x => x) else c1.widen), workPois := s1.bucketPois c }
        let s2 := s1.modCore c.core fun k =>
          { k with transit := k.transit ++ (runSectors (viewRuns s1.mx6 c.bucket)).map (·, c.id) }
        let hello := s.helloOf c1
        if c.P = 1 then s2.setColl c2
        else if c.expects then (s2.setColl c2).modLink (ringTx c.ring) fun l => l.push (if clKind c.desc = 5 then [] else [hello])
        else
          let (c3, out) := c2.enter (c2.steps + 1)
          (s2.setColl c3).modLink (ringTx c.ring) fun l => l.push (hello :: out)

/-- A collective ends without adds; the next of the context tests RCTR (R212, R284). -/
def State.dropColl (s : State) (c : CollCmd) : State := (s.endColl c).testColls c.core

/-- Abort flits to both neighbours (R284). -/
def State.sendAborts (s : State) (stream : BitVec 8) (ports : List Nat) : State :=
  ports.dedup.foldl (fun (a : State) p => a.modLink p fun l => l.push [(flitHead 4 stream 0 0, 0, [])]) s

/-- The chunk in progress: the one received in the step, else the one sent (R284). -/
def CollCmd.current (c : CollCmd) : Nat := match c.rxc c.step with
  | some i => i
  | none => (c.tx c.step).getD 0

/-- A member that ends by a mismatch tells its neighbours so by a hello, from which they learn that the instance's members differ, for
every member is to end with that cause (R278, R280; log 22, DEDUCED). -/
def State.tellMismatch (s : State) (c : CollCmd) (cause : BitVec 7) : State :=
  if cause != 0x1A || c.killed then s
  else c.uses.dedup.foldl (fun (a : State) p => a.modLink p fun l => l.push [s.helloOf c]) s

/-- A started collective ends without a publish (R284, R285): the result is discarded, the neighbours are told, and the
context gets LINKERR unless it was cancelled. While the context's queue is full it stays with the first cause (R96). An engine node's
ending goes to the host and the node completes cancelled (R311, log 22, DEDUCED). -/
def State.failColl (s : State) (c : CollCmd) (why : BitVec 7) : State :=
  let cause := c.failing.getD why
  let gone := (((s.dropColl c).recordColl c).tellMismatch c cause).sendAborts c.stream (if c.P = 1 then [] else c.ports)
  if c.killed then gone.cutNode c.node c.id
  else
    let i := c.current
    let opa := faultA cause c.descId (c.offset (c.span i).1)
    let opb := faultB c.tag 0 c.step i
    match c.ctx with
    | none => (gone.postJob c.job { type := 0x07, scope := c.scope, pay := ofDws 256 [opa, opb, BitVec.ofNat 64 c.node, 0] }).completeNode
        c.node true []
    | some r => match gone.deliver r c.node ⟨0x24, opa, opb⟩ with
      | .done s1 => s1
      | .full => s.setColl { c with failing := some cause }
      | .gone => gone.report c.job (orphan c.core c.tenant c.scope 0x24 0 opa)

/-! Publishing (R212, R280). -/

/-- The chunks whose result replaces the bucket's bytes on this member (R277, R280). -/
def CollCmd.written (c : CollCmd) : List Nat :=
  if c.P = 1 then [] else match clKind c.desc with
  | 0 => List.range c.P
  | 1 => [c.home]
  | 2 => (List.range c.P).filter (· != c.home)
  | 3 => if c.dist = 0 then [] else List.range c.P
  | 4 => []
  | _ => List.range c.P

/-- The chunks left vacant: a reduce-scatter's but the home chunk (R280). -/
def CollCmd.vacated (c : CollCmd) : List Nat :=
  if clKind c.desc = 1 ∧ c.P ≠ 1 then (List.range c.P).filter (· != c.home) else []

/-- Whether an element is ±∞ or NaN. -/
def Fmt.nonFinite (F : Fmt) (x : Nat) : Bool := x / 2 ^ F.fw % 2 ^ F.ew == 2 ^ F.ew - 1

/-- The elements of the bucket that are present and not finite (R212, R280). -/
def State.countNonFinite (s : State) (c : CollCmd) : Nat :=
  let m := (s.core c.core).mem
  ((List.range c.elems).filter fun e =>
    let o := c.offset e
    (List.range c.size).all (fun i => m.has (o + i)) && c.fmt.nonFinite (leNat (m.loads o c.size))).length

/-- The bytes of a chunk in the bucket, as offset and length. -/
def CollCmd.bytesOf (c : CollCmd) (i : Nat) : Nat × Nat := (c.offset (c.span i).1, (c.span i).2 * c.size)

/-- The result in the bucket, in one step, with its poison (R2, R104, R280, R281). -/
def Scratch.publishColl (m : Scratch) (c : CollCmd) : Scratch :=
  let m1 := c.written.foldl (fun (a : Scratch) i =>
    let (e, n) := c.span i
    (c.poisIn i).foldl (fun (b : Scratch) j => b.poison (c.offset (e + j) / 32))
      (a.put (c.offset e) (((c.part e n).map fun x => leBytes c.size x.toNat).flatten))) m
  c.vacated.foldl (fun (a : Scratch) i => a.vacate (c.bytesOf i).1 (c.bytesOf i).2) m1

/-- Whether a started collective has nothing left to do: its last step is done (R280, R285). -/
def CollCmd.finished (c : CollCmd) : Bool := c.started && decide (c.steps ≤ c.step)

/-- The SEQ up to which the flits of a port may be acknowledged: before the last flit of any `recv` there that has received all and has
not published (R280; log 22, DEDUCED). -/
def State.ackSeq (s : State) (port : Nat) : BitVec 12 :=
  let l := s.link port
  let open_ := s.colls.filter fun c => clKind c.desc == 5 && c.P != 1 && c.finished && ringRx c.ring == port
  l.rxSeq - open_.foldl (fun (m : BitVec 12) c => if m < l.rxSeq - c.lastSeq then l.rxSeq - c.lastSeq else m) 0 - 1

/-- A collective publishes, and its adds are asked for before the next of the context tests RCTR; one that ends without a publish does so
once its context can take the trap, a cancelled one at its chunk boundary (R96, R212, R270, R280, R284). The acknowledgement of the last
data flit of a `recv` is sent as it publishes (log 22, DEDUCED). -/
def State.publishColl (s : State) (id : Nat) : State := match s.coll id with
  | none => s
  | some c =>
    if c.started && !c.finished && (c.killed || c.failing.isSome) then s.failColl c 0
    else if !c.finished then s
    else if s.unreachable c.core then s.unreachColl c
    else
      let s0 := (s.endColl c).mergeFoundAt c.core c.cause c.job c.tenant c.scope c.bucketId ((c.written ++ c.vacated).map c.bytesOf)
      let s1 := s0.modCore c.core fun k => { k with mem := k.mem.publishColl c }
      let s2 := s1.cmdBump c.ctx c.node c.bucketId
      let s3 := s2.collCounters c (if clKind c.desc = 4 then 0 else s2.countNonFinite c)
      let s4 := (s3.recordColl c).testColls c.core
      if clKind c.desc = 5 ∧ c.P ≠ 1 then s4.modLink (ringRx c.ring) fun l => l.control 2 (s4.ackSeq (ringRx c.ring)) else s4

/-! What comes in. -/

/-- The collectives whose unfinished instance uses a link end without a publish (R284, R285). -/
def State.failLink (s : State) (port : Nat) (why : BitVec 7) : State :=
  (s.colls.filter fun c => c.started && !c.finished && c.uses.contains port).foldl (fun (a : State) c => a.failColl c why) s

/-- A flit whose tag fails is dropped and asked for again; when it has failed on 8 retries in a row the link's collectives end
(R284, R287). -/
def State.badTag (s : State) (port : Nat) : State :=
  let s1 := s.modLink port fun l => { l with retries := l.retries + 1 }.control 3 l.rxSeq
  if (s1.link port).retries < 9 then s1 else s1.failLink port 0x19

/-- The collective whose chunk a data flit carries. -/
def State.collOf (s : State) (port : Nat) (stream : BitVec 8) : Option CollCmd :=
  s.colls.find? fun c => c.started && c.failing.isNone && ringRx c.ring == port && c.peer == some stream

/-- Whether no flit of a port is acknowledged now: a `recv` has received all and has not published (R280, log 22, DEDUCED). -/
def State.withheld (s : State) (port : Nat) : Bool :=
  s.colls.any fun c => clKind c.desc == 5 && c.P != 1 && c.finished && ringRx c.ring == port

/-- A flit of a port is taken, and acknowledged unless that is withheld. -/
def State.take (s : State) (port : Nat) : State :=
  s.modLink port fun l => if s.withheld port then l.got else l.took

/-- A data flit in sequence: its payload joins the chunk in progress; a whole chunk ends the step (R212, R286). `marks`: the poisoned
sectors of the payload. -/
def State.takeData (s : State) (port : Nat) (c : CollCmd) (marks : Nat) (payload : List Byte) : State :=
  let c1 := { c with
    lastSeq := (s.link port).rxSeq
    rx := c.rx ++ payload, rxPois := c.rxPois ++ markedElems (c.wire c.step) c.rx.length marks }
  let last := c1.rx.length == c.due c.step * c.wire c.step
  let (c2, out) := if last then match c.rxc c.step with
      | some i => { c1.takeChunk i with step := c.step + 1 }.enter (c.steps + 1)
      | none => (c1, [])
    else (c1, [])
  ((s.setColl c2).take port).modLink (ringTx c.ring) fun l => l.push out

/-- A data flit arrives (R286, R287). Out of sequence it is dropped: an old one, in the half of the numbers before the one awaited, is
acknowledged again, a later one is asked for again (log 75, DESIGN CHOICE). One for a collective that has ended is taken and dropped; one that its collective cannot take yet waits. -/
def State.dataFlit (s : State) (port : Nat) (dw0 dw1 : W64) (payload : List Byte) (tagOk : Bool) : State :=
  let l := s.link port
  let f : Flit := ⟨dw0, dw1, payload⟩
  if !l.takes then s
  else if !tagOk then s.badTag port
  else if f.seq != l.rxSeq then
    s.modLink port fun l => if (f.seq - l.rxSeq).toNat < 2048 then l.control 3 l.rxSeq
      else if s.withheld port then l else l.control 2 (l.rxSeq - 1)
  else match s.collOf port f.stream with
    | none => s.take port
    | some c =>
      if c.killed then s.failColl c 0
      else if dw1.toNat != c.rx.length || payload.length != fld dw0 28 20 ||
          decide (c.due c.step * c.wire c.step < c.rx.length + payload.length) then s
      else s.takeData port c (fld dw0 35 29) payload

/-- A hello arrives for a started collective: a wrong device number, RINGID or partner ends it, else its chunks may flow (R278,
R280). A `send`, whose instance has no member before it, learns so that its receiver disagrees; and any member that members of the
instance differ, be it after its own hello has passed (log 22, DEDUCED). -/
def State.helloFlit (s : State) (port id : Nat) (stream : BitVec 8) (device ringid : W64) (agrees : Bool) : State :=
  if !(s.link port).takes then s
  else match s.coll id with
  | none => s.take port
  | some c =>
    if !c.started || !c.uses.contains port then s
    else if c.killed || c.finished || c.failing.isSome then s.take port
    else if c.peer.isSome || (if c.expects then ringRx c.ring else ringTx c.ring) != port then
      if agrees then s.take port else (s.take port).failColl c 0x1A
    else
      let s1 := s.take port
      let other := (c.pos + (if c.expects then c.P - 1 else 1)) % c.P
      let named := (s.vread c.job (ringList c.ring + 8 * other) 8).map fun b => BitVec.ofNat 64 (leNat b)
      if named != some device || ringid != ringId c.ring || !agrees then s1.failColl c 0x1A
      else if !c.expects then s1
      else
        let (c1, out) := { c with peer := some stream }.enter (c.steps + 1)
        (s1.setColl c1).modLink (ringTx c.ring) fun l => l.push out

/-- Whether a collective is in a step that only sends, and its link holds none of its data any more (R284). -/
def CollCmd.sentOut (c : CollCmd) (l : Link) : Bool :=
  c.started && !c.killed && c.failing.isNone && !c.finished && (c.peer.isSome || !c.expects) && c.due c.step == 0 &&
    !(l.unacked ++ l.queue).any fun f => f.stream == c.stream && f.type == 1

/-- An acknowledgement arrives; a step that only sends is over when its data has all been acknowledged (R280, R284, R287). -/
def State.ackFlit (s : State) (port : Nat) (seq : BitVec 12) : State :=
  let s1 := s.modLink port fun l => l.ack seq
  (s1.colls.filter fun c => ringTx c.ring == port).foldl (fun (a : State) c =>
    if c.sentOut (a.link port) then
      let (d, out) := { c with step := c.step + 1 }.enter (c.steps + 1)
      (a.setColl d).modLink port fun l => l.push out
    else a) s1

/-- An abort arrives for an instance: one whose last step is not done ends with LINKERR; the first one is forwarded to both
neighbours, which changes nothing here where the result is published or the member has ended its part itself; a later one is taken and
no more. One for a collective that has not started waits (R284, R285). -/
def State.abortFlit (s : State) (port id : Nat) : State :=
  let s1 := match s.coll id with
    | some c => if c.finished then s.publishColl id else s
    | none => s
  if !(s.link port).takes then s
  else match s1.coll id with
    | some c => if c.started && c.ports.contains port then (s1.take port).failColl { c with aborted := true } 0x1B else s
    | none => match s1.collsDone.find? fun d => d.1 == id && (d.2.1 == port || d.2.2.1 == port) with
      | none => s1.take port
      | some d => ({ s1.take port with collsDone := s1.collsDone.filter (·.1 != id) } : State).sendAborts d.2.2.2 [d.2.2.1, d.2.1]

/-- A link without an acknowledgement for 10 µs after its retry began is lost: its collectives end (R284). -/
def State.linkLoss (s : State) (port : Nat) : State := match (s.link port).retrySince with
  | none => s
  | some t =>
    if s.time < t + 10000 then s else s.failLink port 0x18

/-! The clock (R288). -/

/-- The time in fabric cycles of 0.625 ns, the resolution of time flits (R4, R5, R288). -/
def State.stamp (s : State) : Nat := s.time19 * 8 / 95

/-- A measured offset of the device's clock from the grandmaster's, in 1/19 ns: passing ±100 ns posts a time fault to
every job, and the clock is steered (R288). Steering moves the clock by the whole offset (log 23, DESIGN CHOICE); `steered` keeps
how far it has moved in all (R334). -/
def State.steer (s : State) (offset : Int) : State :=
  let was := decide (1900 < s.clockOffset.natAbs)
  let s1 : State := { s with clockOffset := offset }
  let s2 := if decide (1900 < offset.natAbs) && !was then
      s1.jobs.foldl (fun (a : State) j => a.postJob j.num { type := 0x06, scope := j.root }) s1
    else s1
  { s2 with time19 := ((s2.time19 : Int) - offset).toNat, steered := s2.steered - offset }

/-! Events. -/

/-- COLLECTIVE_START (R212). -/
def execCollectiveStart (id : Nat) (s : State) : Out := .next (s.startColl id)

/-- COLLECTIVE_PUBLISH (R212). -/
def execCollectivePublish (id : Nat) (s : State) : Out := .next (s.publishColl id)

/-- RCTR_RETEST (R283). -/
def execRctrRetest (id : Nat) (s : State) : Out := match s.coll id with
  | none => .next s
  | some c => .next (s.testColls c.core)

/-- DATA_FLIT (R286). -/
def execDataFlit (port : Nat) (dw0 dw1 : W64) (payload : List Byte) (tagOk : Bool) (s : State) : Out :=
  .next (s.dataFlit port dw0 dw1 payload tagOk)

/-- ACK_FLIT (R287). -/
def execAckFlit (port : Nat) (seq : BitVec 12) (s : State) : Out := .next (s.ackFlit port seq)

/-- RETRY_REQUEST (R287). -/
def execRetryRequest (port : Nat) (seq : BitVec 12) (s : State) : Out :=
  .next (s.modLink port fun l => l.goBack seq s.time s.stamp)

/-- ABORT_FLIT (R284). -/
def execAbortFlit (port id : Nat) (s : State) : Out := .next (s.abortFlit port id)

/-- HELLO_FLIT (R278). -/
def execHelloFlit (port id : Nat) (stream : BitVec 8) (device ringid : W64) (agrees : Bool) (s : State) : Out :=
  .next (s.helloFlit port id stream device ringid agrees)

/-- LINK_LOSS (R284). -/
def execLinkLoss (port : Nat) (s : State) : Out := .next (s.linkLoss port)

/-- TIME_FLIT (R286, R288): a flit with this device's time, in fabric cycles, leaves a port on which nothing waits, or one arrives; the
difference of the times at its arrival and departure, 95/8 of a 19th of a nanosecond for each fabric cycle, steers the clock where the clock follows the device whose time it carries (log 64,
DEDUCED). -/
def execTimeFlit (port : Nat) (arrives : Option (W64 × W64)) (s : State) : Out :=
  let l := s.link port
  if !l.takes then .next s
  else match arrives with
    | none =>
      if l.queue.isEmpty && l.canSend && decide (l.unacked.length < 1024) then
        .next (s.modLink port fun l => l.push [(flitHead 5 0 0 0, BitVec.ofNat 64 s.stamp, [])])
      else .next s
    | some (from_, stamp) =>
      let s1 := s.take port
      if from_ != BitVec.allOnes 64 && s.grandmaster == some from_ then .next (s1.steer (((s.stamp : Int) - stamp.toNat) * 95 / 8)) else .next s1

/-- PRECISION_TIME_MEASUREMENT (R294): the host's time, in nanoseconds, steers the clock while it follows the host. -/
def execPrecisionTimeMeasurement (time : Nat) (s : State) : Out :=
  if s.grandmaster == some (BitVec.allOnes 64) then .next (s.steer ((s.time19 : Int) - 19 * time)) else .next s

/-- LINK_REKEY (R287, R330): a signed exchange, at training and at each rekey, with a listed peer gives the two direction keys from
SHAKE256 over the shared secret and both public keys, and both flit counters begin again. A peer that is not listed, or has not
signed, excludes the link. The public key that is the lower number comes first, and its device sends under the first half (log 75,
DESIGN CHOICE); SHAKE256 is the model's reading (log 67, PRESUMED). -/
def execLinkRekey (port : Nat) (peer : BitVec 456) (secret : BitVec 448) (signed : Bool) (s : State) : Out :=
  if !(s.link port).up then .next s
  else if !signed || !s.peers.contains peer then .next (s.modLink port fun l => { l with up := false, listed := false })
  else
    let own := leBytes 57 s.idKey.toNat
    let other := leBytes 57 peer.toNat
    let lower := decide (s.idKey.toNat ≤ peer.toNat)
    let out := shake256 (leBytes 56 secret.toNat ++ (if lower then own ++ other else other ++ own)) 64
    let k0 := BitVec.ofNat 256 (leNat (out.take 32))
    let k1 := BitVec.ofNat 256 (leNat (out.drop 32))
    .next (s.modLink port fun l =>
      let l1 := { l with listed := true, txKey := if lower then k0 else k1, rxKey := if lower then k1 else k0, txCtr := 0, rxCtr := 0 }
      l1.pump l1.queue)

/-! Messages (R296). -/

/-- A message is posted once the earlier commands it waits for have published or failed (R214, R296). -/
def State.qpushReady (s : State) (m : QMsg) : Bool := s.ctraddReady (some m.ctx) m.node m.id m.core

/-- QPUSH_POST (R296): the entry is accepted for the job's completion queue, or waits for room in a hold (R308); its counter receives 1
when it has been written. -/
def execQpushPost (id : Nat) (s : State) : Out := match s.msgs.find? (·.id == id) with
  | none => .next s
  | some m => match s.job m.job with
    | none => .next s
    | some j =>
      if m.posted || !s.qpushReady m then .next s
      else
        let a : Answer := { type := 0x03, job := m.job, tenant := m.tenant, scope := m.scope, pay := m.data }
        let s1 : State := { s with msgs := s.msgs.map fun x => if x.id == id then { x with posted := true } else x }
        .next (s1.modTower (queueTower j.cq) fun w => w.accept ⟨j.cq, a.entry j.cq s.time, false, m.ctr, some m.ctx, id⟩)

end Sys2Proof.Machine
end

