-- ==== Sys2Proof/Machine/Control.lean ====
section
/-!
DEFINITION. Control instructions of slot 0: branches, loops, special registers, traps, suspension, fences, barriers, scopes,
segments (R54 to R67, R92, R93, R141 to R149, R154, R245 to R268).
-/

namespace Sys2Proof.Machine

/-! Branches and loops (R54 to R57). -/

/-- One past the last bundle address of a core (R12, R307). -/
def topOf (c : CoreRef) : Nat := if isCtl c then 0x2000 else 0x4000

/-- An operation of slot 0 that R55 and R253 forbid in the delay bundle of a taken branch. -/
def Ctx.outsideDelay (x : Ctx) (body : Res) : Res := if x.inDelay then .trap (trap 0x01) else body

/-- A branch to a target with a link write, if any: ILLOP by R55, RANGE by R19 and R54; ILLOP where both apply (log 58,
DESIGN CHOICE). -/
def Ctx.branchTo (x : Ctx) (c : CoreRef) (t : Nat) (link : Option (BitVec 6)) : Res :=
  if x.inDelay || x.atLoopEnd then .trap (trap 0x01)
  else if topOf c ≤ t then .trap (trap 0x06)
  else done (.branch (BitVec.ofNat 15 t) :: link.toList.map fun d => .reg (.s d ((x.pc + 2).zeroExtend 64)))

/-- A branch of form J (R19). -/
def State.branchJ (s : State) (op : BitVec 8) (j : J) (link : Option (BitVec 6)) : Out :=
  let x := s.ctx s.cur
  let dests : List Reg := link.toList.map fun d => Reg.s d
  .next (s.stage (x.evalWith (s.slotNo .c) (BitVec.ofBool j.n ++ j.p ++ op ++ j.t) (some (.p j.p)) (x.p j.p != j.n)
    (dests.filter fun r => !x.isFull r) false false dests (x.branchTo s.cur.core j.t.toNat link)))

/-- A loop instruction with end offset e and count n (R57). -/
def Ctx.loopBy (x : Ctx) (e n : Nat) : Res :=
  x.outsideDelay
    (if n = 0 then done [.jump (BitVec.ofNat 15 (x.pc.toNat + e + 1))]
    else if 2 ^ 32 ≤ n ∨ 4 ≤ x.loops.length then .trap (trap 0x06)
    else done [.loopPush ⟨x.pc + 1, BitVec.ofNat 15 (x.pc.toNat + e), BitVec.ofNat 32 n⟩])

/-! Special registers (R58 to R62). -/

/-- FEAT_LO (R43). -/
def State.featLo (s : State) (c : CoreRef) : W64 :=
  at_ 64 56 1 ||| (if isCtl c then 8 else 0) ||| (if s.mx6 then 4 else 0) |||
    (if (s.tower (towerOf c)).canvB = 0 then 0 else 2) ||| (if s.rcmb then 1 else 0)

/-- A special register as `mfs` reads it (R58). A control core runs no job, and FRAME reads 0 there (log 59, DESIGN CHOICE). -/
def State.readSpec (s : State) (r : CtxRef) (n : BitVec 12) : W64 :=
  let x := s.ctx r
  match n.toNat with
  | 0x000 => x.spec.status
  | 0x001 => x.spec.fflags
  | 0x002 => x.spec.trapinfo
  | 0x003 => x.spec.trappc
  | 0x004 => x.spec.trapvec
  | 0x005 => x.spec.faultmask
  | 0x006 => x.spec.trapopa
  | 0x007 => x.spec.trapopb
  | 0x010 => x.spec.vlive
  | 0x011 => (s.core r.core).segKind
  | 0x012 => x.spec.segown.zeroExtend 64
  | 0x020 => coreIdReg r.core
  | 0x021 => (if x.spec.il then 2 else 0) ||| (if r.q then 1 else 0)
  | 0x022 => x.spec.scope.zeroExtend 64
  | 0x023 => x.spec.tenant.zeroExtend 64
  | 0x030 => BitVec.ofNat 64 s.cycle
  | 0x031 => match s.job x.job with | some j => j.frame | none => 0
  | 0x040 => x.spec.rngseed
  | 0x041 => x.spec.rngctr
  | 0x050 => x.spec.arbw
  | 0xFF0 => s.featLo r.core
  | _ => 0

/-- Whether a value gives an owned segment the kind 0b11 (R62, R90). -/
def badKinds (own : BitVec 32) (v : W64) : Bool :=
  (List.range 32).any fun i => own.getLsbD i && v.getLsbD (2 * i) && v.getLsbD (2 * i + 1)

/-- Whether some weight lies above the job's limit (R62, R294); control cores have no limit (R307). -/
def State.arbwAbove (s : State) (r : CtxRef) (v : W64) : Bool :=
  !isCtl r.core && match s.job (s.ctx r).job with
    | some j => (List.range 4).any fun i => decide (fld j.arbwLim (4 * i + 3) (4 * i) < fld v (4 * i + 3) (4 * i))
    | none => false

/-- The checks of `mts`: ILLOP, which decoding raises already (R42), RANGE, PRIV (R58, R62). -/
def State.mtsFault (s : State) (r : CtxRef) (n : BitVec 12) (v : W64) : Option SlotFault :=
  if noRwSpecs.contains n then some (trap 0x01)
  else match n.toNat with
  | 0x004 => if topOf r.core ≤ v.toNat then some (trap 0x06) else none
  | 0x011 => if badKinds (s.ctx r).spec.segown v then some (trap 0x06) else none
  | 0x050 => if s.arbwAbove r v then some (trap 0x13) else none
  | _ => none

/-! Waits for slot 5 pieces and for quiet (R112, R130, R141, R148, R149, R191, R253). -/

/-- Whether a write piece of the context to a member within a scope is still to be performed (R141, R144). -/
def State.writesOut (s : State) (r : CtxRef) (scope : Nat) : Bool :=
  s.pieces.any fun p => p.issuer == r && p.kind.writes && (scope != 0 || p.target == r.core)

/-- Whether a load or atomic of the context has not landed (R141). -/
def Ctx.readsOut (x : Ctx) : Bool := x.s5.any fun o => o.kind.lands

/-- Whether the context's matrix commands, and the drains that it has issued, are done (R191). -/
def State.mxIdle (s : State) (r : CtxRef) : Bool :=
  let mx := (s.core r.core).mx
  (mx.owner != some r.q || mx.queue.isEmpty) && mx.drains.all (·.node != (s.ctx r).node)

/-- Whether a `spawn`, an `npush` or a `kvstat` of the context has yet to form its result (R241, R245, R303). -/
def State.answersOut (s : State) (r : CtxRef) : Bool :=
  s.spawnWait.any (fun w => w.ctx == r) || s.cmds.any fun c => c.ctx == some r && c.node == (s.ctx r).node && match c.op with
    | .kvstat _ _ => true
    | _ => false

/-- The conditions that a bundle with `yield` or `retire` waits for, results in the snapshot buffer aside (R253). -/
def State.quiet (s : State) (r : CtxRef) : Bool :=
  (s.ctx r).inflight.isEmpty && (s.ctx r).stream.isNone && (s.ctx r).s5.isEmpty && s.mxIdle r && !s.answersOut r

/-- Whether the snapshot buffer holds results that land outside this context's handler (R101, R253). -/
def Ctx.landsHeld (x : Ctx) : Bool := x.snap.any fun e => !(x.tmask && e.outer)

/-- A suspension waits until the context is quiet, and then for what the snapshot buffer is to put back (R101, R253). -/
def State.onceQuiet (s : State) (x : Ctx) (go : Res) : Res :=
  if !s.quiet s.cur then .wait else if x.landsHeld then .waitHeld else go

/-- A fence of a scope (R141, R142, R145). -/
def State.fence (s : State) (op : BitVec 8) (g : G) (rel acq : Bool) : Out :=
  let scope := g.b.toNat
  s.slotOp .c op .immB4 g false fun x =>
    if (rel && s.writesOut s.cur scope) || (acq && x.readsOut) then .wait
    else done ((if acq && scope == 0 && x.readFar then [.status stScx] else []) ++ [.fence (scope != 0) rel])

/-! Scopes (R267, R268). -/

/-- Whether a scope is the context's or a descendant of it. -/
def State.scopeWithin (s : State) (r : CtxRef) (id : Nat) : Bool :=
  s.inSubtree (s.homeOf (s.ctx r).job) (s.ctx r).spec.scope.toNat id

/-- The segments that a job may use on a tower: all of them without a slice table (R92, R320). -/
def State.partition (s : State) (t : Bool) (job : Nat) : BitVec 32 :=
  if (s.tower t).slices.isEmpty then BitVec.allOnes 32
  else (s.tower t).slices.foldl (fun acc sl => if sl.job == job then acc ||| sl.segmask else acc) 0

/-- Segments of a core that bytes off to off + len − 1 touch. -/
def segsTouched (off len : Nat) : BitVec 32 :=
  (touched 0x40000 off len).foldl (fun acc i => acc ||| BitVec.twoPow 32 i) 0

/-- Whether the context's stream operation touches a segment of the mask, or a slot 5 piece that passed its
ownership check against one is still to be performed (R93, R130). -/
def State.segBusy (s : State) (r : CtxRef) (mask : BitVec 32) : Bool :=
  (match (s.ctx r).stream with
    | some st =>
      (st.srcCore == r.core && segsTouched st.src (st.n * st.esize) &&& mask != 0) ||
        (st.dstCore == r.core && segsTouched st.dst (st.n * st.esize) &&& mask != 0)
    | none => false) ||
  s.pieces.any fun p => p.target == r.core && segsTouched p.off p.len &&& mask &&& (s.ctx r).spec.segown != 0

/-- The checks of `spawn` on its record image and the record (R245). -/
def State.spawnCheck (s : State) (r : CtxRef) (a : Nat) : Except SlotFault Rec64 :=
  let x := s.ctx r
  let k := s.core r.core
  match addrChecks x 64 a 64 with
  | some f => .error f
  | none =>
    let found := k.mem.foundRead a 64
    if !found.isEmpty || k.mem.poisoned a || k.mem.poisoned (a + 32) then .error { trap 0x08 with found := found }
    else if (List.range 64).any fun i => !k.mem.has (a + i) then .error (trap 0x07)
    else
      let n : Rec64 := BitVec.ofNat 512 (leNat (k.mem.loads a 64))
      if !recOk n || !s.recGroupOk n then .error (trap 0x06)
      else if recTenant n ≠ x.spec.tenant.toNat || !s.scopeWithin r (recScope n) then .error (trap 0x13)
      else if !s.checkScopeOk (s.homeOf x.job) n then .error (trap 0x13)
      else .ok n

/-! The instructions. -/

/-- NOP (R42): it does nothing in its slot. -/
def execNop (s : State) : Out := .next (s.stage (SlotRec.idle (s.slotNo .any) 0))

/-- BR (R54). -/
def execBr (j : J) (s : State) : Out := s.branchJ 0x01 j none

/-- BRL (R54). -/
def execBrl (j : J) (s : State) : Out := s.branchJ 0x02 j (some 62)

/-- LP (R57). -/
def execLp (l : LpReg) (s : State) : Out :=
  let x := s.ctx s.cur
  .next (s.stage (x.evalWith (s.slotNo .c) (BitVec.ofBool l.n ++ l.p ++ (0x05 : BitVec 8) ++ l.c ++ l.e) (some (.p l.p))
    (x.p l.p != l.n) ([Reg.s l.c].filter fun r => !x.isFull r) false false [] (x.loopBy l.e.toNat (x.s l.c).toNat)))

/-- LPI (R57); a count field of 0 means 1024 (R20). -/
def execLpi (l : LpImm) (s : State) : Out :=
  let x := s.ctx s.cur
  .next (s.stage (x.evalWith (s.slotNo .c) (BitVec.ofBool l.n ++ l.p ++ (0x06 : BitVec 8) ++ l.c ++ l.e) (some (.p l.p))
    (x.p l.p != l.n) [] false false [] (x.loopBy l.e.toNat (if l.c = 0 then 1024 else l.c.toNat))))

/-- BRI (R54). -/
def execBri (g : G) (s : State) : Out :=
  s.slotOp .c 0x03 .srcA g false fun x => x.branchTo s.cur.core (x.sa g).toNat none

/-- BRIL (R54). -/
def execBril (g : G) (s : State) : Out :=
  s.slotOp .c 0x04 .unaryS g false fun x => x.branchTo s.cur.core (x.sa g).toNat (some g.d)

/-- LPX (R57). -/
def execLpx (g : G) (s : State) : Out :=
  s.slotOp .c 0x07 .bare g false fun x => x.outsideDelay (if x.loops.isEmpty then .trap (trap 0x06) else done [.loopPop])

/-- YIELD (R253, R254). -/
def execYield (g : G) (s : State) : Out :=
  s.slotOp .c 0x08 .bare g false fun x =>
    x.outsideDelay (s.onceQuiet x (done [.yield]))

/-- WAIT_GE (R154). -/
def execWaitGe (g : G) (s : State) : Out :=
  s.slotOp .c 0x09 .srcAB g false fun x =>
    let a := (x.sa g).toNat
    let v := s.counterAt s.cur.core a
    x.outsideDelay
      (if isCtl s.cur.core then
        (if a % 8 ≠ 0 then .trap (trap 0x05)
        else if 0x100000 < a + 8 then .trap (trap 0x06)
        else done (if decide (v.getD 0 < x.sb g) then [.park (.waitGe a (x.sb g))] else []))
      else match addrChecks x 8 a 8 with
      | some f => .trap f
      | none =>
        let found := (s.core s.cur.core).mem.foundRead a 8
        if !found.isEmpty || (s.core s.cur.core).mem.poisoned a then .trap { trap 0x08 with found := found }
        else match v with
        | none => .trap (trap 0x07)
        | some y => done ([.touch a 8] ++ if y < x.sb g then [.park (.waitGe a (x.sb g))] else []))

/-- WAIT_F (R256). -/
def execWaitF (g : G) (s : State) : Out :=
  s.slotOp .c 0x0A .immB63 g false fun x =>
    x.outsideDelay (if x.flagFile.getLsbD g.b.toNat then done [.clearFlag g.b] else .park (.waitF g.b))

/-- RETIRE (R258). -/
def execRetire (g : G) (s : State) : Out :=
  s.slotOp .c 0x0B .bare g false fun x =>
    x.outsideDelay
      (if !x.refusals.isEmpty || x.asyncQ.any (fun t => t.code == 0x26) then .wait
      else s.onceQuiet x (if x.atelier.isSome && !x.cbarDone then .trap (trap 0x0B) else done [.retire]))

/-- SPAWN (R245). -/
def execSpawn (g : G) (s : State) : Out :=
  s.slotOp .c 0x0C .spawn g false fun x =>
    match s.spawnCheck s.cur (x.sa g).toNat with
    | .error f => .trap f
    | .ok n => done [.touch (x.sa g).toNat 64, .empty (.s g.d), .empty (.p g.pb), .spawn g.d g.pb n]

/-- TRAP (R63). -/
def execTrap (g : G) (s : State) : Out :=
  s.slotOp .c 0x0D .imm12 g false fun _ => .trap (trap 0x30)

/-- RTI (R65). -/
def execRti (g : G) (s : State) : Out :=
  s.slotOp .c 0x0E .bare g false fun x => x.outsideDelay (if x.tmask then done [.rti] else .trap (trap 0x01))

/-- MFS (R58). -/
def execMfs (g : G) (s : State) : Out :=
  s.slotOp .c 0x0F .dstImm12 g true fun _ => done [.launch (.s g.d (s.readSpec s.cur g.imm12)) 0 2]

/-- MTS (R58). -/
def execMts (g : G) (s : State) : Out :=
  s.slotOp .c 0x10 .srcDImm12 g false fun x =>
    match s.mtsFault s.cur g.imm12 (x.sd g) with
    | some f => .trap f
    | none => done [.spec g.imm12 (x.sd g)]

/-- FENCE_REL (R141). -/
def execFenceRel (g : G) (s : State) : Out :=
  s.fence 0x11 g true false

/-- FENCE_ACQ (R141). -/
def execFenceAcq (g : G) (s : State) : Out :=
  s.fence 0x12 g false true

/-- FENCE_SC (R141, R142). -/
def execFenceSc (g : G) (s : State) : Out :=
  s.fence 0x13 g true true

/-- XFENCE (R148). -/
def execXfence (g : G) (s : State) : Out :=
  s.slotOp .c 0x14 .immB2 g false fun _ => if g.b != 1 && s.writesOut s.cur 4 then .wait else done []

/-- GBAR (R149, R260). -/
def execGbar (g : G) (s : State) : Out :=
  s.slotOp .c 0x15 .gbar g false fun x =>
    x.outsideDelay
      (if s.writesOut s.cur 4 then .wait
      else if 256 ≤ (x.sa g).toNat || !grpHas ((s.tower (towerOf s.cur.core)).group (x.sa g).toNat) s.cur.core.val then
        .trap (trap 0x06)
      else done [.gbar (x.sa g).toNat g.pd])

/-- CBAR (R112, R261). -/
def execCbar (g : G) (s : State) : Out :=
  s.slotOp .c 0x16 .dstP g false fun x =>
    x.outsideDelay
      (if s.writesOut s.cur 4 then .wait else if x.atelier.isNone then .trap (trap 0x06) else done [.cbar g.pd])

/-- SOPEN (R266). -/
def execSopen (g : G) (s : State) : Out :=
  s.slotOp .c 0x17 .dstS g false fun _ => done [.empty (.s g.d), .sopen g.d]

/-- SCLOSE (R267). -/
def execSclose (g : G) (s : State) : Out :=
  s.slotOp .c 0x18 .srcA g false fun x =>
    if 4096 ≤ (x.sa g).toNat then .trap (trap 0x06)
    else if !s.scopeWithin s.cur (x.sa g).toNat then .trap (trap 0x13)
    else done [.sclose (x.sa g).toNat]

/-- CANCEL (R268). -/
def execCancel (g : G) (s : State) : Out :=
  s.slotOp .c 0x19 .srcAB g false fun x =>
    if 4096 ≤ (x.sa g).toNat ∨ 0x7FFFF8 < (x.sb g).toNat then .trap (trap 0x06)
    else if (x.sb g).toNat % 8 ≠ 0 then .trap (trap 0x05)
    else if (x.sa g).toNat = x.spec.scope.toNat ∨ !s.scopeWithin s.cur (x.sa g).toNat then .trap (trap 0x13)
    else done [.cancel (x.sa g).toNat (x.sb g).toNat]

/-- SEGACQ (R92). Its wait comes before its checks (R28); with sA empty no mask is there to wait for. -/
def execSegacq (g : G) (s : State) : Out :=
  s.slotOp .c 0x1A .srcA g false fun x =>
    let mask : BitVec 32 := (x.sa g).extractLsb' 0 32
    if x.isFull (.s g.a) && mask &&& s.ownedByOthers s.cur != 0 then .wait
    else if 2 ^ 32 ≤ (x.sa g).toNat then .trap (trap 0x06)
    else if mask &&& ~~~ (s.partition (towerOf s.cur.core) x.job) ≠ 0 then .trap (trap 0x13)
    else done [.segGrant mask]

/-- SEGREL (R93, R130). Its wait comes before its check (R28); with sA empty no mask is there to wait for. -/
def execSegrel (g : G) (s : State) : Out :=
  s.slotOp .c 0x1B .srcA g false fun x =>
    let mask : BitVec 32 := (x.sa g).extractLsb' 0 32
    if x.isFull (.s g.a) && s.segBusy s.cur mask then .wait
    else if 2 ^ 32 ≤ (x.sa g).toNat then .trap (trap 0x06)
    else done [.segRelease mask]

/-- TICKW (R264). -/
def execTickw (g : G) (s : State) : Out :=
  s.slotOp .c 0x1C .srcA g false fun x =>
    let frame : W64 := match s.job x.job with | some j => j.frame | none => 0
    x.outsideDelay (if decide (x.sa g ≤ frame) then done [] else .park (.tick (x.sa g)))

/-- BRK (R66). -/
def execBrk (g : G) (s : State) : Out :=
  s.slotOp .c 0x1D .bare g false fun x => done (if x.dbg then [.brk] else [])

/-- EXTENSION_OPCODE (R42, R45): EXTOP, with A and B captured as registers of the slot's class. -/
def execExtensionOpcode (op : BitVec 5) (g : G) (s : State) : Out :=
  let v := s.slotNo .any == 2 || s.slotNo .any == 3
  let h : Shape := if v then .srcVV else .srcAB
  s.slotOp .any (7#3 ++ op) h g false fun x => h.extop x g

/-- ILLOP (R42): a word that is no instruction. -/
def execIllop (w : SlotWord) (s : State) : Out := s.slotIllop w

end Sys2Proof.Machine
end

