-- ==== Sys2Proof/Machine/CoreEvents.lean ====
section
/-!
DEFINITION. Events of a core's contexts: results landing (R25, R101), asynchronous traps (R96), issue past the end of
instruction memory (R12), re-tests of parked waits (R257).
-/

namespace Sys2Proof.Machine

/-- The n-th entry of the snapshot buffer lands at its distance from the first resumed bundle (R101); in a handler, only
what a pre-emption captured (log 17, DEDUCED). -/
def State.landSnap (s : State) (r : CtxRef) (n : Nat) : State := match (s.ctx r).snap[n]?, (s.ctx r).replayAt with
  | some e, some t =>
    if s.cycle < t + e.tag || ((s.ctx r).tmask && e.outer) then s
    else (s.landCopy r e.copyTo e.copy).modCtx r fun x =>
      (({ x with snap := x.snap.eraseIdx n } : Ctx).land e.val).landFlags e.flags s.cycle
  | _, _ => s

/-- Whether a context takes an asynchronous trap at its bundle boundary (R96). -/
def Ctx.takesAsync (x : Ctx) : Bool := x.status == .running && !x.tmask && !x.asyncQ.isEmpty

/-- Issue past the last bundle: RANGE that belongs to no slot (R12, R108, R307). A pc beyond the first address past the end, by a
loop instruction of count 0 or an `rti` with SKIP, traps likewise, TRAPPC holding it (log 56, DEDUCED). -/
def State.pastEnd (s : State) (r : CtxRef) : State :=
  if topOf r.core ≤ (s.ctx r).pc.toNat then
    (s.modCtx r fun x => { x with emul := 0, npc := none }).takeTrap r { code := 0x06 }
  else s

/-- RESULT_LANDING (R25). -/
def execResultLanding (c : CtxRef) (n : Nat) (s : State) : Out := .next (s.landResult c n)

/-- SNAPSHOT_LANDING (R101). -/
def execSnapshotLanding (c : CtxRef) (n : Nat) (s : State) : Out := .next (s.landSnap c n)

/-- ASYNC_TRAP_DELIVERY (R96). -/
def execAsyncTrapDelivery (c : CtxRef) (s : State) : Out :=
  .next (if (s.ctx c).takesAsync then s.takeAsync c else s)

/-- ISSUE_PAST_END (R12), by the context being stepped. -/
def execIssuePastEnd (s : State) : Out := .next (s.pastEnd s.cur)

/-- WAIT_RETEST (R257). -/
def execWaitRetest (c : CtxRef) (s : State) : Out := .next (s.retest c)

end Sys2Proof.Machine
end

