-- ==== Sys2Proof/Machine/Local.lean ====
section
/-!
DEFINITION. Local memory instructions of slot 4 (R6 to R11, R68 to R89), on control cores in control memory (R298).
-/

namespace Sys2Proof.Machine

/-! Ranges of bytes: (offset, length). -/

/-- The banks that ranges touch (R68, R82). -/
def banksOf (rs : List (Nat × Nat)) : BitVec 32 :=
  rs.foldl (fun acc r => (touched 8 r.1 r.2).foldl (fun acc w => acc ||| BitVec.twoPow 32 (w % 32)) acc) 0

/-- The state in which a slot 4 operation on ranges acts: the context's earlier pieces that come before it have been performed
(R136, R140, R141). -/
def State.readyFor (s : State) (kind : Acc4) (rs : List (Nat × Nat)) : State :=
  s.beforeS s.cur kind rs

/-- A slot 4 operation on ranges: earlier pieces that order it come first, and an `acq` atomic is waited for (R136, R143). -/
def State.slot4 (s : State) (op : BitVec 8) (h : Shape) (g : G) (fixed : Bool) (kind : Acc4) (rs : Ctx → List (Nat × Nat))
    (body : State → Ctx → Res) : Out :=
  let s1 := if h.guard.enabled (s.ctx s.cur) g.n g.p then s.readyFor kind (rs (s.ctx s.cur)) else s
  s1.slotOp .l op h g fixed fun x => if s1.acqOut s1.cur then .wait else body s1 x

/-- Steps 1 to 3 of R76 on control memory (R298). -/
def ctlChecks (kind : Acc4) (align a len : Nat) : Option SlotFault :=
  if a % align ≠ 0 then some (trap 0x05)
  else if 0x100000 < a + len ∨ (kind ≠ .load ∧ 0x80000 < a + len) then some (trap 0x06) else none

/-- The checks of R76 on one range. -/
def State.checks4 (s : State) (x : Ctx) (kind : Acc4) (align a len : Nat) : Option SlotFault :=
  if isCtl s.cur.core then ctlChecks kind align a len
  else match addrChecks x align a len with
  | some f => some f
  | none => (s.core s.cur.core).stateChecks x.vtrap kind [(a, len)]

/-- The bytes that a slot 4 read returns (R73, R298). -/
def State.bytes4 (s : State) (a len : Nat) : List Byte :=
  s.localBytes s.cur.core a len

/-- VAC where some byte was fill (R73). -/
def State.fill4 (s : State) (rs : List (Nat × Nat)) : List Effect :=
  if !isCtl s.cur.core && (s.core s.cur.core).anyFill rs then [.status stVac] else []

/-- The effects of reading ranges (R70, R73, R82). -/
def State.reads4 (s : State) (rs : List (Nat × Nat)) : List Effect :=
  .banks (banksOf rs) :: rs.map (fun r => .touch r.1 r.2) ++ s.fill4 rs

/-- A memory operand: sA plus B units, a 64-bit sum (R77, R78). -/
def Ctx.operand (x : Ctx) (g : G) (unit : Nat) : Nat := (x.sa g + BitVec.ofNat 64 (g.b.toNat * unit)).toNat

/-! Shapes of meaning. -/

/-- A scalar load (R77). -/
def State.loadS (s : State) (op : BitVec 8) (g : G) (size : Nat) (ext : Nat → W64) : Out :=
  s.slot4 op .ldS g true .load (fun x => [(x.operand g size, size)]) fun s x =>
    let a := x.operand g size
    match s.checks4 x .load size a size with
    | some f => .trap f
    | none => done (s.reads4 [(a, size)] ++ [.launch (.s g.d (ext (leNat (s.bytes4 a size)))) 0 5])

/-- A store of the low bytes of a value (R77, R78). -/
def State.storeAt (s : State) (op : BitVec 8) (h : Shape) (g : G) (size align : Nat) (v : Ctx → Nat) : Out :=
  s.slot4 op h g false .store (fun x => [(x.operand g size, size)]) fun s x =>
    let a := x.operand g size
    match s.checks4 x .store align a size with
    | some f => .trap f
    | none => done [.banks (banksOf [(a, size)]), .store a (leBytes size (v x))]

/-- A vector load (R78). -/
def State.loadV (s : State) (op : BitVec 8) (g : G) (size align : Nat) : Out :=
  s.slot4 op .ldV g true .load (fun x => [(x.operand g size, size)]) fun s x =>
    let a := x.operand g size
    match s.checks4 x .load align a size with
    | some f => .trap f
    | none => done (s.reads4 [(a, size)] ++ [.launch (.v g.d (bytesVec (s.bytes4 a size))) 0 7])

/-- Elements of a strided access: n of a size, a stride apart (R79). -/
def strided (base stride : W64) (size n : Nat) : List (Nat × Nat) :=
  (List.range n).map fun i => ((base + BitVec.ofNat 64 i * stride).toNat, size)

/-- Elements of an indexed access (R79). -/
def indexed (base : W64) (v : Vec) : List (Nat × Nat) :=
  (List.range 64).map fun i => ((base + (lane 32 v i).zeroExtend 64).toNat, 4)

/-- Whether some bank holds more distinct words of the elements than a limit (R80). -/
def bankConflict (rs : List (Nat × Nat)) (limit : Nat) : Bool :=
  let ws := (rs.map fun r => r.1 / 8).dedup
  (List.range 32).any fun b => decide (limit < (ws.filter fun w => w % 32 == b).length)

/-- The checks of a strided or indexed access (R76, R79, R80): `aligned` is its alignment test. Each element is an access of its own:
an uncorrectable word that several elements of a scatter cover together is written in part by each, and raises POISON (R70, R79;
log 71, DESIGN CHOICE). -/
def State.elemChecks (s : State) (x : Ctx) (kind : Acc4) (aligned : Bool) (rs : List (Nat × Nat)) (limit : Nat) :
    Option SlotFault :=
  if !aligned then some (trap 0x05)
  else if rs.any fun r => decide (0x800000 < r.1 + r.2) then some (trap 0x06)
  else if rs.any fun r => !x.ownsRange r.1 r.2 then some (trap 0x06)
  else if bankConflict rs limit then some (trap 0x04)
  else (s.core s.cur.core).stateChecks x.vtrap kind rs

/-- A strided load or gather (R79). -/
def State.gather (s : State) (op : BitVec 8) (h : Shape) (g : G) (limit : Nat) (rs : Ctx → List (Nat × Nat))
    (aligned : Ctx → Bool) : Out :=
  s.slot4 op h g true .load rs fun s x =>
    match s.elemChecks x .load (aligned x) (rs x) limit with
    | some f => .trap f
    | none => done (s.reads4 (rs x) ++
        [.launch (.v g.d (bytesVec ((rs x).map fun r => s.bytes4 r.1 r.2).flatten)) 0 9])

/-- Whether the elements' offsets of an indexed access are multiples of 4 (R79). -/
def Ctx.indexAligned (x : Ctx) (g : G) : Bool :=
  (x.sa g).toNat % 4 == 0 && (List.range 64).all fun i => (lane 32 (x.vb g) i).toNat % 4 == 0

/-- A local atomic (R88): `what` is 0 add, 1 max, 2 xchg, 3 cas, with sD as the value expected. -/
def State.amo (s : State) (op : BitVec 8) (h : Shape) (g : G) (size : Nat) (what : BitVec 2) : Out :=
  s.slot4 op h g true .atomic (fun x => [((x.sa g).toNat, size)]) fun s x =>
    let a := (x.sa g).toNat
    match s.checks4 x .atomic size a size with
    | some f => .trap f
    | none => done [.banks (banksOf [(a, size)]), .touch a size, .amo size what a (x.sb g) (x.sd g) g.d]

/-! Stream operations. -/

/-- The issue checks of a stream operation of n elements (R7, R81). -/
def Core.streamChecks (k : Core) (x : Ctx) (esize n a d : Nat) : Option SlotFault :=
  let len := n * esize
  let halves (f : Nat → Bool) (off : Nat) : Bool := (List.range (len / 2)).any fun i => f (off + 2 * i)
  if a % esize ≠ 0 ∨ d % esize ≠ 0 then some (trap 0x05)
  else if 4096 < n then some (trap 0x06)
  else if n = 0 then none
  else if 0x800000 < a + len ∨ 0x800000 < d + len ∨ (a < d + len ∧ d < a + len) then some (trap 0x06)
  else if !x.ownsRange a len || !x.ownsRange d len then some (trap 0x06)
  else if halves k.held a || halves k.held d then some (trap 0x09)
  else if halves k.countsVacant a then some (trap 0x07)
  else if halves k.countsPresent d then some (trap 0x10)
  else none

/-- A stream operation of slot 4 is issued (R6, R81 to R83). Its bundle waits while an earlier one of the context still runs,
and, in a handler, while it is stopped by the trap (log 57, DEDUCED). -/
def State.streamOp (s : State) (op : BitVec 8) (g : G) (kind : StreamKind) (esize : Nat) : Out :=
  s.slot4 op .sssD g false .load
    (fun x => if 4096 < (x.sd g).toNat then []
      else [((x.sa g).toNat, (x.sd g).toNat * esize), ((x.sb g).toNat, (x.sd g).toNat * esize)]) fun s x =>
    if x.stream.isSome then .wait
    else
      let n := (x.sd g).toNat
      let a := (x.sa g).toNat
      let d := (x.sb g).toNat
      match (s.core s.cur.core).streamChecks x esize n a d with
      | some f => .trap f
      | none => done [.empty (.s g.d), .stream
          { kind := kind, esize := esize, srcCore := s.cur.core, src := a, dstCore := s.cur.core, dst := d, n := n,
            moved := 0, dreg := g.d, next := s.cycle + 4, stopped := false, srcLock := .locked, dstLock := .locked,
            seq := 0, srcAtl := 0, dstAtl := 0, resumed := false }]

/-- A state test (R87): `bits` gives the result from the offset. -/
def State.test4 (s : State) (op : BitVec 8) (g : G) (align : Nat) (bits : Core → Nat → W64) : Out :=
  s.slot4 op .unaryS g true .load (fun x => [((x.sa g).toNat, align)]) fun s x =>
    let a := (x.sa g).toNat
    match addrChecks x align a align with
    | some f => .trap f
    | none => done [.launch (.s g.d (bits (s.core s.cur.core) a)) 0 5]

/-- The poison of 64 sectors from an offset (R87). -/
def Core.poisonBits (k : Core) (off : Nat) : W64 :=
  BitVec.ofNat 64 ((List.range 64).foldl (fun acc i => if k.mem.poisoned (off + 32 * i) then acc + 2 ^ i else acc) 0)

/-- The checks of `vac` (R73, R76, R85). -/
def Core.vacChecks (k : Core) (x : Ctx) (a n : Nat) : Option SlotFault :=
  if a % 2 ≠ 0 ∨ n % 2 ≠ 0 then some (trap 0x05)
  else if 4096 < n then some (trap 0x06)
  else if n = 0 then none
  else if 0x800000 < a + n then some (trap 0x06)
  else if !x.ownsRange a n then some (trap 0x06)
  else k.stateChecks x.vtrap .vac [(a, n)]

/-! The instructions. -/

/-- LD_B (R77). -/
def execLdB (g : G) (s : State) : Out :=
  s.loadS 0x01 g 1 (sext64 8)

/-- LD_H (R77). -/
def execLdH (g : G) (s : State) : Out :=
  s.loadS 0x02 g 2 (sext64 16)

/-- LD_W (R77). -/
def execLdW (g : G) (s : State) : Out :=
  s.loadS 0x03 g 4 (sext64 32)

/-- LD_D (R77). -/
def execLdD (g : G) (s : State) : Out :=
  s.loadS 0x04 g 8 (sext64 64)

/-- LD_BZ (R77). -/
def execLdBz (g : G) (s : State) : Out :=
  s.loadS 0x05 g 1 (BitVec.ofNat 64)

/-- LD_HZ (R77). -/
def execLdHz (g : G) (s : State) : Out :=
  s.loadS 0x06 g 2 (BitVec.ofNat 64)

/-- LD_WZ (R77). -/
def execLdWz (g : G) (s : State) : Out :=
  s.loadS 0x07 g 4 (BitVec.ofNat 64)

/-- ST_B (R77). -/
def execStB (g : G) (s : State) : Out :=
  s.storeAt 0x08 .stS g 1 1 fun x => (x.sd g).toNat

/-- ST_H (R77). -/
def execStH (g : G) (s : State) : Out :=
  s.storeAt 0x09 .stS g 2 2 fun x => (x.sd g).toNat

/-- ST_W (R77). -/
def execStW (g : G) (s : State) : Out :=
  s.storeAt 0x0A .stS g 4 4 fun x => (x.sd g).toNat

/-- ST_D (R77). -/
def execStD (g : G) (s : State) : Out :=
  s.storeAt 0x0B .stS g 8 8 fun x => (x.sd g).toNat

/-- VLD (R78). -/
def execVld (g : G) (s : State) : Out :=
  s.loadV 0x10 g 256 32

/-- VLD_O (R78). -/
def execVldO (g : G) (s : State) : Out :=
  s.loadV 0x11 g 32 32

/-- VLD_Q (R78). -/
def execVldQ (g : G) (s : State) : Out :=
  s.loadV 0x12 g 16 16

/-- VST (R78). -/
def execVst (g : G) (s : State) : Out :=
  s.storeAt 0x13 .stV g 256 32 fun x => (x.vd g).toNat

/-- VST_O (R78). -/
def execVstO (g : G) (s : State) : Out :=
  s.storeAt 0x14 .stV g 32 32 fun x => (x.vd g).toNat

/-- VST_Q (R78). -/
def execVstQ (g : G) (s : State) : Out :=
  s.storeAt 0x15 .stV g 16 16 fun x => (x.vd g).toNat

/-- VLDS_W (R79). -/
def execVldsW (g : G) (s : State) : Out :=
  s.gather 0x16 .ldVss g 2 (fun x => strided (x.sa g) (x.sb g) 4 64)
    fun x => (x.sa g).toNat % 4 == 0 && (x.sb g).toNat % 4 == 0

/-- VLDS_H (R79). -/
def execVldsH (g : G) (s : State) : Out :=
  s.gather 0x17 .ldVss g 4 (fun x => strided (x.sa g) (x.sb g) 2 128)
    fun x => (x.sa g).toNat % 2 == 0 && (x.sb g).toNat % 2 == 0

/-- VLDX_W (R79). -/
def execVldxW (g : G) (s : State) : Out :=
  s.gather 0x18 .ldVsv g 2 (fun x => indexed (x.sa g) (x.vb g)) fun x => x.indexAligned g

/-- VSTX_W (R79). -/
def execVstxW (g : G) (s : State) : Out :=
  s.slot4 0x19 .stVsv g false .store (fun x => indexed (x.sa g) (x.vb g)) fun s x =>
    let rs := indexed (x.sa g) (x.vb g)
    match s.elemChecks x .store (x.indexAligned g) rs 2 with
    | some f => .trap f
    | none => done (.banks (banksOf rs) :: rs.zipIdx.map fun r => .store r.1.1 (leBytes 4 (lane 32 (x.vd g) r.2).toNat))

/-- SMV_H (R6, R7, R81, R82). -/
def execSmvH (g : G) (s : State) : Out :=
  s.streamOp 0x20 g .smv 2

/-- SMV_W (R6, R7, R81, R82). -/
def execSmvW (g : G) (s : State) : Out :=
  s.streamOp 0x21 g .smv 4

/-- SMV_D (R6, R7, R81, R82). -/
def execSmvD (g : G) (s : State) : Out :=
  s.streamOp 0x22 g .smv 8

/-- SDUP (R83). -/
def execSdup (g : G) (s : State) : Out :=
  s.streamOp 0x23 g .sdup 2

/-- VAC (R85). -/
def execVac (g : G) (s : State) : Out :=
  s.slot4 0x24 .srcAB g false .vac (fun x => [((x.sa g).toNat, (x.sb g).toNat)]) fun s x =>
    let a := (x.sa g).toNat
    let n := (x.sb g).toNat
    match (s.core s.cur.core).vacChecks x a n with
    | some f => .trap f
    | none => done (if n = 0 then [] else [.banks (banksOf [(a, n)]), .vacate a n])

/-- VTST (R87). -/
def execVtst (g : G) (s : State) : Out :=
  s.test4 0x25 g 128 Core.vacancy

/-- PTST (R87). -/
def execPtst (g : G) (s : State) : Out :=
  s.test4 0x38 g 2048 Core.poisonBits

/-- VTAKE (R84). -/
def execVtake (g : G) (s : State) : Out :=
  s.slot4 0x26 .ldV g true .take (fun x => [(x.operand g 256, 256)]) fun s x =>
    let a := x.operand g 256
    match s.checks4 x .take 32 a 256 with
    | some f => .trap f
    | none => done [.banks (banksOf [(a, 256)]), .touch a 256, .take a g.d]

/-- AMO_ADD_W (R88). -/
def execAmoAddW (g : G) (s : State) : Out :=
  s.amo 0x30 .sss g 4 0

/-- AMO_ADD_D (R88). -/
def execAmoAddD (g : G) (s : State) : Out :=
  s.amo 0x31 .sss g 8 0

/-- AMO_MAX_D (R88). -/
def execAmoMaxD (g : G) (s : State) : Out :=
  s.amo 0x32 .sss g 8 1

/-- AMO_XCHG_D (R88). -/
def execAmoXchgD (g : G) (s : State) : Out :=
  s.amo 0x33 .sss g 8 2

/-- AMO_CAS_D (R88). -/
def execAmoCasD (g : G) (s : State) : Out :=
  s.amo 0x34 .sssD g 8 3

end Sys2Proof.Machine
end

