-- ==== Sys2Proof/Machine/Atelier.lean ====
section
/-!
DEFINITION. Atelier instructions of slot 5 (R109, R110, R126 to R134, R143 to R145) and the events of their pieces and of
stream operations.
-/

namespace Sys2Proof.Machine

/-! Addresses and checks (R109, R126). -/

/-- The member and offset that an atelier address names; none raises RANGE (R109, R125, R126). -/
def State.memberAt (s : State) (x : Ctx) (a : Nat) : Option (CoreRef × Nat) := match x.atelier with
  | none => none
  | some g =>
    if 2 ^ 27 ≤ a then none
    else match (s.members (towerOf s.cur.core) g)[a / 2 ^ 23]? with
      | some c => some (c, a % 2 ^ 23)
      | none => none

/-- Step 3 of R126: the target's segments are owned by its atelier context. -/
def State.memberOwns (s : State) (x : Ctx) (c : CoreRef) (off len : Nat) : Bool :=
  (touched 0x40000 off len).all fun i => (s.mirror x c).getLsbD i

/-- Step 4 of R126: the target's layer is powered off. -/
def State.layerOff (s : State) (c : CoreRef) : Bool := (s.tower (towerOf c)).layersOff.getLsbD (layerOf c)

/-- Step 5 of R126: a range under an operand hold. -/
def Core.heldIn (k : Core) (off len : Nat) : Bool := (List.range len).any fun i => k.held (off + i)

/-- The checks of R126 on one range, in order; `range` is a RANGE condition of the instruction's own. -/
def State.checks5 (s : State) (x : Ctx) (a size align : Nat) (range holds : Bool) : Except SlotFault (CoreRef × Nat) :=
  if a % align ≠ 0 then .error (trap 0x05)
  else if range then .error (trap 0x06)
  else match s.memberAt x a with
  | none => .error (trap 0x06)
  | some (c, off) =>
    if 0x800000 < off + size then .error (trap 0x06)
    else if !s.memberOwns x c off size then .error (trap 0x06)
    else if s.layerOff c then .error (trap 0x0C)
    else if holds && (s.core c).heldIn off size then .error (trap 0x09)
    else .ok (c, off)

/-! Pieces. -/

/-- The pieces of a range: (offset, length), one for each sector (R110). -/
def pieceRanges (off len : Nat) : List (Nat × Nat) :=
  (touched 32 off len).map fun sec => (max off (32 * sec), min (off + len) (32 * sec + 32) - max off (32 * sec))

/-- An access sets out: its operation and its pieces; `data` are the bytes a write carries (R127 to R129). A fence of the same bundle
orders the access as an earlier one (log 70, DESIGN CHOICE). -/
def State.send (s : State) (x : Ctx) (kind : S5Kind) (dst : Option Reg) (c : CoreRef) (a off size : Nat)
    (ranges : List (Nat × Nat)) (data : List Byte) (expect : W64) (scope : Nat) : Effect :=
  .slot5 { seq := x.s5Seq, issued := s.cycle, kind := kind, dst := dst, target := c, first := off, size := size, left := ranges.length, got := []
           vac := false, filled := false }
    (ranges.map fun r =>
      { issuer := s.cur, node := x.node, job := x.job, seq := x.s5Seq, kind := kind, target := c, off := r.1
        at_ := if kind == .test then (r.1 - off) / 16 else r.1 - off
        len := r.2, data := (data.drop (r.1 - off)).take r.2, expect := expect, vtrap := x.vtrap, atl := a + (r.1 - off),
        scope := scope, tenant := x.spec.tenant.toNat, first := off, alen := size
        after := if c == s.cur.core then x.relHere else x.relWide })

/-- The slot 5 operations that a context has outstanding (R129, R132). -/
def Ctx.s5Count (x : Ctx) : Nat := x.s5.length + match x.stream with
  | some st => if st.kind = .rmv then 1 else 0
  | none => 0

/-- A slot 5 operation: it waits for an `acq` atomic, for a full refusal buffer and for room (R129, R143). -/
def State.slot5 (s : State) (op : BitVec 8) (h : Shape) (g : G) (body : Ctx → Res) : Out :=
  s.slotOp .n op h g false fun x =>
    if s.acqOut s.cur || !x.refusals.isEmpty || decide (16 ≤ x.s5Count) then .wait else body x

/-! Shapes of meaning. -/

/-- A remote load (R109, R131). -/
def State.rload (s : State) (op : BitVec 8) (h : Shape) (g : G) (size align : Nat) (dst : Reg) : Out :=
  s.slot5 op h g fun x =>
    let a := x.operand g size
    match s.checks5 x a size align false false with
    | .error f => .trap f
    | .ok (c, off) => done [.empty dst, s.send x .load (some dst) c a off size (pieceRanges off size) [] 0 x.spec.scope.toNat]

/-- A remote store (R109, R131). -/
def State.rstore (s : State) (op : BitVec 8) (h : Shape) (g : G) (size align : Nat) (v : Ctx → Nat) : Out :=
  s.slot5 op h g fun x =>
    let a := x.operand g size
    match s.checks5 x a size align false true with
    | .error f => .trap f
    | .ok (c, off) =>
      done [s.send x .store none c a off size (pieceRanges off size) (leBytes size (v x)) 0 x.spec.scope.toNat]

/-- A remote atomic (R134, R143 to R145): op 0 add, 1 max, 2 xchg, 3 cas. Whether its target is of kind U is seen as it is
performed (R90, R138). -/
def State.ramo (s : State) (opc : BitVec 8) (h : Shape) (g : G) (op : BitVec 2) (acq rel : Bool) : Out :=
  s.slot5 opc h g fun x =>
    let v := (x.sa g).toNat
    let t := v % 2 ^ 27
    let scope := nfld v 34 32
    match s.checks5 x t 8 8 (nfld v 63 35 != 0 || nfld v 31 27 != 0 || decide (4 < scope)) true with
    | .error f => .trap f
    | .ok (c, off) =>
      let cover := scope != 0 || c == s.cur.core
      done ((if !cover && (acq || rel) then [.status stScx] else []) ++
        [.empty (.s g.d), s.send x (.atomic op (acq && cover) (rel && cover)) (some (.s g.d)) c t off 8 [(off, 8)]
          (leBytes 8 (x.sb g).toNat) (x.sd g) x.spec.scope.toNat])

/-- The checks of `rmv.h`, in the order of R126 (R132): the two members and offsets. -/
def State.rmvChecks (s : State) (x : Ctx) (n a d : Nat) : Except SlotFault ((CoreRef × Nat) × CoreRef × Nat) :=
  if a % 2 ≠ 0 ∨ d % 2 ≠ 0 then .error (trap 0x05)
  else match s.memberAt x a, s.memberAt x d with
  | some (c, off), some (c2, off2) =>
    if 4096 < n ∨ (0 < n ∧ (0x800000 < off + 2 * n ∨ 0x800000 < off2 + 2 * n ∨
        (c = c2 ∧ off < off2 + 2 * n ∧ off2 < off + 2 * n))) then .error (trap 0x06)
    else if !s.memberOwns x c off (2 * n) || !s.memberOwns x c2 off2 (2 * n) then .error (trap 0x06)
    else if s.layerOff c || s.layerOff c2 then .error (trap 0x0C)
    else if (s.core c).heldIn off (2 * n) || (s.core c2).heldIn off2 (2 * n) then .error (trap 0x09)
    else .ok ((c, off), c2, off2)
  | _, _ => .error (trap 0x06)

/-! The instructions. -/

/-- RLD_W (R109). -/
def execRldW (g : G) (s : State) : Out :=
  s.rload 0x01 .ldS g 4 4 (.s g.d)

/-- RLD_D (R109). -/
def execRldD (g : G) (s : State) : Out :=
  s.rload 0x02 .ldS g 8 8 (.s g.d)

/-- RLD_Q (R109). -/
def execRldQ (g : G) (s : State) : Out :=
  s.rload 0x03 .ldV g 16 8 (.v g.d)

/-- RLD_O (R109). -/
def execRldO (g : G) (s : State) : Out :=
  s.rload 0x04 .ldV g 32 8 (.v g.d)

/-- RST_W (R109). -/
def execRstW (g : G) (s : State) : Out :=
  s.rstore 0x05 .stS g 4 4 fun x => (x.sd g).toNat

/-- RST_D (R109). -/
def execRstD (g : G) (s : State) : Out :=
  s.rstore 0x06 .stS g 8 8 fun x => (x.sd g).toNat

/-- RST_Q (R109). -/
def execRstQ (g : G) (s : State) : Out :=
  s.rstore 0x07 .stV g 16 8 fun x => (x.vd g).toNat

/-- RST_O (R109). -/
def execRstO (g : G) (s : State) : Out :=
  s.rstore 0x08 .stV g 32 8 fun x => (x.vd g).toNat

/-- RVLD (R131). -/
def execRvld (g : G) (s : State) : Out :=
  s.rload 0x09 .ldV g 256 32 (.v g.d)

/-- RVST (R131). -/
def execRvst (g : G) (s : State) : Out :=
  s.rstore 0x0A .stV g 256 32 fun x => (x.vd g).toNat

/-- RMV_H (R132, R351). -/
def execRmvH (g : G) (s : State) : Out :=
  s.slot5 0x0B .sssD g fun x =>
    if x.stream.isSome then .wait
    else
      let n := (x.sd g).toNat
      let a := (x.sa g).toNat
      let d := (x.sb g).toNat
      match s.rmvChecks x n a d with
      | .error f => .trap f
      | .ok ((c, off), c2, off2) => done [.empty (.s g.d), .stream
          { kind := .rmv, esize := 2, srcCore := c, src := off, dstCore := c2, dst := off2, n := n, moved := 0, dreg := g.d,
            next := 0, stopped := false, srcLock := .requested, dstLock := .requested, seq := x.s5Seq, srcAtl := a, dstAtl := d, resumed := false }]

/-- RTST (R133). -/
def execRtst (g : G) (s : State) : Out :=
  s.slot5 0x0C .unaryS g fun x =>
    let a := (x.sa g).toNat
    match s.checks5 x a 128 128 false false with
    | .error f => .trap f
    | .ok (c, off) => done [.empty (.s g.d), s.send x .test (some (.s g.d)) c a off 128 (pieceRanges off 128) [] 0 x.spec.scope.toNat]

/-- RAMO_ADD_RLX (R134, R143). -/
def execRamoAddRlx (g : G) (s : State) : Out :=
  s.ramo 0x10 .sss g 0 false false

/-- RAMO_ADD_ACQ (R134, R143). -/
def execRamoAddAcq (g : G) (s : State) : Out :=
  s.ramo 0x11 .sss g 0 true false

/-- RAMO_ADD_REL (R134, R143). -/
def execRamoAddRel (g : G) (s : State) : Out :=
  s.ramo 0x12 .sss g 0 false true

/-- RAMO_ADD_AR (R134, R143). -/
def execRamoAddAr (g : G) (s : State) : Out :=
  s.ramo 0x13 .sss g 0 true true

/-- RAMO_MAX_RLX (R134, R143). -/
def execRamoMaxRlx (g : G) (s : State) : Out :=
  s.ramo 0x14 .sss g 1 false false

/-- RAMO_MAX_ACQ (R134, R143). -/
def execRamoMaxAcq (g : G) (s : State) : Out :=
  s.ramo 0x15 .sss g 1 true false

/-- RAMO_MAX_REL (R134, R143). -/
def execRamoMaxRel (g : G) (s : State) : Out :=
  s.ramo 0x16 .sss g 1 false true

/-- RAMO_MAX_AR (R134, R143). -/
def execRamoMaxAr (g : G) (s : State) : Out :=
  s.ramo 0x17 .sss g 1 true true

/-- RAMO_XCHG_RLX (R134, R143). -/
def execRamoXchgRlx (g : G) (s : State) : Out :=
  s.ramo 0x18 .sss g 2 false false

/-- RAMO_XCHG_ACQ (R134, R143). -/
def execRamoXchgAcq (g : G) (s : State) : Out :=
  s.ramo 0x19 .sss g 2 true false

/-- RAMO_XCHG_REL (R134, R143). -/
def execRamoXchgRel (g : G) (s : State) : Out :=
  s.ramo 0x1A .sss g 2 false true

/-- RAMO_XCHG_AR (R134, R143). -/
def execRamoXchgAr (g : G) (s : State) : Out :=
  s.ramo 0x1B .sss g 2 true true

/-- RAMO_CAS_RLX (R134, R143). -/
def execRamoCasRlx (g : G) (s : State) : Out :=
  s.ramo 0x1C .sssD g 3 false false

/-- RAMO_CAS_ACQ (R134, R143). -/
def execRamoCasAcq (g : G) (s : State) : Out :=
  s.ramo 0x1D .sssD g 3 true false

/-- RAMO_CAS_REL (R134, R143). -/
def execRamoCasRel (g : G) (s : State) : Out :=
  s.ramo 0x1E .sssD g 3 false true

/-- RAMO_CAS_AR (R134, R143). -/
def execRamoCasAr (g : G) (s : State) : Out :=
  s.ramo 0x1F .sssD g 3 true true

/-! Events. -/

/-- PIECE_PERFORMED (R110, R127). -/
def execPiecePerformed (n : Nat) (s : State) : Out := .next (s.performPiece n)

/-- STREAM_ELEMENT_STEP (R6, R82, R132). -/
def execStreamElementStep (c : CtxRef) (s : State) : Out := .next (s.streamStep c)

/-- LOCK_EVENT (R351). -/
def execLockEvent (c : CtxRef) (dst : Bool) (s : State) : Out := .next (s.lockEvent c dst)

end Sys2Proof.Machine
end

