-- ==== Sys2Proof/Machine/Firmware.lean ====
section
/-!
DEFINITION. Slot 6 of the control profile (R299 to R309): the operations of Easel's firmware on its queues, journal, nodes and
completions.
-/

namespace Sys2Proof.Machine

/-- The tower that the context being stepped controls. -/
def State.mine (s : State) : Tower := s.tower (towerOf s.cur.core)

/-- A control operation with a result of variable latency. -/
def ctlTo (d : BitVec 6) (o : CtlOp) : Res := done [.empty (.s d), .ctl o]

/-- Whether the core has an `npush` that has not been performed (R302). -/
def State.pushing (s : State) : Bool := s.spawnWait.any fun w => w.push.isSome && w.ctx.core == s.cur.core

/-- Whether the core was started by a take-over and has not issued `tko` (R306). -/
def State.takingOver (s : State) : Bool := s.mine.takeover && !s.isPrimary s.cur.core

/-! The instructions. -/


/-- KSCAN (R300). -/
def execKscan (g : G) (s : State) : Out :=
  s.slotOp .k 0x01 .unaryS g false fun x =>
    if 2048 ≤ (x.sa g).toNat then .trap (trap 0x06) else ctlTo g.d (.kscan g.d (x.sa g).toNat)

/-- QREAD (R301). -/
def execQread (g : G) (s : State) : Out :=
  s.slotOp .k 0x02 .sss g false fun x =>
    let a := x.sa g
    let off := (x.sb g).toNat
    if fld a 31 11 ≠ 0 ∨ !s.mine.queueOn (fld a 10 0) ∨ 0xFFFC0 < off then .trap (trap 0x06)
    else if off % 64 ≠ 0 then .trap (trap 0x05)
    else ctlTo g.d (.qread g.d (fld a 10 0) (fld a 63 32) off)

/-- JAPPEND (R302). -/
def execJappend (g : G) (s : State) : Out :=
  s.slotOp .k 0x03 .sss g true fun x =>
    if s.mine.japp - s.mine.jcom = 16384 then .trap (trap 0x06) else ctlTo g.d (.jappend g.d (x.sa g) (x.sb g))

/-- JCOMMIT (R302). -/
def execJcommit (g : G) (s : State) : Out :=
  s.slotOp .k 0x04 .srcA g false fun x =>
    let n := (x.sa g).toNat
    if s.pushing then .wait
    else if n < s.mine.jcom.toNat ∨ s.mine.japp.toNat < n then .trap (trap 0x06)
    else done [.ctl (.jcommit n)]

/-- JREAD (R302). -/
def execJread (g : G) (s : State) : Out :=
  s.slotOp .k 0x05 .sImm2 g true fun x =>
    done [.launch (.s g.d (match g.b.toNat with
      | 0 => s.mine.jcom
      | 1 => s.mine.japp
      | _ => (s.mine.lastseq (fld (x.sa g) 10 0)).zeroExtend 64)) 0 2]

/-- NPUSH (R303). -/
def execNpush (g : G) (s : State) : Out :=
  s.slotOp .k 0x06 .sss g false fun x =>
    let off := (x.sa g).toNat
    let b := x.sb g
    if off % 64 ≠ 0 then .trap (trap 0x05)
    else if 0xFFFC0 < off ∨ fld b 31 11 ≠ 0 ∨ 4096 ≤ s.mine.origins.length then .trap (trap 0x06)
    else ctlTo g.d (.npush g.d off (fld b 10 0) (fld b 63 32))

/-- CPOST (R304). -/
def execCpost (g : G) (s : State) : Out :=
  s.slotOp .k 0x07 .srcDAB g false fun x =>
    let d := x.sd g
    if fld d 31 11 ≠ 0 ∨ s.mine.holdFull then .trap (trap 0x06)
    else done [.ctl (.cpost (fld d 10 0) (fld d 63 32) (fld (x.sa g) 63 32) (x.sb g))]

/-- CHOLD (R308). -/
def execChold (g : G) (s : State) : Out :=
  s.slotOp .k 0x08 .bare g false fun _ =>
    done [.ctl .chold]

/-- CREL (R306). -/
def execCrel (g : G) (s : State) : Out :=
  s.slotOp .k 0x09 .bare g false fun _ =>
    if s.mine.holdTko && s.mine.takeover then .trap (trap 0x06) else done [.ctl .crel]

/-- HBEAT (R305). -/
def execHbeat (g : G) (s : State) : Out :=
  s.slotOp .k 0x0A .bare g false fun _ =>
    done [.ctl .hbeat]

/-- TKO (R306). -/
def execTko (g : G) (s : State) : Out :=
  s.slotOp .k 0x0B .dstS g false fun _ =>
    if s.takingOver then ctlTo g.d (.tko g.d) else .trap (trap 0x06)

/-- TLBINV (R309). -/
def execTlbinv (g : G) (s : State) : Out :=
  s.slotOp .k 0x0C .unaryS g false fun x =>
    let off := (x.sa g).toNat
    if off % 32 ≠ 0 then .trap (trap 0x05)
    else if 0xFFFE0 < off then .trap (trap 0x06)
    else ctlTo g.d (.tlbinv g.d off)

end Sys2Proof.Machine
end

