-- ==== Sys2Proof/Machine/Suspend.lean ====
section
/-!
DEFINITION. Contexts leaving and taking their cores: pre-emption and resumption (R198, R314 to R318), gang slices (R320,
R321), dispatch (R91, R184, R248 to R251), cancels (R268 to R275).
-/

namespace Sys2Proof.Machine

/-! Pre-emption (R198, R314, R315). -/

/-- Entries of the snapshot buffer as a pre-emption keeps them: what was being put back counts from now (R101, R314). -/
def Ctx.keepSnap (x : Ctx) (cycle : Nat) : List SnapEntry :=
  (match x.replayAt with
    | some t => x.snap.map fun e => if x.tmask && e.outer then e else { e with tag := t + e.tag - cycle }
    | none => x.snap) ++ captures x.inflight cycle false

/-- A context as its image keeps it. -/
def Ctx.saved (x : Ctx) (cycle : Nat) : Ctx :=
  { x with inflight := [], snap := x.keepSnap cycle, replay := false, replayAt := none, preempt := false, ptag := 0 }

/-- What a pre-emption waits for: variable results, slot 5 answers, an `mmq` past its operands or between step boundaries (R198,
R314). -/
def State.preemptWaits (s : State) (r : CtxRef) : Bool :=
  let k := s.core r.core
  (s.ctx r).inflight.any (fun e => e.due.isNone) || !(s.ctx r).s5.isEmpty || s.answersOut r ||
    (k.mx.owner == some r.q && match k.mx.queue with
      | c :: _ => c.runsOn s.cycle
      | [] => false)

/-- A matrix command as its image keeps it: from its last step boundary; an `mzero` that has started is over (R198). -/
def savedMx (q : List MxCmd) : List MxCmd :=
  q.filterMap fun c => match c.op, c.started with
    | .mzero, some _ => none
    | _, _ => some { c with started := none }

/-- The image of a context (R314, R316): the context, its commands that have not started, its matrix state. -/
def State.imageOf (s : State) (r : CtxRef) : Image :=
  let x := s.ctx r
  let mine := (s.core r.core).mx.owner == some r.q
  let mx := (s.core r.core).mx
  { core := r.core, q := r.q, ctx := x.saved s.cycle
    cmds := s.cmds.filter fun c => c.ctx == some r && c.node == x.node && c.state == .queued
    mxq := if mine then savedMx mx.queue else []
    drains := if mine then mx.drains.filter fun d => d.started.isNone else []
    colls := s.colls.filter fun c => c.ctx == some r && c.node == x.node && !c.started
    msgs := s.msgs.filter fun m => m.ctx == r && m.node == x.node && !m.posted
    mx := if mine then some (mx.acc0, mx.acc1) else none
    kinds := (s.core r.core).segKind, key := s.key x.spec.tenant.toNat
    yielded := false, time := s.time, bad := [] }

/-- How many commands an image holds. -/
def Image.count (im : Image) : Nat := im.cmds.length + im.mxq.length + im.drains.length + im.colls.length + im.msgs.length

/-- The header of a pre-empted context's image in its node's frame: its doublewords (R316, R317). -/
def Image.header (im : Image) : List W64 :=
  let x := im.ctx
  [at_ 64 56 0x03 ||| at_ 64 32 im.count ||| at_ 64 0 (188416 + 256 * im.count),
    BitVec.ofNat 64 x.node,
    at_ 64 21 im.core.val ||| at_ 64 20 (if im.q then 1 else 0) ||| at_ 64 19 (if x.spec.il then 1 else 0) |||
      at_ 64 18 (if im.mx.isSome then 1 else 0) ||| at_ 64 12 x.spec.tenant.toNat ||| at_ 64 0 x.spec.scope.toNat,
    x.pc.zeroExtend 64 ||| match x.npc with
      | some n => at_ 64 63 1 ||| at_ 64 32 n.toNat
      | none => 0,
    BitVec.ofNat 64 im.time]

/-- The commands that an image holds leave their queues. -/
def State.takeCmds (s : State) (r : CtxRef) (im : Image) : State :=
  ({ s with
    cmds := s.cmds.filter fun c => !im.cmds.any (·.id == c.id)
    colls := s.colls.filter fun c => !im.colls.any (·.id == c.id)
    msgs := s.msgs.filter fun m => !im.msgs.any (·.id == m.id) } : State).modCore r.core fun k =>
      if im.mx.isSome then { k with mx := { k.mx with queue := [], drains := k.mx.drains.filter fun d => d.started.isSome } } else k

/-- Whether a job lies in its slice on a tower: always without a slice table (R320). -/
def State.inSlice (s : State) (t : Bool) (job : Nat) : Bool :=
  let w := s.tower t
  w.slices.isEmpty || match w.slice with
    | some i => (w.slices[i]?).any fun sl => sl.job == job
    | none => false

/-- A context is pre-empted: its image is written, it is freed, its segments stay owned, its node re-enters its ready
queue unless its job lies outside its slice; a PREEMPT entry is answered (R314). -/
def State.preemptCtx (s : State) (r : CtxRef) : State :=
  let x := s.ctx r
  if !x.preempt || x.status == .free || s.preemptWaits r then s
  else
    let im := s.imageOf r
    let s1 := (s.takeCmds r im).modNode x.node fun n => { n with image := some im, state := .ready }
    let s2 := s1.freeCtx r
    let s3 := if s.inSlice (towerOf r.core) x.job then s2.requeue x.node else s2
    if x.ptag = 0 then s3
    else
      let q := (x.ptag - 1) / 2 ^ 32
      s3.answerBusy q (BitVec.ofNat 32 (x.ptag - 1)) 1 0 (BitVec.ofNat 256 x.node)

/-- A pre-emption is asked for; with an atelier member every member is asked (R314). -/
def State.askPreempt (s : State) (r : CtxRef) (ptag : Nat) : State :=
  let ask (s : State) (r : CtxRef) (tag : Nat) : State :=
    if (s.ctx r).status == .free then s
    else s.modCtx r fun x => { x with preempt := true, ptag := if tag = 0 then x.ptag else tag }
  let s1 := ask s r ptag
  match (s.ctx r).atelier with
  | none => s1
  | some g => (s.atelierCtxs (towerOf r.core) g).foldl (fun a c => ask a c 0) s1

/-! Resumption (R315, R318). -/

/-- The commands of a node answer to the context that it now runs in. -/
def State.retarget (s : State) (node : Nat) (old r : CtxRef) : State :=
  let fix (c : Option CtxRef) : Option CtxRef := if c = some old then some r else c
  let s1 : State := { s with
    cmds := s.cmds.map fun c => if c.node == node then { c with ctx := fix c.ctx } else c
    colls := s.colls.map fun c => if c.node == node then { c with ctx := fix c.ctx } else c
    msgs := s.msgs.map fun m => if m.node == node && m.ctx == old then { m with ctx := r } else m
    adds := s.adds.map fun a => if a.node == node then { a with ctx := fix a.ctx } else a }
  let mine := (s.msgs.filter fun m => m.node == node && m.ctx == old).map (·.id)
  let posted (l : List Completion) : List Completion := l.map fun e =>
    if e.ctx == some old && mine.contains e.msgId then { e with ctx := some r } else e
  let both (w : Tower) : Tower := { w with completions := posted w.completions, postWait := posted w.postWait }
  ((s1.modTower false both).modTower true both).modCore old.core fun k => { k with mx := { k.mx with
    drains := k.mx.drains.map fun d => if d.node == node && d.ctx == old then { d with ctx := r } else d } }

/-- A context as it comes back: its snapshot entries wait for its first bundle, and a stream operation that the
pre-emption stopped goes on (R8, R101, R318). -/
def Ctx.resumed (x : Ctx) (cycle : Nat) : Ctx :=
  { x with
    replay := true
    replayAt := none
    stream := x.stream.map fun st => if st.stopped then st else { st with next := max st.next (cycle + 1), resumed := true }
    notBefore := cycle + 1 }

/-- A parked context is offered its condition again (R315). -/
def State.reoffer (s : State) (r : CtxRef) : State := match (s.ctx r).status with
  | .parked (.gbar g _ _) => s.gbarCheck (towerOf r.core) g
  | .parked (.cbar _ _) => match (s.ctx r).atelier with
    | some g => s.cbarCheck (towerOf r.core) g
    | none => s
  | _ => s.retest r

/-- A context as it is read back under another key than the one its image was written under: other data, of which nothing is known but
that it decodes (R329). What the rules do not take from the image, the job, its segments and its sets, stays; a stream operation, results
on their way and traps that wait are not found (log 76, DESIGN CHOICE); `n` gives the free values. -/
def Ctx.garbled (x : Ctx) (n : Nat → Nat) : Ctx :=
  let w (i : Nat) : W64 := BitVec.ofNat 64 (n i)
  { x with
    status := .running, pc := BitVec.ofNat 15 (n 0 % 2 ^ 14), npc := none, emul := 0
    sregs := Vector.ofFn fun i : Fin 64 => w (64 + i.val)
    vregs := Vector.ofFn fun i : Fin 64 => BitVec.ofNat 2048 (n (128 + i.val))
    kregs := Vector.ofFn fun i : Fin 8 => BitVec.ofNat 128 (n (192 + i.val))
    pregs := BitVec.ofNat 8 (n 1)
    full := ⟨w 2, w 3, BitVec.ofNat 8 (n 4), BitVec.ofNat 8 (n 5)⟩
    spec := { x.spec with
      status := (x.spec.status &&& 0x100) ||| (w 6 &&& 0xF), fflags := w 7 &&& 0x1F, trapinfo := w 8, trappc := w 9, trapvec := w 10
      faultmask := w 11, trapopa := w 12, trapopb := w 13, vlive := w 14, rngseed := w 15, rngctr := w 16, arbw := w 17 &&& 0xFFFF }
    loops := [], snap := [], asyncQ := [], refusals := [], stream := none, flagFile := w 18
    palette := tabEntries 0 0 ((List.range 256).map fun i => BitVec.ofNat 512 (n (256 + i))) }

/-- An image whose tenant's key has been replaced since it was written (R329): its commands are not found either, and what they held is
free. -/
def State.garbleImage (s : State) (im : Image) : Image × State :=
  if im.key == s.key im.ctx.spec.tenant.toNat then (im, s)
  else
    let n (i : Nat) : Nat := Config.freeNat (s.fresh + i)
    let acc (k : Nat) : Acc := { Acc.zero with cells := tabEntries 0 0 ((List.range 16384).map fun i => BitVec.ofNat 32 (n (k + i))) }
    ({ im with
      ctx := im.ctx.garbled n, cmds := [], mxq := [], drains := [], colls := [], msgs := [], mx := im.mx.map fun _ => (acc 1024, acc 32768) },
     ({ s with fresh := s.fresh + 2 ^ 16 } : State).freeHolds im.core im.matrixIds)

/-- A saved continuation resumes in a context, with the kinds of the segments it owns (R90, R254, R318). -/
def State.resume (s : State) (n : Node) (im0 : Image) (r : CtxRef) : State :=
  let (im, s0) := s.garbleImage im0
  let s1 := ((s0.modCore r.core fun k => { k with
    mirror := if im.ctx.atelier.isSome then 0 else k.mirror
    segKind := mergeKinds im.ctx.spec.segown im.kinds k.segKind }).setCtx r
    (im.ctx.resumed s.cycle)).retarget n.id ⟨im.core, im.q⟩ r
  let s2 : State := { s1 with
    cmds := s1.cmds ++ im.cmds.map (fun c => { c with ctx := some r })
    colls := s1.colls ++ im.colls.map (fun c => { c with ctx := some r, ready := 0 })
    msgs := s1.msgs ++ im.msgs.map (fun m => { m with ctx := r }) }
  let s3 := match im.mx with
    | none => s2
    | some (a0, a1) => s2.modCore r.core fun k =>
        let ds : List Drain := List.append k.mx.drains (im.drains.map (fun (d : Drain) => { d with ctx := r }))
        let mx : Matrix := { k.mx with owner := some r.q, queue := im.mxq, acc0 := a0, acc1 := a1, readyAt := s.cycle, drains := ds }
        { k with mx := mx }
  ((s3.modNode n.id fun n => { n with state := .running, image := none }).reoffer r).testColls r.core

/-! Dispatch (R91, R184, R248 to R251). -/

/-- The segments that a context is granted at dispatch: those its image declares that no other context owns (R91). -/
def State.dispatchSegs (s : State) (r : CtxRef) (job node : Nat) : BitVec 32 :=
  let want := (s.core r.core).segDecls.foldl (fun acc d =>
    if d.job == job && d.node.all (· == node) then acc ||| d.mask else acc) (0 : BitVec 32)
  want &&& ~~~ s.ownedByOthers r &&& s.partition (towerOf r.core) job

/-- The weights that a context receives (R294). -/
def Job.arbw (j : Job) : W64 :=
  (List.range 4).foldl (fun acc i =>
    acc ||| at_ 64 (4 * i) (min (fld j.arbwDef (4 * i + 3) (4 * i)) (fld j.arbwLim (4 * i + 3) (4 * i)))) 0

/-- A context at dispatch (R59 to R62, R184, R250); `seed` is RNGSEED. -/
def freshCtx (n : Node) (j : Job) (pal : List (Nat × Rec64)) (atelier : Option Nat) (seed : W64) : Ctx :=
  { Ctx.blank with
    status := .running
    node := n.id
    job := n.job
    pc := recEntry n.nrec
    sregs := ((((((Vector.replicate 64 (0 : W64)).set 1 (BitVec.ofNat 64 (recAblk n.nrec))).set 2 (recArg n.nrec 0)).set 3
      (recArg n.nrec 1)).set 4 (recArg n.nrec 2)).set 5 (recArg n.nrec 3))
    spec := { Spec.blank with il := recIl n.nrec, scope := BitVec.ofNat 12 (recScope n.nrec), tenant := j.tenant, rngseed := seed,
                              arbw := j.arbw
                              status := if j.dbg then 0x100 else 0 }
    palette := pal
    atelier := atelier }

/-- The Palette that the contexts of a core receive at dispatch from a job's image (R184). -/
def Core.palOf (k : Core) (job : Nat) : List (Nat × Rec64) :=
  (k.palInit.filter fun e => e.1 / 256 == job).map fun e => (e.1 % 256, e.2)

/-- A core joins those with a bound context. -/
def State.wake (s : State) (c : CoreRef) : State :=
  if s.running.contains c then s else { s with running := s.running ++ [c] }

/-- A node is killed as it is dispatched: its argument block lies in no segment it is granted (R250). -/
def State.badArgs (s : State) (n : Node) (c : CoreRef) (tenant : Nat) : State :=
  ((s.killScope (s.homeOf n.job) n.job (recScope n.nrec) c 0 tenant).report n.job
    { core := c.val, code := 0x06, cause := 0x10, tenant := tenant, scope := recScope n.nrec, base := recAblk n.nrec }).completeNode
    n.id true []

/-- A compute node starts in a context (R250); the seed is read as an engine reads the scratchpad (R10, R70). -/
def State.startNode (s : State) (n : Node) (j : Job) (r : CtxRef) (atelier : Option Nat) : State :=
  let segs := s.dispatchSegs r n.job n.id
  let ablk := recAblk n.nrec
  let k := s.core r.core
  let inSegs := decide (ablk + 16 ≤ 0x800000) && (touched 0x40000 ablk 16).all fun i => segs.getLsbD i
  if ablk != 0 && !inSegs then s.badArgs n r.core j.tenant.toNat
  else
    let x := freshCtx n j (k.palOf n.job) atelier 0
    let s1 := (s.setCtx r x).grant r segs
    let kinds := k.segDecls.foldl (fun (acc : W64) (d : SegDecl) =>
      if d.job == n.job && d.node.all (· == n.id) then mergeKinds (d.mask &&& segs) d.kinds acc else acc)
      (mergeKinds segs 0 k.segKind)
    let s2a := s1.modCore r.core fun k => { k with segKind := kinds, mirror := if atelier.isSome then 0 else k.mirror }
    let s2 := if ablk = 0 then s2a else s2a.readsWord r.core ablk 0x02 n.job j.tenant.toNat (recScope n.nrec)
    let seed : W64 := if ablk = 0 then 0 else BitVec.ofNat 64 (leNat ((s2.core r.core).mem.loads ablk 8))
    let pcan : W64 := (if n.pcan = 0 then 0 else 1) ||| at_ 64 16 (n.pcan % 65536)
    let s3 := if ablk = 0 then s2 else s2.modCore r.core fun k => { k with mem := k.mem.put (ablk + 8) (leBytes 8 pcan.toNat) }
    ((s3.modCtx r fun x => { x with spec.rngseed := seed, notBefore := s.cycle + 1 }).modNode n.id fun n =>
      { n with state := .running }).wake r.core

/-- The atelier that a core belongs to (R125, R259). -/
def State.atelierOf (s : State) (c : CoreRef) : Option Nat :=
  ((s.tower (towerOf c)).groups.find? fun g => bit g.2 61 && grpHas g.2 c.val).map (·.1)

/-- Whether a core takes dispatches: its layer on, its column replayed, its tower not excluded (R326, R327, R333). -/
def State.usable (s : State) (c : CoreRef) : Bool :=
  !isCtl c && !s.unreachable c && !(s.tower (towerOf c)).excluded && !s.faulted

/-- Whether a node's affinity names a core (R249). -/
def State.affine (s : State) (n : Node) (c : CoreRef) : Bool := match recAfm n.nrec with
  | 0 => decide (recAff n.nrec = c.val)
  | 1 => towerOf c == recTower n.nrec && grpHas ((s.tower (recTower n.nrec)).group (fld n.nrec 53 46)) c.val
  | _ => towerOf c == recTower n.nrec

/-- The context of a core that a node takes: an exposed node the primary, an interlocked one the primary if free, else
the secondary (R249). -/
def State.freeFor (s : State) (n : Node) (c : CoreRef) : Option CtxRef :=
  let free (q : Bool) : Bool := (s.ctx ⟨c, q⟩).status == .free
  if free false then some ⟨c, false⟩ else if recIl n.nrec && free true then some ⟨c, true⟩ else none

/-- Whether a saved continuation can resume on a core: where its segments are, those that were saved restored, with the engine free for
its matrix state and room for its commands (R191, R249, R318, R321). -/
def State.resumesOn (s : State) (im : Image) (c : CoreRef) : Bool :=
  im.ctx.spec.segown &&& s.savedMask c im.ctx.job == 0 &&
  (im.ctx.spec.segown == 0 && im.ctx.stream.isNone && im.mx.isNone || im.core == c) &&
    (im.mx.isNone || (s.core c).mx.owner.isNone) && decide ((s.engineOf c).length + im.cmds.length ≤ 128)

/-- Whether a compute node can be dispatched to a core, as a single node: not while a segment of the core is to be saved or restored
(R249, R321). -/
def State.matchesCore (s : State) (n : Node) (c : CoreRef) : Bool :=
  s.usable c && !((s.tower (towerOf c)).saving.any fun e => e.1 == c.val) && s.affine n c && (s.freeFor n c).isSome && s.inSlice (towerOf c) n.job && match n.image with
    | some im => s.resumesOn im c
    | none => true

/-- Whether a node is an atelier node: AFM 0 on a core of an atelier, not yet started (R249). -/
def State.isAtelierNode (s : State) (n : Node) : Bool :=
  recKind n.nrec == 0 && recAfm n.nrec == 0 && (s.atelierOf (coreOfId (recAff n.nrec))).isSome

/-- The ready atelier node of a scope for a member core: the earliest (R249). -/
def State.memberNode (s : State) (t : Bool) (job scope : Nat) (c : CoreRef) : Option Node :=
  ((s.tower t).ready.filterMap fun e => s.node e.2).find? fun n =>
    recKind n.nrec == 0 && recAfm n.nrec == 0 && recAff n.nrec == c.val && n.job == job && recScope n.nrec == scope &&
      s.matchesCore n c

/-- The set that an atelier node is dispatched with: one ready node of its scope for each member core (R249). -/
def State.atelierSet (s : State) (t : Bool) (n : Node) : Option (List Node) := match s.atelierOf (coreOfId (recAff n.nrec)) with
  | none => none
  | some g =>
    let ns := (s.members t g).map (s.memberNode t n.job (recScope n.nrec))
    if ns.all Option.isSome then some (ns.filterMap id) else none

/-- The collectives that run in a tower (R283). -/
def State.collsRunning (s : State) (t : Bool) : Nat := (s.colls.filter fun c => c.started && towerOf c.core == t).length

/-- Whether the engine that a node of another kind needs is free (R248, R251). -/
def State.engineFree (s : State) (n : Node) (c : CoreRef) : Bool := match recKind n.nrec with
  | 1 => towerOf c == n.tower && s.engineRoom c && (recAfm n.nrec != 0 || decide (recAff n.nrec = c.val))
  | 2 => towerOf c == n.tower && decide (s.collsRunning n.tower < 8) && (recAfm n.nrec != 0 || decide (recAff n.nrec = c.val))
  | _ => true

/-- Whether a cancel has been handled for a node's scope: the node never starts or resumes (R269, R272). -/
def State.condemned (s : State) (n : Node) : Bool := match s.scope (s.homeOf n.job) (recScope n.nrec) with
  | some c => c.state == .dying || c.state == .dead
  | none => false

/-- Whether a node can be dispatched now. -/
def State.dispatchable (s : State) (t : Bool) (n : Node) : Bool :=
  !s.faulted && !s.condemned n && (s.tower t).retrain.isNone && s.inSlice t n.job &&
    if recKind n.nrec = 0 then
      (if s.isAtelierNode n then (s.atelierSet t n).isSome
       else (List.range 256).any fun i => s.matchesCore n (coreOfId (256 * towerNat t + i)))
    else (List.range 256).any fun i => s.engineFree n (coreOfId (256 * towerNat t + i))

/-- The node that a tower dispatches next: of the highest priority, or at every 16th dispatch the one ready longest
(R248). -/
def State.nextNode (s : State) (t : Bool) : Option Nat :=
  let can := (s.tower t).ready.filter fun e => (s.node e.2).any (s.dispatchable t)
  if (s.tower t).dispatches % 16 = 15 then can.head?.map (·.2)
  else
    let top := can.foldl (fun m e => max m e.1) 0
    (can.find? fun e => e.1 == top).map (·.2)

/-- Checks of an engine node at dispatch: its record's use of AFM and its arguments (R251). -/
def engineArgsOk (n : Node) : Bool :=
  recAfm n.nrec != 1 && match recKind n.nrec with
    | 1 =>
      let a := recArg n.nrec 2
      fld a 63 9 == 0 && (fld a 7 0 == 0x30 || fld a 7 0 == 0x31 || fld a 7 0 == 0x36) && (!bit a 8 || fld a 7 0 == 0x36)
    | 2 => recArg n.nrec 2 == 0 && recArg n.nrec 3 == 0
    | _ => fld (recArg n.nrec 2) 63 12 == 0 && recArg n.nrec 3 == 0

/-- An entry image in device memory (R251). -/
def State.entryImage (s : State) (job : Nat) (a : W64) : Option Rec64 := (s.vreadClean job a.toNat 64).map recOfBytes

/-- A context that owns every segment: the local checks of an engine node's views test bounds only, with no context to
own them (log 21, DEDUCED). -/
def ownerCtx (n : Node) (tenant : BitVec 6) : Ctx :=
  { Ctx.blank with node := n.id, job := n.job, spec := { Spec.blank with segown := BitVec.allOnes 32, tenant := tenant } }

/-- The command of a copy node, with the checks of its instruction; a `fill` has no source (R215, R221, R222, R251). -/
def State.copyNode (s : State) (n : Node) (tenant : BitVec 6) (c : CoreRef) : Option Cmd :=
  let op := fld (recArg n.nrec 2) 7 0
  let dst := s.entryImage n.job (recArg n.nrec 1)
  match if op = 0x36 then dst else s.entryImage n.job (recArg n.nrec 0), dst with
  | some a, some b =>
    let x : Ctx := { ownerCtx n tenant with palette := tabSet 0 (tabSet 0 [] 0 a) 1 b }
    let s1 : State := { s with cur := ⟨c, false⟩ }
    let vac := bit (recArg n.nrec 2) 8
    let localBad := recAfm n.nrec == 2 && (vwSpace a == 0 || vwSpace b == 0)
    let mk (o : CmdOp) (src dst : Nat) : Cmd :=
      { s1.newCmd x .none o src dst .none (recArg n.nrec 3) with ctx := none, scope := recScope n.nrec, tag := 0 }
    if (entryFault s.mx6 a).isSome || (entryFault s.mx6 b).isSome || localBad then none
    else if op = 0x36 then
      match s1.fillCheck x 0 (at_ 64 0 1 ||| (if vac then 0x100 else 0)) 0 with
      | .ok _ => some (mk (.fill vac) 1 1)
      | .error _ => none
    else match s1.xferCheck x (op == 0x31) 0x0100 0 with
      | .ok _ => some (mk (if op = 0x31 then .mov else .cpy) 0 1)
      | .error _ => none
  | _, _ => none

/-- The command of a collective node, with the checks of `coll` (R211, R251, R279). -/
def State.collNode (s : State) (n : Node) (j : Job) (c : CoreRef) : Option CollCmd :=
  match s.entryImage n.job (recArg n.nrec 0), s.entryImage n.job (recArg n.nrec 1) with
  | some d, some b =>
    let x : Ctx := { ownerCtx n j.tenant with palette := tabSet 0 (tabSet 0 [] (clBucket d) b) (if clBucket d = 0 then 1 else 0) d }
    let s1 : State := { s with cur := ⟨c, false⟩ }
    let id := if clBucket d = 0 then 1 else 0
    if (entryFault s.mx6 d).isSome || (entryFault s.mx6 b).isSome || recAfm n.nrec != 0 then none
    else match s1.collCheck x (BitVec.ofNat 64 id) with
    | .error _ => none
    | .ok ring => some {
        id := s.nextId, ctx := none, node := n.id, job := n.job, scope := recScope n.nrec, tenant := j.tenant.toNat, core := c,
        tag := 0, issued := .none, desc := d, descId := id, bucket := b, bucketId := clBucket d, ring := ring, arbw := j.arbw, inst := 0, engine := 0,
        ready := 0, started := false, step := 0, work := [], workPois := [], rx := [], rxPois := [], peer := none, lastSeq := 0,
        failing := none, aborted := false, killed := false }
  | _, _ => none

/-- A failed check completes the node cancelled (R251, R274). -/
def State.failNode (s : State) (n : Node) : State := s.completeNode n.id true []

/-- Easel reads a check node's counter: the value at a device virtual address of its job; above its limit, the scope is cancelled,
a proper descendant of the node's own (R251). -/
def State.checkNode (s : State) (n : Node) (j : Job) : State :=
  if !engineArgsOk n then s.failNode n
  else match s.vreadClean n.job (recArg n.nrec 0).toNat 8 with
  | none => s.failNode n
  | some bs =>
    if BitVec.ofNat 64 (leNat bs) ≤ recArg n.nrec 1 then s.completeNode n.id false []
    else if !s.checkScopeOk j.home n.nrec then s.failNode n
    else
      let scope := fld (recArg n.nrec 2) 11 0
      (s.modNode n.id fun n => { n with state := .checking }).killScope j.home n.job scope 0 0 j.tenant.toNat

/-- A node of another kind is dispatched (R251). -/
def State.startEngineNode (s : State) (n : Node) (j : Job) (c : CoreRef) : State := match recKind n.nrec with
  | 1 => match if engineArgsOk n then s.copyNode n j.tenant c else none with
    | none => s.failNode n
    | some cmd =>
      ({ s with cmds := s.cmds ++ [{ cmd with id := s.nextId }], nextId := s.nextId + 1 } : State).modNode n.id fun m =>
        { m with state := .engine s.nextId false }
  | 2 => match if engineArgsOk n then s.collNode n j c else none with
    | none => s.failNode n
    | some cmd =>
      let t := towerOf c
      let key := 4 * clRing cmd.desc + collClass cmd.desc
      let i := tabGet 0 (s.tower t).instances key
      let s1 := s.modTower t fun w => { w with instances := tabSet 0 w.instances key (i + 1) }
      (({ s1 with colls := s1.colls ++ [{ cmd with inst := i }], nextId := s1.nextId + 1 } : State).modNode n.id fun m =>
        { m with state := .engine s.nextId false }).testColls c
  | _ => s.checkNode n j

/-- A node leaves its ready queue as it is dispatched. -/
def State.unready (s : State) (t : Bool) (id : Nat) : State :=
  s.modTower t fun w => { w with ready := w.ready.filter (·.2 != id) }

/-- An image with a codeword that reads back uncorrectable is not restored: a report, and its scope is killed (R319, R324). -/
def State.unreadable (s : State) (n : Node) (j : Job) (bad : List Nat) : State :=
  let note : Report :=
    { code := 0x25, cause := 0x05, space := 3, tenant := j.tenant.toNat, scope := recScope n.nrec, base := bad.headD 0, sect := 2 * bad.length }
  (s.report j.num note).killScope j.home j.num (recScope n.nrec) 0 0 j.tenant.toNat

/-- One node takes a context. -/
def State.place (s : State) (n : Node) (j : Job) (r : CtxRef) (atelier : Option Nat) : State :=
  let s1 := s.unready n.tower n.id
  match n.image with
  | some im => if im.bad.isEmpty then (s1.resume n im r).wake r.core else s1.unreadable n j im.bad
  | none => s1.startNode n j r atelier

/-- Easel dispatches the tower's next node to the context, or its engine to the core, that it chose; the choice is the
event's where several match (R248, R249). Nothing happens for a choice that the rules forbid. -/
def State.dispatch (s : State) (t : Bool) (nodes : List (Nat × CtxRef)) : State := match nodes with
  | [] => s
  | (id, r) :: rest => match s.node id with
    | none => s
    | some n => match s.job n.job with
      | none => s
      | some j =>
        let count (s : State) : State := s.modTower t fun w => { w with dispatches := w.dispatches + 1 }
        if s.nextNode t != some id || n.tower != t then s
        else if recKind n.nrec ≠ 0 then
          if s.engineFree n r.core then (count s).unready t id |>.startEngineNode n j r.core else s
        else if s.isAtelierNode n then match s.atelierSet t n with
          | none => s
          | some ns =>
            let g := s.atelierOf (coreOfId (recAff n.nrec))
            ns.foldl (fun (a : State) m => match a.freeFor m (coreOfId (recAff m.nrec)) with
              | some r => a.place m j r g
              | none => a) (count s)
        else if rest.isEmpty && s.matchesCore n r.core && s.freeFor n r.core == some r then (count s).place n j r none
        else s

/-! Cancels (R269 to R275). -/

/-- The matrix engine of a killed continuation: its queued and running commands end, its started drains are discarded as they complete
(R198). -/
def State.killMx (s : State) (r : CtxRef) (node : Nat) : State :=
  let mx := (s.core r.core).mx
  let queue := if mx.owner == some r.q then mx.queue else []
  let gone := queue.map (·.id) ++ (mx.drains.filter fun d => d.node == node && d.started.isNone).map (·.id)
  (s.modCore r.core fun k =>
    let k1 := k.killDrains node
    if k.mx.owner == some r.q then { k1 with mx := { k1.mx with queue := [] } } else k1).freeHolds r.core gone

/-- A running continuation is killed at its kill point (R269). -/
def State.killCtx (s : State) (r : CtxRef) (inside : List Nat) : State :=
  let x := s.ctx r
  let s1 := (s.breakBars r.core x.node x).killStream r.core x.job x.node x.spec.tenant.toNat x.spec.scope.toNat x.stream
  let s2 := (s1.killMx r x.node).freeCtx r
  ({ s2 with spawnWait := s2.spawnWait.filter fun w => !(w.ctx == r && w.node == x.node) } : State).completeNode x.node true inside

/-- What a cancel does to an engine command of the subtree: one that has not started is dropped, a running transfer is to be discarded
at its end, what waits to run again, for a frame or for room for its trap is discarded, and so is a complete `.np` command; an add that
a dropped or discarded command has asked for is not made (R270). -/
def State.killCmd (s : State) (c : Cmd) : State :=
  let s1 := match c.state with
    | .queued => s.endCmd c.id
    | .running => if c.op.transfers then s.setCmd { c with killed := true } else s.endCmd c.id
    | _ => s.discardCmd c
  ({ s1 with adds := s1.adds.filter fun a => a.src != some c.id } : State).cutNode c.node c.id

/-- Whether a command of a job and scope is in a cancel's subtree. -/
def Cancel.covers (k : Cancel) (job scope : Nat) : Bool := k.job == job && k.scopes.contains scope

/-- A cancel reaches a core: its continuations stop, those that have left it since are removed with their images, the commands
issued from it end (R269, R270, R315). -/
def State.cancelArrive (s : State) (k : Cancel) (core : CoreRef) : State :=
  let inside := (s.nodes.filter fun n => n.within k.job k.scopes).map (·.id)
  let hit (r : CtxRef) : Bool := (s.ctx r).status != .free && k.covers (s.ctx r).job (s.ctx r).spec.scope.toNat
  let s0 := [CtxRef.mk core false, CtxRef.mk core true].foldl (fun (a : State) r => if hit r then a.killCtx r inside else a) s
  let saved := s0.nodes.filter fun n => n.within k.job k.scopes && n.state == .ready && n.image.any (·.core == core)
  let s1 := saved.foldl (fun a n => a.removeNode n inside) s0
  let cmds := s1.cmds.filter fun c => c.core == core && k.covers c.job c.scope
  let ends := s1.colls.filter fun c => c.core == core && k.covers c.job c.scope && !c.started
  let s2 := ends.foldl (fun (a : State) c => a.cutNode c.node c.id) (cmds.foldl (fun (a : State) c => a.killCmd c) s1)
  { s2 with
    colls := (s2.colls.filter fun c => !(c.core == core && k.covers c.job c.scope && !c.started)).map fun c =>
      if c.core == core && k.covers c.job c.scope then { c with killed := true } else c
    msgs := s2.msgs.filter fun m => !(m.core == core && k.covers m.job m.scope && !m.posted)
    cancels := s2.cancels.map fun q => if q.id == k.id then { q with left := q.left.filter (· != core.val) } else q }

/-- A report as a completion carries it: the job and the scope of one of TYPE 0x0A (R106, R293). -/
def Completion.reports (e : Completion) : Option (Nat × Nat) :=
  if fld e.entry 55 48 = 0x0A then some (nfld (dw e.entry 1).toNat 63 32, nfld (dw e.entry 1).toNat 11 0) else none

/-- Whether a report in a job and scope that satisfies a condition is posted and not yet written (R275). -/
def State.reportWaits (s : State) (p : Nat → Nat → Bool) : Bool := [s.tower0, s.tower1].any fun w =>
  (w.completions ++ w.postWait).any fun e => e.reports.any fun u => p u.1 u.2

/-- Whether the subtree of a cancel is quiet: the adds of its commands are part of them, and every report has been written (R275,
R348). -/
def State.quietCancel (s : State) (k : Cancel) : Bool :=
  k.left.isEmpty &&
    !(s.nodes.any fun n => n.within k.job k.scopes) &&
    !(s.cmds.any fun c => k.covers c.job c.scope) && !(s.colls.any fun c => k.covers c.job c.scope) &&
    !(s.adds.any fun a => k.covers a.job a.scope && a.node != 0) && !(s.msgs.any fun m => k.covers m.job m.scope) && !(s.pieces.any fun p => k.covers p.job p.scope) &&
    !(s.cores.toList.any fun c => c.mx.drains.any fun d => k.covers d.job d.scope) && !s.reportWaits k.covers

/-- A subtree becomes quiet: its scopes are dead, the acknowledgement is added, check nodes waiting for it complete
(R251, R275). -/
def State.quietNow (s : State) (k : Cancel) : State :=
  let s1 : State := { s with
    scopes := s.scopes.map fun c => if c.home == k.home && k.scopes.contains c.id && c.job == k.job then { c with state := .dead } else c
    cancels := s.cancels.filter (·.id != k.id) }
  let s2 := if k.ctr = 0 then s1 else s1.ask (addOf k.core none (.mem k.ctr) 1 0 k.job k.issuer k.tenant)
  let checks := s2.nodes.filter fun n => n.job == k.job && n.state == .checking && fld (recArg n.nrec 2) 11 0 == k.scope
  checks.foldl (fun (a : State) n => a.completeNode n.id false []) s2

/-! Gang slices (R320, R321). -/

/-- The mask of a slice. -/
def Tower.sliceMask (w : Tower) (i : Option Nat) : BitVec 32 := match i.bind fun n => w.slices[n]? with
  | some sl => sl.segmask
  | none => 0

/-- The job of a slice. -/
def Tower.sliceJob (w : Tower) (i : Option Nat) : Nat := match i.bind fun n => w.slices[n]? with
  | some sl => sl.job
  | none => 0

/-- The compute cores of a tower. -/
def coresOf (t : Bool) : List CoreRef := (List.range 256).map fun i => coreOfId (256 * towerNat t + i)

/-- The contexts of a job on a tower. -/
def State.ctxsOf (s : State) (t : Bool) (job : Nat) : List CtxRef :=
  ((coresOf t).map fun c => [CtxRef.mk c false, CtxRef.mk c true]).flatten.filter fun r =>
    (s.ctx r).status != .free && (s.ctx r).job == job

/-- Whether some continuation of a job owns a segment of a core, live or saved, whose contents stand in the core. -/
def State.jobOwns (s : State) (job : Nat) (c : CoreRef) (seg : Nat) : Bool :=
  !(s.savedMask c job).getLsbD seg && ((s.ctxsOf (towerOf c) job).any (fun r => r.core == c && (s.ctx r).owns seg) || s.nodes.any fun n =>
    n.job == job && n.image.any fun im => im.core == c && im.ctx.owns seg)

/-- The saved continuations of a tower whose job now lies in its slice re-enter their ready queues (R320). -/
def State.rejoin (s : State) (t : Bool) : State :=
  let back := s.nodes.filter fun n => n.tower == t && n.image.isSome && n.state == .ready && s.inSlice t n.job &&
    !((s.tower t).ready.any fun e => e.2 == n.id)
  back.foldl (fun (a : State) n => a.requeue n.id) s

/-- A slice boundary: the outgoing job's contexts are pre-empted, the segments in both masks are to be saved, as are those that the
incoming job has saved segments for, and the incoming job's images re-enter their ready queues; a segment whose contents are still the
incoming job's, for its save has not been reached, stays as it is (R320, R321). -/
def State.sliceTo (s : State) (t : Bool) (i : Nat) : State :=
  let w := s.tower t
  if w.slices.length ≤ i then s
  else
    let out := w.sliceJob w.slice
    let both := w.sliceMask w.slice &&& w.sliceMask (some i)
    let s1 := (s.ctxsOf t out).foldl (fun (a : State) r => if out = w.sliceJob (some i) then a else a.askPreempt r 0) s
    let pairs := ((coresOf t).map fun c => (segsOf both).map fun g => (c.val, g)).flatten
    let back := (w.savedSegs.filter fun x => x.job == w.sliceJob (some i)).map fun x => (x.core.val, x.seg)
    let saves := if out = w.sliceJob (some i) then [] else pairs ++ back
    let next := (w.saving ++ saves.filter fun e => !w.saving.contains e).filter fun e => !s.jobOwns (w.sliceJob (some i)) (coreAt e.1) e.2
    (s1.modTower t fun w => { w with slice := some i, saving := next.dedup }).rejoin t

/-- The matrix commands that the images of a core keep: what they hold goes with their segments (R198, R321). -/
def State.savedMatrix (s : State) (c : CoreRef) : List Nat :=
  s.nodes.flatMap fun n => match n.image with
    | some im => if im.core == c then im.matrixIds else []
    | none => []

/-- Whether an engine command claims, reads or adds to a segment of a core: one with local bytes or its counter there, a matrix command,
a collective, none of them saved in an image (R321). -/
def State.segEngaged (s : State) (c : CoreRef) (seg : Nat) : Bool :=
  let saved := s.savedMatrix c
  let inSeg (a : Nat) : Bool := a / 0x2000 == seg
  let live (t : Nat × Nat) : Bool := inSeg t.1 && !saved.contains t.2
  let at_ (r : Ctr) : Bool := match r with
    | .mem off => off / 0x40000 == seg
    | _ => false
  let k := s.core c
  k.pend.any live || k.transit.any live || k.holds.any live ||
    (s.cmds.any fun d => d.core == c && d.state != .queued && !d.op.isFill && vwSpace d.src == 0 &&
      (runSectors (viewRuns s.mx6 d.src)).any inSeg) ||
    (s.cmds.any fun d => d.core == c && d.state != .queued && at_ d.ctr) ||
    (k.mx.queue.any fun q => q.started.isSome && at_ q.ctr) || (k.mx.drains.any fun d => d.started.isSome && at_ d.ctr) ||
    (s.colls.any fun d => d.core == c && d.started && [clCctr d.desc, clNfctr d.desc].any fun o => o != 0 && o / 0x40000 == seg) ||
    s.adds.any fun a => a.core == c && (at_ a.ctr || at_ a.andThen)

/-- A segment's part of a scratchpad. -/
def Scratch.segPart (m : Scratch) (seg : Nat) : Scratch :=
  { data := m.data.filter fun c => c.1 / 0x40000 == seg
    pres := m.pres.filter fun h => h / 0x20000 == seg
    pois := m.pois.filter fun p => p / 0x2000 == seg
    flips := m.flips.filter fun f => f / 77 / 0x8000 == seg
    told := m.told.filter fun p => p / 0x2000 == seg }

/-- A saved part read back under another key: the bytes of its present halfwords are other data; their check bits agree with them, for
nothing detects it (R329; log 76, DESIGN CHOICE). -/
def Scratch.garbled (m : Scratch) (n : Nat → Nat) : Scratch :=
  let bytes := m.pres.flatMap fun h => [2 * h, 2 * h + 1]
  bytes.foldl (fun (a : Scratch) b => { a with data := tabSet 0xFF a.data b (BitVec.ofNat 8 (n b)) }) { m with flips := [] }

/-- Merges two sorted tables whose keys are apart: the part below a key, then the new part, then the rest. -/
def spliceTab {α : Type} (m new : List (Nat × α)) (lo : Nat) : List (Nat × α) :=
  m.filter (fun e => decide (e.1 < lo)) ++ new ++ m.filter fun e => !decide (e.1 < lo)

/-- The same for sets. -/
def spliceSet (m new : List Nat) (lo : Nat) : List Nat :=
  m.filter (fun e => decide (e < lo)) ++ new ++ m.filter fun e => !decide (e < lo)

/-- A cleared segment gets a saved part back. -/
def Scratch.restoreSeg (m p : Scratch) (seg : Nat) : Scratch :=
  let a := m.clearSeg seg
  { data := spliceTab a.data p.data (seg * 0x40000), pres := spliceSet a.pres p.pres (seg * 0x20000)
    pois := spliceSet a.pois p.pois (seg * 0x2000), flips := spliceSet a.flips p.flips (seg * 0x8000 * 77)
    told := spliceSet a.told p.told (seg * 0x2000) }

/-- The uncorrectable lines of a restored segment: both sectors become poisoned and are reported (R319). -/
def State.restoreBad (s : State) (c : CoreRef) (job : Nat) (lines : List Nat) : State :=
  lines.foldl (fun (a : State) l =>
    (a.modCore c fun k => { k with mem := (k.mem.poison (2 * l)).poison (2 * l + 1) }).report job
      { core := c.val, cause := 0x03, tenant := (a.identOf job).1, scope := (a.identOf job).2, base := 64 * l, sect := 2 }) s

/-- An overcommitted segment is saved for the job that leaves, cleared, and granted to the job that comes, whose saved
part returns (R321); without a slice table it returns to a job that has it saved. -/
def State.saveSeg (s : State) (c : CoreRef) (seg : Nat) : State :=
  let t := towerOf c
  let w := s.tower t
  let job := if w.slices.isEmpty then ((w.savedSegs.find? fun x => x.core == c && x.seg == seg).map (·.job)).getD 0
    else w.sliceJob w.slice
  let owner := (s.jobs.map (·.num)).find? fun j => j != job && s.jobOwns j c seg
  let bound := (s.ctxsOf t (owner.getD 0)).any fun r => r.core == c
  if !w.saving.contains (c.val, seg) || s.segEngaged c seg || (owner.isSome && bound) then s
  else
    let tenant (j : Nat) : BitVec 6 := match s.job j with | some x => x.tenant | none => 0
    let k0 := s.core c
    let inSeg (h : Nat × Nat) : Bool := h.1 / 0x2000 == seg
    let kept : List SavedSeg := match owner with
      | some j => [{
          core := c, seg := seg, job := j, mem := k0.mem.segPart seg, holds := k0.holds.filter inSeg, pend := k0.pend.filter inSeg
          kind := fld k0.segKind (2 * seg + 1) (2 * seg), key := s.key (tenant j).toNat, bad := [] }]
      | none => []
    let ours (x : SavedSeg) : Scratch :=
      if x.key == s.key (tenant job).toNat then x.mem else x.mem.garbled fun i => Config.freeNat (s.fresh + i)
    let back := w.savedSegs.find? fun x => x.core == c && x.seg == seg && x.job == job
    let s1 := ({ s with fresh := s.fresh + 2 ^ 23 } : State).modTower t fun w => { w with
      saving := w.saving.filter (· != (c.val, seg))
      savedSegs := (w.savedSegs.filter fun x => !(x.core == c && x.seg == seg && x.job == job)) ++ kept }
    let s2 := s1.modCore c fun k =>
      { k with
        mem := match back with
          | some x => k.mem.restoreSeg (ours x) seg
          | none => k.mem.clearSeg seg
        holds := (k.holds.filter fun h => !inSeg h) ++ (back.map (·.holds)).getD []
        pend := (k.pend.filter fun h => !inSeg h) ++ (back.map (·.pend)).getD []
        segKind := match back with
          | some x => mergeKinds (BitVec.ofNat 32 (2 ^ seg)) (at_ 64 (2 * seg) x.kind) k.segKind
          | none => k.segKind
        segTenant := k.segTenant.set (seg % 32) (tenant job) (Nat.mod_lt _ (by decide)) }
    match back with
    | some x => s2.restoreBad c job x.bad
    | none => s2

/-- A segment that no context owns, wholly vacant and with no sector pending, is powered down (R94). -/
def State.powerDown (s : State) (c : CoreRef) (seg : Nat) : State :=
  let own := (s.ctx ⟨c, false⟩).owns seg || (s.ctx ⟨c, true⟩).owns seg ||
    s.nodes.any fun n => n.image.any fun im => im.core == c && im.ctx.owns seg
  if isCtl c || decide (32 ≤ seg) || own || (s.core c).pend.any (fun p => p.1 / 0x2000 == seg) ||
      (s.core c).mem.pres.any fun h => h / 0x20000 == seg then s
  else s.modCore c fun k => { k with segDown := setBit k.segDown seg true, mem := k.mem.clearSeg seg }

/-! Events. -/

/-- PREEMPTION (R314). -/
def execPreemption (c : CtxRef) (s : State) : Out := .next (s.preemptCtx c)

/-- DISPATCH (R248). -/
def execDispatch (tower : Bool) (nodes : List (Nat × CtxRef)) (s : State) : Out := .next (s.dispatch tower nodes)

/-- CANCEL_ARRIVAL (R269). -/
def execCancelArrival (id core : Nat) (s : State) : Out :=
  .next (match s.cancels.find? (·.id == id) with
    | some k => if k.left.contains core && decide (core < 512) then s.cancelArrive k (coreOfId core) else s
    | none => s)

/-- SUBTREE_QUIET (R275). -/
def execSubtreeQuiet (id : Nat) (s : State) : Out :=
  .next (match s.cancels.find? (·.id == id) with
    | some k => if s.quietCancel k then s.quietNow k else s
    | none => s)

/-- SLICE_BOUNDARY (R320). -/
def execSliceBoundary (tower : Bool) (slice : Nat) (s : State) : Out := .next (s.sliceTo tower slice)

/-- SEGMENT_SAVE (R321). -/
def execSegmentSave (c : CoreRef) (seg : Nat) (s : State) : Out := .next (s.saveSeg c seg)

/-- SEGMENT_POWER_DOWN (R94). -/
def execSegmentPowerDown (c : CoreRef) (seg : Nat) (s : State) : Out := .next (s.powerDown c seg)

end Sys2Proof.Machine
end

