-- ==== Sys2Proof/Machine/Launch.lean ====
section
/-!
DEFINITION. The LAUNCH of a linked image (R292, R344 to R347): the checks of its header, sections, tables and start
vector, its placement, and the insertion of its nodes.
-/

namespace Sys2Proof.Machine

/-! Reading the image (R345 to R347). All its values are little-endian. -/

/-- A doubleword of a byte string at an offset. -/
def dwIn (img : List Byte) (o : Nat) : Nat := leNat ((img.drop o).take 8)

/-- A 64-byte record of a byte string. -/
def recIn (img : List Byte) (o : Nat) : Rec64 := recOfBytes ((img.drop o).take 64)

/-- Whether a table or payload begins at a multiple of 8 inside the image and ends inside it (R345). -/
def inside (size o n : Nat) : Bool := o % 8 == 0 && decide (o + n ≤ size)

/-- The fields of an image header (R345). -/
structure Header where
  feat : Nat
  size : Nat
  nsec : Nat
  secoff : Nat
  nnode : Nat
  nodeoff : Nat
  nscope : Nat
  scopeoff : Nat
deriving DecidableEq, Repr

/-- The header, if it keeps its layout (R345). -/
def headerOf (img : List Byte) : Option Header :=
  let d (i : Nat) : Nat := dwIn img (8 * i)
  let h : Header := ⟨d 0 % 16, d 1, d 2, d 3, d 4, d 5, d 6, d 7⟩
  if nfld (d 0) 63 48 = 0x0501 ∧ nfld (d 0) 47 4 = 0 ∧ d 2 < 2 ^ 16 ∧ d 4 < 2 ^ 32 ∧ d 6 < 2 ^ 12 ∧ 64 ≤ d 1 then
    if inside h.size h.secoff (32 * h.nsec) && inside h.size h.nodeoff (64 * h.nnode) && inside h.size h.scopeoff (8 * h.nscope) then
      some h
    else none
  else none

/-- A section record with its payload (R346). -/
structure Sect where
  type : Nat
  easel : Bool
  target : Nat
  len : Nat
  dest : Nat
  data : List Byte
deriving DecidableEq, Repr

/-- The bytes of a payload: a scratch section's has its vacancy map after the data. -/
def payloadLen (type len : Nat) : Nat := if type = 2 then len + ((len + 15) / 16 + 7) / 8 * 8 else len

/-- Bit h of a scratch section's vacancy map (R346). -/
def Sect.vacant (c : Sect) (h : Nat) : Bool := ((c.data.getD (c.len + h / 8) 0).getLsbD (h % 8))

/-- The units a section places: bundles, scratch bytes or control bytes, from DEST on. -/
def Sect.units (c : Sect) : Nat := match c.type with
  | 1 => c.len / 32
  | 2 => c.len
  | 3 => c.len
  | _ => 0

/-- Whether a value keeps the layout of SEGATTR: no segment's kind is 0b11 (R62). -/
def kindsOk (v : W64) : Bool := (List.range 32).all fun g => fld v (2 * g + 1) (2 * g) != 3

/-- Whether a section's payload keeps its layout: an entry is checked as `pset` checks one (R185 to R188, R297, R307, R346). -/
def Sect.ok (mx6 : Bool) (nnode : Nat) (c : Sect) : Bool := match c.type with
  | 1 => c.len % 32 == 0 && decide (c.dest + c.len / 32 ≤ if c.easel then 0x2000 else 0x4000)
  | 2 => !c.easel && c.len % 2 == 0 && c.dest % 2 == 0 && decide (c.dest + c.len ≤ 0x800000) &&
      (List.range (c.len / 2)).all fun h => !c.vacant h || (c.data.getD (2 * h) 0 == 0 && c.data.getD (2 * h + 1) 0 == 0)
  | 3 => c.easel && decide (c.dest + c.len ≤ 0x80000)
  | 4 => !c.easel && c.len % 72 == 0 && (List.range (c.len / 72)).all fun i =>
      decide (dwIn c.data (72 * i) < 256) && (entryFault mx6 (recIn c.data (72 * i + 8))).isNone
  | 5 => !c.easel && c.len % 24 == 0 && (List.range (c.len / 24)).all fun i =>
      (decide (dwIn c.data (24 * i) < nnode) || dwIn c.data (24 * i) == 0xFFFFFFFF) && decide (dwIn c.data (24 * i + 8) < 2 ^ 32) &&
        kindsOk (BitVec.ofNat 64 (dwIn c.data (24 * i + 16)))
  | 6 => c.len % 8 == 0 && (List.range (c.len / 8)).all fun i =>
      let e := dwIn c.data (8 * i)
      e == e % 2 ^ 14 || (c.easel && e == 2 ^ 62 + e % 2 ^ 14)
  | _ => false

/-- The section of a record, if it keeps its layout (R346). -/
def sectionOf (mx6 : Bool) (img : List Byte) (h : Header) (i : Nat) : Option Sect :=
  let o := h.secoff + 32 * i
  let w := dwIn img o
  let c : Sect := ⟨nfld w 63 56, w.testBit 9, w % 512, dwIn img (o + 16), dwIn img (o + 24),
    (img.drop (dwIn img (o + 8))).take (payloadLen (nfld w 63 56) (dwIn img (o + 16)))⟩
  if nfld w 55 10 = 0 ∧ (!c.easel || c.target % 256 == 0) ∧ inside h.size (dwIn img (o + 8)) (payloadLen c.type c.len) ∧ c.ok mx6 h.nnode then
    some c
  else none

/-- Whether two sections place one byte or bundle twice (R346). -/
def Sect.meets (a b : Sect) : Bool :=
  a.type == b.type && a.easel == b.easel && a.target == b.target && decide (a.dest < b.dest + b.units ∧ b.dest < a.dest + a.units)

/-- Whether no two of the sections meet. -/
def apart : List Sect → Bool
  | [] => true
  | c :: cs => cs.all (fun d => !c.meets d) && apart cs

/-- The entry records of a target. -/
def entryRecs (cs : List Sect) (easel : Bool) (target : Nat) : List Nat :=
  ((cs.filter fun c => c.type == 6 && c.easel == easel && c.target == target).map fun c =>
    (List.range (c.len / 8)).map fun i => dwIn c.data (8 * i)).flatten

/-- Each pair of control cores that has firmware sections has its two entry records, once each (R346). -/
def easelEntriesOk (cs : List Sect) : Bool :=
  [0, 256].all fun t =>
    let es := entryRecs cs true t
    !(cs.any fun c => c.easel && c.target == t) || ((es.filter fun e => decide (e < 2 ^ 62)).length == 1 && (es.filter fun e => decide (2 ^ 62 ≤ e)).length == 1)

/-- A parsed image. -/
structure Linked where
  head : Header
  sects : List Sect
  nodes : List Rec64
  scopes : List Nat
deriving DecidableEq, Repr

/-- The image of a byte string; `none` where a record breaks its layout (R345 to R347). -/
def linkedOf (mx6 : Bool) (img : List Byte) : Option Linked := match headerOf img with
  | none => none
  | some h =>
    let ss := (List.range h.nsec).map (sectionOf mx6 img h)
    if ss.any Option.isNone then none
    else
      let cs := ss.filterMap id
      let ns := (List.range h.nnode).map fun i => recIn img (h.nodeoff + 64 * i)
      let sc := (List.range h.nscope).map fun i => dwIn img (h.scopeoff + 8 * i)
      if apart cs && easelEntriesOk cs && ns.all (fun r => recOk r && recTenant r == 0 && sc.contains (recScope r)) &&
          sc.all (fun i => decide (1 ≤ i ∧ i < 4096)) && decide (sc.dedup.length = sc.length) then
        some ⟨h, cs, ns, sc⟩
      else none

/-! Firmware (R297, R313, R333, R346). -/

/-- The firmware sections of a tower's control cores: code by byte offset, control memory, the two entries. -/
structure FwImage where
  code : List (Nat × List Byte)
  ctl : List (Nat × List Byte)
  start : BAddr
  standby : BAddr
deriving DecidableEq, Repr

/-- The firmware sections that a linked image has for a tower. -/
def Linked.firmware (im : Linked) (t : Bool) : Option FwImage :=
  let mine := im.sects.filter fun c => c.easel && c.target == 256 * towerNat t
  let es := entryRecs im.sects true (256 * towerNat t)
  let entry (p : Nat → Bool) : BAddr := BitVec.ofNat 15 ((es.find? p).getD 0 % 2 ^ 14)
  if mine.isEmpty then none
  else some ⟨(mine.filter (·.type == 1)).map fun c => (32 * c.dest, c.data), (mine.filter (·.type == 3)).map fun c => (c.dest, c.data),
    entry fun e => decide (e < 2 ^ 62), entry fun e => decide (2 ^ 62 ≤ e)⟩

/-- A tower's firmware in the image that stands in flash; none where the image breaks its layout or has none for the tower. -/
def State.firmware (s : State) (t : Bool) : Option FwImage := (linkedOf s.mx6 s.fwFile).bind fun im => im.firmware t

/-- Pieces of bytes written into a memory. -/
def placeBytes (m : List Host.Cell) (ps : List (Nat × List Byte)) : List Host.Cell := ps.foldl (fun m p => putBytes m p.1 p.2) m

/-- Bundles written are good again. -/
def goodBundles (bad : List Nat) (ps : List (Nat × List Byte)) : List Nat :=
  ps.foldl (fun l p => (touched 32 p.1 p.2.length).foldl setDel l) bad

/-! The start vector (R347). -/

/-- A node record with its four arguments replaced. -/
def withArgs (r : Rec64) (a : Nat → Nat) : Rec64 :=
  (List.range 4).foldl (fun (r : Rec64) i => setDw r (4 + i) (BitVec.ofNat 64 (a i))) r

/-- The node records with their arguments replaced as the start vector's bytes state; `none` where a record of it breaks
its layout. -/
def replaceArgs (v : List Byte) (nodes : List Rec64) : Option (List Rec64) :=
  let n := dwIn v 0
  if 2 ^ 16 ≤ n then none
  else (List.range n).foldl (fun (acc : Option (List Rec64)) i => match acc with
    | none => none
    | some l =>
      let o := 8 + 48 * i
      let w := dwIn v o
      let k := w % 2 ^ 32
      if nfld w 62 32 ≠ 0 ∨ l.length ≤ k ∨ dwIn v (o + 40) ≠ 0 then none
      else if w.testBit 63 then some (l.set k (withArgs (l.getD k 0) fun j => dwIn v (o + 8 + 8 * j)))
      else some l) (some nodes)

/-- The bytes of a job's start vector; a vector address of 0 is an empty one (R292). -/
def State.startVector (s : State) (job va : Nat) : Option (List Byte) :=
  if va = 0 then some (List.replicate 8 0)
  else match s.vreadClean job va 8 with
    | none => none
    | some b => s.vreadClean job va (8 + 48 * (leNat b % 2 ^ 16))

/-! Placement (R347 step 3). -/

/-- The segments that a scratch section touches. -/
def Sect.segs (c : Sect) : List Nat := touched 0x40000 c.dest c.len

/-- Whether a scratch section has bytes in a segment owned by a context of another job (R347). -/
def State.foreign (s : State) (job : Nat) (c : Sect) : Bool :=
  c.type == 2 && !c.easel && c.segs.any fun g => (s.jobs.map (·.num)).any fun j => j != job && s.jobOwns j (coreOfId c.target) g

/-- A scratchpad with a section's halfwords placed, vacant ones as the map says. -/
def Scratch.place (m : Scratch) (c : Sect) : Scratch :=
  (List.range (c.len / 2)).foldl (fun (a : Scratch) h =>
    if c.vacant h then a.vacate (c.dest + 2 * h) 2 else a.put (c.dest + 2 * h) ((c.data.drop (2 * h)).take 2)) m

/-- A core with a section placed; a segment last granted to another tenant is cleared as a grant clears it (R93, log 25, DEDUCED). -/
def Core.placeSect (k : Core) (job : Nat) (tenant : BitVec 6) (reach : Bool) (c : Sect) : Core := match c.type with
  | 1 => { k with imem := placeBytes k.imem [(32 * c.dest, c.data)], imemBad := goodBundles k.imemBad [(32 * c.dest, c.data)] }
  | 2 => if !reach then k else
      let k1 := c.segs.foldl (fun (k : Core) g => k.grantSeg tenant g) k
      { k1 with mem := k1.mem.place c }
  | 4 => { k with palInit := (List.range (c.len / 72)).foldl (fun (p : List (Nat × Rec64)) i =>
      tabSet 0 p (256 * job + dwIn c.data (72 * i)) (recIn c.data (72 * i + 8))) k.palInit }
  | 6 => { k with entries := k.entries ++ (List.range (c.len / 8)).map fun i => BitVec.ofNat 15 (dwIn c.data (8 * i) % 2 ^ 14) }
  | _ => k

/-- The sections of an image are placed; firmware sections are passed over (R346, R347). -/
def State.placeAll (s : State) (job : Nat) (tenant : BitVec 6) (cs : List Sect) : State :=
  (cs.filter fun c => !c.easel).foldl (fun (a : State) c =>
    let r := coreOfId c.target
    a.modCore r fun k => k.placeSect job tenant (!s.unreachable r) c) s

/-- The segment declarations of an image: core, node index, mask and kinds (R91, R346). -/
def declsOf (cs : List Sect) : List (CoreRef × Nat × BitVec 32 × W64) :=
  (cs.filter fun c => c.type == 5).flatMap fun c => (List.range (c.len / 24)).map fun i =>
    (coreOfId c.target, dwIn c.data (24 * i), BitVec.ofNat 32 (dwIn c.data (24 * i + 8)), BitVec.ofNat 64 (dwIn c.data (24 * i + 16)))

/-- The declarations of a node index are recorded for a node, or those of every node (R91, R347 step 4). -/
def State.declare (s : State) (job index : Nat) (node : Option Nat) (ds : List (CoreRef × Nat × BitVec 32 × W64)) : State :=
  (ds.filter fun d => d.2.1 == index).foldl (fun (a : State) d => a.modCore d.1 fun k =>
    { k with segDecls := k.segDecls ++ [⟨job, node, d.2.2.1, d.2.2.2⟩] }) s

/-! The LAUNCH entry (R292, R347). -/

/-- Whether a LAUNCH entry keeps its layout (R262, R292, R329). -/
def launchOk (e : Rec64) : Bool :=
  let d (i : Nat) : Nat := (dw e i).toNat
  subOk e && d 2 % 64 == 0 && decide (d 4 < 2 ^ 18) && nfld (d 4) 17 12 != 0 && d 4 % 4096 != 0 &&
    decide (1 ≤ d 5 ∧ d 5 ≤ 1000000) && nfld (d 6) 62 13 == 0 && !((d 6).testBit 63 && (d 6).testBit 11) && d 7 % 2 ^ 15 == 0

/-- Whether some usable tower has every capability that an image requires (R344). -/
def State.featOk (s : State) (feat : Nat) : Bool :=
  (List.range 4).all fun i => !feat.testBit i || i == 3 || [false, true].any fun t =>
    !(s.tower t).excluded && (s.featLo (coreOfId (256 * towerNat t))).getLsbD i

/-- The job of a LAUNCH entry (R262, R292, R294). -/
def jobOf (q : Nat) (e : Rec64) (time : Nat) : Job :=
  let d (i : Nat) : Nat := (dw e i).toNat
  { num := subJob e, tenant := BitVec.ofNat 6 (nfld (d 4) 17 12), root := d 4 % 4096, home := queueTower q, ptroot := d 7
    cq := if (d 6).testBit 63 then (if (d 6).testBit 12 then 2048 else 0) + d 6 % 2048 else q
    start := time, interval := 1000 * d 5, frame := 0, ticks := 0, slipping := [], arbwDef := 0x1111, arbwLim := 0xFFFF
    sliplogs := [], digest := 0, counts := ⟨0, 0, 0, 0, 0, 0, 0, 0⟩, endAt := none, dbg := false }

/-- Whether a node's ENTRY is among its core's entry records; a node of a group or a tower has no core yet (R347). -/
def entryListed (cs : List Sect) (r : Rec64) : Bool :=
  recKind r != 0 || recAfm r != 0 || (entryRecs cs false (recAff r)).contains (recEntry r).toNat

/-- Whether a scope of a job is open (R246). -/
def State.scopeOpen (s : State) (job scope : Nat) : Bool := match s.scope (s.homeOf job) scope with
  | some c => c.state == .opened
  | none => false

/-- The nodes of a LAUNCH are inserted in order, as `spawn` inserts one: with its declarations, not where its scope is no longer open, and
the first that finds its pool full waits with those behind it (R91, R245, R246, R347). -/
def State.insertNodes (s : State) (l : LaunchWait) : List Rec64 → LaunchWait × State
  | [] => ({ l with recs := [] }, s)
  | r :: rs =>
    if !s.scopeOpen l.job (recScope r) then s.insertNodes { l with next := l.next + 1 } rs
    else if s.poolRoom (recTower r) then
      let (id, s1) := s.insertNode l.job r
      (s1.declare l.job l.next (some id) l.decls).insertNodes { l with next := l.next + 1, count := l.count + 1 } rs
    else ({ l with recs := r :: rs }, s)

/-- A LAUNCH that waits for room goes on; it completes when every node has been inserted (R347). -/
def State.relaunch (s : State) (l : LaunchWait) : State :=
  let (m, s1) := s.insertNodes l l.recs
  if m.recs.isEmpty then s1.answerBusy l.queue l.seq 1 0 (BitVec.ofNat 256 m.count) else { s1 with launches := s1.launches ++ [m] }

/-- Every LAUNCH that waits goes on, in order. -/
def State.relaunches (s : State) : State := s.launches.foldl State.relaunch { s with launches := [] }

/-- A record with its TENANT (R347 step 5). -/
def withTenant (r : Rec64) (t : Nat) : Rec64 :=
  setDw r 0 (BitVec.ofNat 64 ((dw r 0).toNat - recTenant r * 2 ^ 40 + t * 2 ^ 40))

/-- The size of a tower's node pool from a launch on: the host sizes it, from 1 to 2^20 nodes; the entry does not carry it, so it is free
(R244; log 12, DESIGN CHOICE). -/
def State.poolSized (s : State) (t : Bool) (choice : Nat) : State :=
  s.modTower t fun w => { w with poolSize := 2 ^ 20 - choice % 2 ^ 20 }

/-- What a LAUNCH comes to: failed, waiting for room for a node, done with the number of nodes inserted. -/
inductive Launched where
  | failed
  | later (s : State)
  | done (nodes : Nat) (s : State)

/-- A LAUNCH of SEQ n (R292, R325, R347): its steps in order; nothing is placed where one fails. Each insertion waits while the node's
pool is full (R245). Whether the host sets STATUS.DBG for the job is free (R59; log 12, DESIGN CHOICE). -/
def State.launch (s : State) (q : Nat) (n : BitVec 32) (e : Rec64) : Launched :=
  let j : Job := { jobOf q e s.time with dbg := s.draw.1 % 2 == 1 }
  if !launchOk e || s.faulted || (s.job j.num).isSome || (s.scope j.home j.root).isSome || (s.queue j.cq).isNone then .failed
  else
    let s0 : State := { s with jobs := s.jobs ++ [j] }
    match s0.vreadClean j.num (dw e 2).toNat 64 with
    | none => .failed
    | some hd => match s0.vreadClean j.num (dw e 2).toNat (dwIn hd 8), s0.startVector j.num (dw e 3).toNat with
      | none, _ => .failed
      | _, none => .failed
      | some img, some vec => match linkedOf s.mx6 img with
        | none => .failed
        | some im => match replaceArgs vec im.nodes with
          | none => .failed
          | some recs =>
            let kids := (im.scopes.filter (· != j.root)).mergeSort (· ≤ ·)
            let nodes := recs.map fun r => withTenant r j.tenant.toNat
            let open_ (id parent depth : Nat) : Scope := ⟨j.home, id, j.num, parent, depth, .opened, none, none⟩
            let scopes := s.scopes ++ open_ j.root 0 1 :: kids.map fun i => open_ i j.root 2
            let sees (r : Rec64) : Bool := ({ s with scopes := scopes } : State).checkScopeOk j.home r
            if !s.featOk im.head.feat || kids.any (fun i => (s.scope j.home i).isSome) || im.sects.any (s.foreign j.num) ||
                !(nodes.all fun r => entryListed im.sects r && s.recGroupOk r && sees r) then .failed
            else
              let j1 : Job := { j with digest := BitVec.ofNat 512 (leNat (shake256 img 64)) }
              let s0 := (s.poolSized false (Config.freeNat (s.fresh + 1))).poolSized true (Config.freeNat (s.fresh + 2))
              let s1 : State := { s0 with
                fresh := s.fresh + 3
                jobs := s.jobs ++ [j1]
                jobsDone := s.jobsDone.filter (· != j.num)
                scopes := scopes }
              let ds := declsOf im.sects
              let s2 := (s1.placeAll j.num j.tenant im.sects).declare j.num 0xFFFFFFFF none ds
              let (l, s3) := s2.insertNodes ⟨q, n, j.num, 0, 0, nodes, ds⟩ nodes
              if l.recs.isEmpty then .done l.count s3 else .later { s3 with launches := s3.launches ++ [l] }

end Sys2Proof.Machine
end

