-- ==== Sys2Proof/Machine/HostEvents.lean ====
section
/-!
DEFINITION. What the host does to the device: its accesses over CXL.mem (R235), the registers of BAR0 (R289 to R291), the
submission entries that Easel answers (R292 to R295, R314, R327, R350), the completion entries it receives (R293), and
the tick of a job (R262, R263). An entry is given as Easel has read it from its queue.
-/

namespace Sys2Proof.Machine

/-! Answering an entry (R292, R293). -/

/-- What an entry's action comes to: done with a payload, failed with a STATUS, or answered by a later event. -/
inductive Ans where
  | done (pay : BitVec 256)
  | failed (status : Nat)
  | later

/-- The identity fields of the answer to an entry: its job with the job's tenant and root scope (R293, R304). -/
def State.entryAnswer (s : State) (e : Rec64) (type status : Nat) (pay : BitVec 256) : Answer :=
  let who := s.identOf (subJob e)
  { type := type, job := subJob e, tenant := who.1, scope := who.2, status := status, pay := pay }

/-- Answers an entry of SEQ n. -/
def State.answer (s : State) (q : Nat) (n : BitVec 32) (e : Rec64) (a : Ans) : State :=
  let s1 := (s.identDrawn (subJob e)).modQueue q fun u => { u with busy := some n, busyJob := subJob e }
  match a with
  | .done pay => s1.answerLater q n (s.entryAnswer e 1 0 pay)
  | .failed st => s1.answerLater q n (s.entryAnswer e 2 st 0)
  | .later => s1

/-- Whether Easel has to claim a queue for its next entry: all entries below the last claim's tail are read, and KICK is set (R291). -/
def State.claims (s : State) (q : Nat) (u : Queue) : Bool :=
  !newer u.claim (u.lastseq + 1) && (s.tower (queueTower q)).kick.contains (q % 2048)

/-- One past the last entry that Easel may read: the tail read at the last claim, or at the one that it makes now (R291). -/
def State.claimEnd (s : State) (q : Nat) (u : Queue) : BitVec 32 := if s.claims q u then u.sqtail else u.claim

/-- A claim takes effect: KICK is cleared, and the tail read (R291). -/
def State.withClaim (s : State) (q : Nat) (u : Queue) (t : State) : State :=
  if !s.claims q u then t
  else (t.modQueue q fun v => { v with claim := u.sqtail }).modTower (queueTower q) fun w => { w with kick := setDel w.kick (q % 2048) }

/-- Whether an entry is the next one of a queue: it stands in its slot of the ring, below the tail of Easel's claim (R289, R291). -/
def State.offers (s : State) (q : Nat) (u : Queue) (e : Rec64) : Bool :=
  let n := u.lastseq + 1
  newer (s.claimEnd q u) n && recOfBytes ((s.tower (queueTower q)).subEntry (q % 2048) n.toNat) == e

/-- Easel takes the next entry of an enabled queue whose OPC is as given (R291, R292): a wrong SEQ fails with STATUS 2.
Nothing happens while an earlier entry of the queue is unanswered, while the hold buffer is full, or where `act` waits. -/
def State.entry (s : State) (q : Nat) (e : Rec64) (opc : Nat → Bool) (act : BitVec 32 → Option (Ans × State)) : Out :=
  match s.queue q with
  | none => .next s
  | some u =>
    if !u.en || u.busy.isSome || !opc (subOpc e) || !s.offers q u e || (s.tower (queueTower q)).holdFull then .next s
    else
      let n := u.lastseq + 1
      if subSeq e ≠ n then .next (s.withClaim q u (s.answer q n e (.failed 2)))
      else match act n with
        | none => .next s
        | some (a, s1) => .next (s.withClaim q u (s1.answer q n e a))

/-- Whether the doublewords from i to 7 are 0. -/
def zeroFrom (e : Rec64) (i : Nat) : Bool := (List.range 8).all fun j => decide (j < i) || dw e j == 0

/-- An action on a running job: STATUS 4 where the layout is broken or the job is not running (R276, R292, R294). -/
def State.jobEntry (s : State) (q : Nat) (e : Rec64) (opc : Nat → Bool) (layout : Bool)
    (act : Job → BitVec 32 → Option (Ans × State)) : Out :=
  s.entry q e opc fun n =>
    if !subOk e || !layout then some (.failed 4, s)
    else match s.job (subJob e) with
      | none => some (.failed 4, s)
      | some j => act j n

/-- A scope of a job, by the id in DW2 [11:0] (R276, R295). -/
def State.jobScope (s : State) (j : Job) (id : Nat) : Option Scope := (s.scope j.home id).filter fun c => c.job == j.num

/-! Submission entries. -/

/-- LAUNCH (R347). -/
def execLaunch (q : Nat) (e : Rec64) (s : State) : Out :=
  s.entry q e (· == 0x01) fun n => match s.launch q n e with
    | .failed => some (.failed 4, s)
    | .later s1 => some (.later, s1)
    | .done k s1 => some (.done (BitVec.ofNat 256 k), s1)

/-- NODE (R292). -/
def execNode (q : Nat) (e : Rec64) (s : State) : Out :=
  s.entry q e (· == 0x02) fun _ => match s.nodeEntry e with
    | .error k => some (.failed k, s)
    | .ok (job, r) =>
      if s.poolRoom (recTower r) then
        let (id, s1) := s.insertNode job r
        some (.done (BitVec.ofNat 256 id), s1)
      else none

/-- Whether a group entry keeps its layout (R259, R277). -/
def groupOk (g : Rec64) : Bool := match grpType g with
  | 0 => g == 0
  | 1 => nfld (dw g 0).toNat 60 0 == 0 && dw g 1 == 0 && dw g 2 == 0 && dw g 3 == 0
  | 2 => nfld (dw g 0).toNat 61 36 == 0 && decide (ringSize g ≤ 262144) && decide (ringPos g < ringSize g) &&
      nfld (dw g 2).toNat 63 12 == 0 && nfld (dw g 2).toNat 7 4 == 0 && dw g 4 == 0 && dw g 5 == 0 && dw g 6 == 0 && dw g 7 == 0
  | _ => false

/-- CO of a core set (R259). -/
def grpCo (g : Rec64) : Bool := grpType g == 1 && bit g 61

/-- How many cores a core set holds. -/
def grpCount (g : Rec64) : Nat := ((List.range 256).filter (grpHas g)).length

/-- Whether Easel refuses a group write (R259): a core in more than four sets or more than one atelier, an atelier of more
than 16, a set with participants or dispatched atelier contexts, running or saved. -/
def State.groupRefused (s : State) (t : Bool) (id : Nat) (g : Rec64) : Bool :=
  let others := ((s.tower t).groups.filter fun e => e.1 != id).map (·.2)
  (List.range 256).any (fun n => grpHas g n &&
    (decide (4 ≤ (others.filter fun o => grpHas o n).length) || (grpCo g && others.any fun o => grpCo o && grpHas o n))) ||
  (grpCo g && decide (16 < grpCount g)) ||
  let takesPart (x : Ctx) : Bool := x.groups.contains id || x.atelier == some id
  (allCtxs.any fun r => towerOf r.core == t && (s.ctx r).status != .free && takesPart (s.ctx r)) ||
    s.nodes.any fun n => n.image.any fun im => towerOf im.core == t && takesPart im.ctx

/-- GROUP (R259): writes a group table entry; a ring's instances are counted from its entry on (R212, log 22, DEDUCED). -/
def execGroup (q : Nat) (e : Rec64) (s : State) : Out :=
  let t := bit (dw e 2) 8
  let id := fld (dw e 2) 7 0
  s.jobEntry q e (· == 0x03) (decide ((dw e 2).toNat < 512) && zeroFrom e 4) fun j _ =>
    match s.vreadClean j.num (dw e 3).toNat 64 with
    | none => some (.failed 4, s)
    | some bs =>
      let g := recOfBytes bs
      if !groupOk g || s.groupRefused t id g then some (.failed 4, s)
      else some (.done 0, s.modTower t fun w => { w with
        groups := tabSet 0 w.groups id g
        instances := if grpType g = 2 then w.instances.filter fun k => k.1 / 4 != id else w.instances })

/-- INVAL (R233): an invalidation; the answer comes when both towers have acknowledged it. -/
def execInval (q : Nat) (e : Rec64) (s : State) : Out :=
  s.jobEntry q e (· == 0x04) (zeroFrom e 4) fun j n =>
    let (code, s1) := s.requestInval j.num (dw e 2) (dw e 3) false none 0 (some (q, n))
    if code = 0 then some (.later, s1) else some (.failed 4, s)

/-- The pages that a virtual range covers: the first address of each with its leaf; `none` where one is not valid. -/
def State.pagesOf (s : State) (job first len : Nat) : Option (List (Nat × Leaf)) :=
  let ps := (touched 65536 first len).map fun p => match s.walk (s.rootOf job) (65536 * p) with
    | .leaf l => some (65536 * p - 65536 * p % l.size, l)
    | .invalid _ => none
  if ps.all Option.isSome then some (ps.filterMap id).dedup else none

/-- Frames of pages that a tower keeps, host pages aside; a page without a frame counts where it would get one. -/
def framesIn (t0 t : Bool) (ps : List Leaf) : Nat :=
  let home (l : Leaf) : Bool := if pteVacp l.entry then nearTower l.entry t0 else frameTower l.entry (pteFrame l.entry)
  ((ps.filter fun l => home l == t && pteTgt l.entry != 2).map fun l => l.size / 65536).sum

/-- The pinned pages of every running job's table (R231, R234). -/
def State.pinnedPages (s : State) : List Leaf :=
  ((s.jobs.map (·.ptroot)).dedup.flatMap fun r => (s.leavesOf r).map (·.2)).filter fun l => ptePin l.entry

/-- Engine nodes' commands held for want of a frame run again when pages are unpinned (R311). -/
def State.retryNoFrame (s : State) : State := s.cmds.foldl (fun (a : State) c => match c.state with
  | .held 0x21 opa _ => if c.ctx.isNone && fld opa 63 57 == 5 then a.retryCmd c else a
  | _ => a) s

/-- PIN (R234): sets or clears PIN of the pages of a range; at least 1/64 of a tower's frames stay unpinned. -/
def execPin (q : Nat) (e : Rec64) (s : State) : Out :=
  let pin := bit (dw e 4) 0
  let first := (dw e 2).toNat
  let len := (dw e 3).toNat
  s.jobEntry q e (· == 0x05) (decide ((dw e 4).toNat < 2) && zeroFrom e 5) fun j _ =>
    if !canonical first || decide (halfEnd first < first + len) then some (.failed 4, s)
    else match s.pagesOf j.num first len with
      | none => some (.failed 4, s)
      | some ps =>
        let t0 := queueTower q
        let new := (ps.map (·.2)).filter fun l => !ptePin l.entry
        let total (t : Bool) : Nat := framesIn t0 t (s.pinnedPages ++ new)
        if pin && [false, true].any fun t => decide ((s.tower t).frameTotal - ((s.tower t).frameTotal + 63) / 64 < total t) then
          some (.failed 5, s)
        else
          let mark (a : State) (p : Nat × Leaf) : State :=
            let x := p.2.entry.toNat - (if ptePin p.2.entry then 2 ^ 61 else 0) + if pin then 2 ^ 61 else 0
            a.publishPte p.2.at_ (BitVec.ofNat 64 x)
          let s1 := ps.foldl mark s
          some (.done 0, if pin then s1 else s1.retryNoFrame)

/-- HOST_CANCEL (R276). -/
def execHostCancel (q : Nat) (e : Rec64) (s : State) : Out :=
  s.jobEntry q e (· == 0x06) (decide ((dw e 2).toNat < 4096) && zeroFrom e 3) fun j _ =>
    match s.jobScope j (dw e 2).toNat with
    | none => some (.failed 4, s)
    | some c => some (.done 0, s.killScope j.home j.num c.id 0 0 j.tenant.toNat)

/-- The context that an entry names: the core in DW2, the context in DW3. -/
def entryCtx (e : Rec64) : CtxRef := ⟨coreOfId (dw e 2).toNat, bit (dw e 3) 0⟩

/-- RELEASE (R66): a context of the job parked by `brk` runs on. -/
def execRelease (q : Nat) (e : Rec64) (s : State) : Out :=
  s.jobEntry q e (· == 0x07) (decide ((dw e 2).toNat < 512 ∧ (dw e 3).toNat < 2) && zeroFrom e 4) fun j _ =>
    let r := entryCtx e
    if (s.ctx r).status == .parked .brk && (s.ctx r).job == j.num then
      some (.done 0, s.modCtx r fun x => { x with status := .running })
    else some (.failed 4, s)

/-- SCOPERING (R265): a scope's report ring of 2^m entries, m from 4 to 16, and its notification counter (R106). -/
def execScopering (q : Nat) (e : Rec64) (s : State) : Out :=
  let m := (dw e 4).toNat
  s.jobEntry q e (· == 0x08) (decide ((dw e 2).toNat < 4096 ∧ 4 ≤ m ∧ m ≤ 16) && zeroFrom e 6) fun j _ =>
    match s.jobScope j (dw e 2).toNat with
    | none => some (.failed 4, s)
    | some c => some (.done 0, s.modScope j.home c.id fun c =>
        { c with ring := some ((dw e 3).toNat, m), notify := if dw e 5 = 0 then none else some (dw e 5).toNat })

/-- Whether an entry names a job that has finished: it is refused with STATUS 4 (R276). -/
def State.namesDone (s : State) (e : Rec64) : Bool := s.jobsDone.contains (subJob e)

/-- PREEMPT (R314): an unbound context fails with STATUS 4; the answer comes once the image is written. A context that a
PREEMPT already waits for is waited for. -/
def execPreempt (q : Nat) (e : Rec64) (s : State) : Out :=
  s.entry q e (· == 0x09) fun n =>
    let r := entryCtx e
    if !subOk e || s.namesDone e || !decide ((dw e 2).toNat < 512 ∧ (dw e 3).toNat < 2) || !zeroFrom e 4 || (s.ctx r).status == .free then
      some (.failed 4, s)
    else if (s.ctx r).ptag ≠ 0 then none
    else some (.later, s.askPreempt r (1 + q * 2 ^ 32 + n.toNat))

/-- The cores of a layer of a tower. -/
def layerCores (t : Bool) (layer : Nat) : List CoreRef := (coresOf t).filter fun c => layerOf c == layer

/-- Whether a layer has a bound context or an owned segment (R327). -/
def State.layerUsed (s : State) (t : Bool) (layer : Nat) : Bool :=
  (layerCores t layer).any fun c =>
    (s.ctx ⟨c, false⟩).status != .free || (s.ctx ⟨c, true⟩).status != .free || s.nodes.any fun n =>
      n.image.any fun im => im.core == c && im.ctx.spec.segown != 0

/-- The scratchpads of a layer are wholly vacant, their segments last granted to no one (R327). -/
def State.wipeLayer (s : State) (t : Bool) (layer : Nat) : State :=
  (layerCores t layer).foldl (fun (a : State) c => a.modCore c fun k =>
    { k with mem := Scratch.blank, segTenant := Vector.replicate 32 0 }) s

/-- LAYERPWR (R327): power-off takes the layer's scratchpads; power-on is answered when the layer can be dispatched. A power-off of a
layer that is coming on waits until it is on (log 68, DESIGN CHOICE). -/
def execLayerpwr (q : Nat) (e : Rec64) (s : State) : Out :=
  let t := bit (dw e 2) 2
  let layer := fld (dw e 2) 1 0
  s.entry q e (· == 0x0A) fun n =>
    if !subOk e || s.namesDone e || !decide ((dw e 2).toNat < 8 ∧ (dw e 3).toNat < 2) || !zeroFrom e 4 then some (.failed 4, s)
    else
      let off := (s.tower t).layersOff.getLsbD layer
      if !bit (dw e 3) 0 then
        if (s.tower t).powering.any (·.2.2 == layer) then none
        else if s.layerUsed t layer then some (.failed 4, s)
        else some (.done 0, (s.wipeLayer t layer).modTower t fun w => { w with layersOff := setBit w.layersOff layer true })
      else if off then some (.later, s.modTower t fun w => { w with powering := w.powering ++ [(q, n, layer)] })
      else some (.done 0, s)

/-- LAYER_POWER_ON (R327): the layer's cores can be dispatched, wholly vacant, and the entry is answered; an entry that another one
for the layer has come before finds it on. -/
def execLayerPowerOn (q : Nat) (seq : BitVec 32) (tower : Bool) (layer : BitVec 2) (s : State) : Out :=
  if !(s.tower tower).powering.contains (q, seq, layer.toNat) then .next s
  else
    let s1 := if (s.tower tower).layersOff.getLsbD layer.toNat then
        (s.wipeLayer tower layer.toNat).modTower tower fun w => { w with layersOff := setBit w.layersOff layer.toNat false }
      else s
    .next ((s1.modTower tower fun w => { w with powering := w.powering.filter (· != (q, seq, layer.toNat)) }).answerBusy q seq 1 0)

/-- A CONFIG entry (R294): SEL in DW2 [7:0], a tower in [8]. -/
def State.config (s : State) (q : Nat) (e : Rec64) (sel : Nat → Bool) (act : Job → Option (Ans × State)) : Out :=
  if !sel (fld (dw e 2) 7 0) then .next s
  else s.jobEntry q e (· == 0x0B) (decide ((dw e 2).toNat < 512) && zeroFrom e 5) fun j _ => act j

/-- SLIPLOG (R294): CONFIG selector 1; an unknown selector fails with STATUS 4. -/
def execSliplog (q : Nat) (e : Rec64) (s : State) : Out :=
  let t := bit (dw e 2) 8
  let m := (dw e 4).toNat
  s.config q e (fun x => x == 1 || x == 0 || decide (3 < x)) fun j =>
    if fld (dw e 2) 7 0 ≠ 1 ∨ m < 4 ∨ 16 < m then some (.failed 4, s)
    else some (.done 0, s.modJob j.num fun j =>
      { j with sliplogs := (t, (dw e 3).toNat, m) :: j.sliplogs.filter fun x => x.1 != t })

/-- ARBW (R294): CONFIG selector 2, the job's default weights and class limits. -/
def execArbw (q : Nat) (e : Rec64) (s : State) : Out :=
  s.config q e (· == 2) fun j =>
    if 2 ^ 32 ≤ (dw e 3).toNat ∨ dw e 4 ≠ 0 then some (.failed 4, s)
    else some (.done 0, s.modJob j.num fun j =>
      { j with arbwDef := (dw e 3).extractLsb' 0 16, arbwLim := (dw e 3).extractLsb' 16 16 })

/-- CLOCK (R294): CONFIG selector 3, the job's grandmaster, which the device's clock follows from then on. -/
def execClock (q : Nat) (e : Rec64) (s : State) : Out :=
  s.config q e (· == 3) fun _ =>
    if dw e 4 ≠ 0 then some (.failed 4, s)
    else some (.done 0, { s with grandmaster := some (dw e 3) })

/-- SEAL (R295). -/
def execSeal (q : Nat) (e : Rec64) (s : State) : Out :=
  s.jobEntry q e (· == 0x0C) (decide ((dw e 2).toNat < 4096) && zeroFrom e 3) fun j _ =>
    match s.jobScope j (dw e 2).toNat with
    | none => some (.failed 4, s)
    | some c => some (.done 0, s.sclose j.home c.id)

/-- BAD_OPCODE (R293): STATUS 1 for an OPC that names no submission opcode. -/
def execBadOpcode (q : Nat) (e : Rec64) (s : State) : Out :=
  s.entry q e (fun o => o == 0 || decide (0x0D < o)) fun _ => some (.failed 1, s)

/-! Claims on device sectors (R223, R235). -/

/-- Whether a command claims a sector of a job's page: one of this job, or of another of the tenant whose page table is the same
(R223, R229). -/
def State.claimedPage (s : State) (job va : Nat) : Bool :=
  s.cmds.any fun c => (c.job == job || (c.tenant == (s.identOf job).1 && s.rootOf c.job == s.rootOf job)) &&
    c.claims.contains (claimKey 1 va)

/-- The claimed page sector that stands at a physical byte of a memory: its job and virtual address. -/
def State.claimedAt (s : State) (sp : DevSpace) (pa : Nat) : Option (Nat × Nat) :=
  s.cmds.findSome? fun c => (c.claims.find? fun k => k.1 == 1 && match s.walk (s.rootOf c.job) (32 * k.2) with
    | .leaf l => !pteVacp l.entry && l.place (32 * k.2) == (some sp, pa - pa % 32)
    | .invalid _ => false).map fun k => (c.job, 32 * k.2 + pa % 32)

/-- What a host access's physical address names; the map is the model's (log 24, DESIGN CHOICE): device memory; a tower's queue memory
from 2^40 + tower · 2^32 on (R289); a control core's instruction memory from 2^41 + core · 2^18 on (R307); the peers that the host
lists, 64 bytes each, from 2^42 on (R330); a tower's BAR0 block from 2^43 + tower · 2^20 on (R289); the linked image in flash that holds
Easel's firmware, of up to 2^28 bytes, from 2^44 on (R297, R346). -/
inductive HostPlace where
  | dev
  | queue (t : Bool) (off : Nat)
  | imem (c : CoreRef) (off : Nat)
  | peer (i off : Nat)
  | bar0 (t : Bool) (off : Nat)
  | flash (off : Nat)
  | nowhere
deriving DecidableEq, Repr

/-- The place of a physical address. -/
def hostPlace (addr : Nat) : HostPlace :=
  if addr < 2 ^ 38 then .dev
  else if 2 ^ 40 ≤ addr ∧ addr < 2 ^ 40 + 2 ^ 33 then .queue (decide (2 ^ 32 ≤ addr - 2 ^ 40)) ((addr - 2 ^ 40) % 2 ^ 32)
  else if 2 ^ 41 ≤ addr ∧ addr < 2 ^ 41 + 2 ^ 20 then .imem (coreAt (512 + (addr - 2 ^ 41) / 2 ^ 18)) (addr % 2 ^ 18)
  else if 2 ^ 42 ≤ addr ∧ addr < 2 ^ 42 + 1024 then .peer ((addr - 2 ^ 42) / 64) (addr % 64)
  else if 2 ^ 43 ≤ addr ∧ addr < 2 ^ 43 + 2 ^ 21 then .bar0 (decide (2 ^ 20 ≤ addr - 2 ^ 43)) (addr % 2 ^ 20)
  else if 2 ^ 44 ≤ addr ∧ addr < 2 ^ 44 + 2 ^ 28 then .flash (addr - 2 ^ 44)
  else .nowhere

/-- Bytes written into a byte string at an offset, zeros filling what it does not have. -/
def writeAt (l : List Byte) (off : Nat) (bs : List Byte) : List Byte :=
  l.take off ++ List.replicate (off - l.length) 0 ++ bs ++ l.drop (off + bs.length)

/-- A peer's key of the list, 0 where none is listed. -/
def State.peer (s : State) (i : Nat) : BitVec 456 := s.peers.getD i 0

/-- One byte of a listed peer's key written; a key has 57. -/
def State.setPeer (s : State) (i off : Nat) (b : Byte) : State :=
  let bs := (leBytes 57 (s.peer i).toNat).set off b
  { s with peers := (List.range (max s.peers.length (i + 1))).map fun k => if k = i then BitVec.ofNat 456 (leNat bs) else s.peer k }

/-- The doubleword of a tower's BAR0 block that the host reads at an offset: QCFG, the doorbells as last written, KICK, SLICETAB and the
receipt ring's registers; the key window reads 0 (R289, R290, R329), and so does what the manual names no register at (log 24,
DESIGN CHOICE). -/
def State.bar0 (s : State) (t : Bool) (off : Nat) : W64 :=
  let w := s.tower t
  if off < 0x10000 then dw (tabGet 0 w.qcfg (off / 32)) (off % 32 / 8)
  else if 0x80000 ≤ off ∧ off < 0x84000 then ((w.queue ((off - 0x80000) / 8)).elim 0 (·.sqtail)).setWidth 64
  else if 0xA0000 ≤ off ∧ off < 0xA4000 then ((w.queue ((off - 0xA0000) / 8)).elim 0 (·.cqhead)).setWidth 64
  else if 0xC0000 ≤ off ∧ off < 0xC0100 then
    BitVec.ofNat 64 ((w.kick.filter fun i => i / 64 == (off - 0xC0000) / 8).map fun i => 2 ^ (i % 64)).sum
  else if off / 8 = 0xC0100 / 8 then w.slicetab
  else if off / 8 = 0xC0110 / 8 then w.rcptring
  else if off / 8 = 0xC0118 / 8 then w.rcptM
  else 0

/-- Whether a page needs a frame and its pool has none. -/
def State.frameless (s : State) (job va : Nat) : Bool := match s.walk (s.rootOf job) va with
  | .leaf l => l.inMemory && (s.backPage false l).isNone
  | .invalid _ => false

/-- Whether a control core's instruction memory takes the host's writes: while the core is its tower's standby, or before the tower's
first start (R307). -/
def State.imemOpen (s : State) (c : CoreRef) : Bool :=
  let w := s.tower (towerOf c)
  !w.started || (w.standbyOk && !s.isPrimary c)

/-- Where a host write to the sector of an address is held, as a job and a virtual address: a claimed sector holds it, as does a page
that finds no frame (R235). -/
def State.hostHolds (s : State) (job : Option Nat) (addr : Nat) : Option (Nat × Nat) := match job with
  | some j => if s.claimedPage j addr || s.frameless j addr then some (j, addr) else none
  | none => if hostPlace addr == .dev then s.claimedAt .gddr addr else none

/-- A part of a host write, within one line, that nothing holds. Physical device memory is written under key 0; BAR0 has events of its own
(log 24, DESIGN CHOICE). A VACP page gets its frame from tower 0 where its entry names no tower (R231, R235; log 15, DESIGN CHOICE). -/
def State.hostWriteRun (s : State) (job : Option Nat) (addr : Nat) (bs : List Byte) : State := match job with
  | some j => s.vwriteRun false j addr bs
  | none => match hostPlace addr with
    | .queue t off => s.modTower t fun w => { w with qmem := putBytes w.qmem off bs }
    | .imem c off => if !s.imemOpen c then s else s.modCore c fun k =>
        { k with imem := putBytes k.imem off bs, imemBad := (touched 32 off bs.length).foldl setDel k.imemBad }
    | .peer i off => bs.zipIdx.foldl (fun (a : State) b => a.setPeer i (off + b.2) b.1) s
    | .dev => s.modDmem .gddr fun m => m.write (s.erasures .gddr) (s.key 0) addr (bs.map some)
    | .flash off => { s with fwFile := writeAt s.fwFile off bs }
    | .bar0 _ _ => s
    | .nowhere => s

/-- A part of a host write within one line: whole where nothing holds it, so that a write of the whole line settles it whole, else sector
by sector (R235, R349). -/
def State.hostWriteLine (s : State) (job : Option Nat) (addr : Nat) (bs : List Byte) : State :=
  let parts := lineRuns 32 addr bs
  if parts.all fun p => (s.hostHolds job p.1).isNone then s.hostWriteRun job addr bs
  else parts.foldl (fun (a : State) p => match a.hostHolds job p.1 with
    | some (j, va) => { a with heldWrites := a.heldWrites ++ [⟨some j, va, p.2, none⟩] }
    | none => a.hostWriteRun job p.1 p.2) s

/-- A host write, line by line (R322). -/
def State.hostWrite (s : State) (job : Option Nat) (addr : Nat) (bs : List Byte) : State :=
  (lineRuns 64 addr bs).foldl (fun (a : State) p => a.hostWriteLine job p.1 p.2) s

/-- Whether a host access has a byte outside every memory: of a page outside memory, or a physical one (R4). -/
def State.hostOutside (s : State) (job : Option Nat) (addr len : Nat) : Bool :=
  (List.range len).any fun i => match job with
    | some j => match s.walk (s.rootOf j) (addr + i) with
      | .leaf l => !l.inMemory
      | .invalid _ => false
    | none => hostPlace (addr + i) == .nowhere

/-- HOST_CXL_MEM_WRITE (R235). -/
def execHostCxlMemWrite (job : Option Nat) (addr : Nat) (bytes : List Byte) (s : State) : Out :=
  if s.hostOutside job addr bytes.length then .fault .noSuchMemory else .next (s.hostWrite job addr bytes)

/-- One byte of a host read: `none` for poison or an uncorrectable codeword, and where a page is not valid. -/
def State.hostReadByte (s : State) (job : Option Nat) (addr : Nat) : Option Byte :=
  let dev (sp : DevSpace) (v : VByte) (line : Nat) : Option Byte :=
    if v.pois || s.lineBad sp line then none else some (v.val.getD 0xFF)
  match job with
  | some j => match s.walk (s.rootOf j) addr with
    | .invalid _ => none
    | .leaf l => if pteVacp l.entry then some 0xFF else match l.place addr with
      | (some sp, pa) => dev sp (s.leafByte l addr) (pa / 64)
      | (none, _) => (s.leafByte l addr).val
  | none => match hostPlace addr with
    | .queue t off => some (tabGet 0 (s.tower t).qmem off)
    | .imem c off => some (tabGet 0 (s.core c).imem off)
    | .peer i off => some ((leBytes 64 (s.peer i).toNat).getD off 0)
    | .bar0 t off => some ((leBytes 8 (s.bar0 t off).toNat).getD (off % 8) 0)
    | .flash off => some (s.fwFile.getD off 0)
    | .dev => dev .gddr ⟨some (s.dev.byte (s.key 0) addr), s.dev.poisoned addr⟩ (addr / 64)
    | .nowhere => none

/-- HOST_CXL_MEM_READ (R235): the visible state, as the host receives it. -/
def execHostCxlMemRead (job : Option Nat) (addr len : Nat) (s : State) : Out :=
  if s.hostOutside job addr len then .fault .noSuchMemory
  else .next { s with hostData := (List.range len).map fun i => s.hostReadByte job (addr + i) }

/-! Error injection (R350). -/

/-- A set with an element in it or out of it, as it was not before. -/
def setFlip (m : List Nat) (x : Nat) : List Nat := if setHas m x then setDel m x else setAdd m x

/-- The symbols that an injection alters in a codeword. -/
def State.injectSyms (s : State) (sp : DevSpace) (line P : Nat) (sev : Bool) : List Nat :=
  if !sev then [P]
  else ((List.range 72).map fun i => (P + i) % 72).filter (fun p => !(s.erasures sp line).contains p) |>.take 4

/-- An injection into a codeword. -/
def State.injectLine (s : State) (sp : DevSpace) (line P : Nat) (sev : Bool) : State :=
  (s.injectSyms sp line P sev).foldl (fun (a : State) p => a.modDmem sp fun m => { m with syms := setAdd m.syms (72 * line + p) }) s

/-- What an injection comes to. -/
inductive Injection where
  | failed (status : Nat)
  | claimed
  | placed (s : State)

/-- Whether an INJECT entry keeps its layout. -/
def injectOk (e : Rec64) : Bool :=
  let d2 := (dw e 2).toNat
  let sp := d2 % 4
  let p := (dw e 4).toNat % 128
  let used := 3 + 2 ^ 17 + (match sp with | 0 => 2 ^ 17 - 2 ^ 8 | 2 => 2 ^ 16 | _ => 0)
  subOk e && zeroFrom e 5 && sp != 3 && (d2 &&& used) == d2 &&
    ((dw e 4).toNat &&& (127 + if sp = 2 then 2 ^ 26 - 2 ^ 16 else 0)) == (dw e 4).toNat &&
    decide (p < if sp = 0 then 77 else 72) && match sp with
      | 0 => (dw e 3).toNat % 8 == 0 && decide ((dw e 3).toNat < 0x800000)
      | 1 => (dw e 3).toNat % 64 == 0
      | _ => decide ((dw e 3).toNat < 2 ^ 56)

/-- The injection of an entry of a job (R350). -/
def State.injection (s : State) (j : Job) (e : Rec64) : Injection :=
  let a := (dw e 3).toNat
  let p := (dw e 4).toNat % 128
  let sev := bit (dw e 2) 17
  match (dw e 2).toNat % 4 with
  | 0 =>
    let c := coreOfId (fld (dw e 2) 16 8)
    let k := s.core c
    if k.segTenant[a / 0x40000 % 32]'(Nat.mod_lt _ (by decide)) ≠ j.tenant ∨ s.unreachable c then .failed 4
    else if k.pending a || k.inTransit a then .claimed
    else
      let w := 77 * (a / 8)
      let f1 := setFlip k.mem.flips (w + p)
      .placed (s.modCore c fun k => { k with mem := { k.mem with flips := if sev then setFlip f1 (w + (p + 1) % 77) else f1 } })
  | 1 => if !canonical a then .failed 4 else match s.walk (s.rootOf j.num) a with
    | .invalid _ => .failed 4
    | .leaf l => if pteVacp l.entry then .failed 4 else match l.place a with
      | (none, _) => .failed 4
      | (some sp, pa) =>
        if pteKey l.entry = 0 then .failed 3
        else if s.claimedPage j.num a || s.claimedPage j.num (a + 32) then .claimed
        else .placed (s.injectLine sp (pa / 64) p sev)
  | _ =>
    let t := bit (dw e 2) 16
    match (s.tower t).block j.tenant.toNat a with
    | none => .failed 4
    | some b =>
      let va := 65536 * a + 64 * fld (dw e 4) 25 16
      let busy (x : Nat) : Bool := s.cmds.any fun c =>
        c.tenant == j.tenant.toNat && towerOf c.core == t && c.claims.contains (claimKey 2 x)
      if busy va || busy (va + 32) then .claimed
      else .placed (s.injectLine (.block t) (1024 * b + fld (dw e 4) 25 16) p sev)

/-- INJECT (R350): one into a claimed sector is held until the claim ends. -/
def execInject (q : Nat) (e : Rec64) (s : State) : Out :=
  s.jobEntry q e (· == 0x0D) (injectOk e) fun j _ => match s.injection j e with
    | .failed st => some (.failed st, s)
    | .placed s1 => some (.done 0, s1)
    | .claimed => some (.later, { s with heldWrites := s.heldWrites ++ [⟨none, 0, [], some (q, e)⟩] })

/-- A held injection is tried again; it is answered as it is placed or fails. -/
def State.retryInject (s : State) (w : HeldWrite) (q : Nat) (e : Rec64) : State :=
  match s.job (subJob e) with
  | none => s.answerLater q (subSeq e) (s.entryAnswer e 2 4 0)
  | some j => match s.injection j e with
    | .claimed => { s with heldWrites := s.heldWrites ++ [w] }
    | .failed st => s.answerLater q (subSeq e) (s.entryAnswer e 2 st 0)
    | .placed s1 => s1.answerLater q (subSeq e) (s.entryAnswer e 1 0 0)

/-- Host writes and injections whose claims have ended take effect, in their order (R235, R350). -/
def State.releaseHeld (s : State) : State :=
  s.heldWrites.foldl (fun (a : State) w => match w.inject with
    | some (q, e) => a.retryInject w q e
    | none => a.hostWrite w.job w.addr w.bytes) { s with heldWrites := [] }

/-! Completion entries (R293). -/

/-- PH of completion w of a ring of 2^n: 1 on the first pass, alternating (R293). -/
def phaseOf (n : Nat) (w : BitVec 32) : Bool := !w.getLsbD n

/-- Whether a completion ring is full (R293). -/
def Queue.full (u : Queue) : Bool := u.cqwrite - u.cqhead == BitVec.ofNat 32 (2 ^ u.cqn)

/-- The place of the entry that a tower writes next: entries are written in the order of acceptance, so one whose ring is full keeps all
later ones waiting (R293, R304, R306). -/
def Tower.nextEntry (w : Tower) : Option Nat := w.completions.findIdx? fun c => !c.held

/-- Whether a tower's next entry can go: its ring has room, or its queue is no more, so that it is discarded (R290, R293). -/
def State.entryGoes (s : State) (c : Completion) : Bool := match s.queue c.queue with
  | some u => !u.en || !u.full
  | none => true

/-- COMPLETION_WRITE (R293): the n-th accepted entry of a tower is written, if it is the next one and its ring has room; a message's
counter then receives 1 (R296). One whose queue has been disabled is discarded (R290). -/
def execCompletionWrite (tower : Bool) (n : Nat) (s : State) : Out := match (s.tower tower).completions[n]? with
  | none => .next s
  | some c =>
    if (s.tower tower).nextEntry != some n || !s.entryGoes c then .next s
    else
    let drop (s : State) : State := s.modTower tower fun w => { w with completions := w.completions.eraseIdx n }
    match s.queue c.queue with
    | none => .next (drop s)
    | some u =>
      if !u.en then .next (drop s)
      else
        let e : Rec64 := c.entry ||| at_ 512 63 (if phaseOf u.cqn u.cqwrite then 1 else 0)
        let s1 : State := { drop s with
          hostmem := putBytes s.hostmem (u.cqbase + 64 * (u.cqwrite.toNat % 2 ^ u.cqn)) (leBytes 64 e.toNat) }
        let s2 := s1.modQueue c.queue fun u => { u with cqwrite := u.cqwrite + 1 }
        match s2.msgs.find? (·.id == c.msgId), c.ctx with
        | some m, some r => .next (({ s2 with msgs := s2.msgs.filter (·.id != m.id) } : State).ask
            (addOf m.core (some r) c.ctr 1 m.node m.job m.scope m.tenant))
        | _, _ => .next s2

/-! Registers (R289 to R291). -/

/-- A queue of a QCFG value (R290). -/
def queueOf (q : Nat) (cfg : BitVec 256) : Queue :=
  { index := q % 2048, en := bit cfg 63, sqm := fld cfg 35 32, sqbase := fld cfg 31 0, cqbase := (dw cfg 1).toNat
    cqn := fld cfg 132 128, sqtail := 0, cqhead := 0, cqwrite := 0, claim := 0, lastseq := 0xFFFFFFFF, busy := none, busyJob := 0 }

/-- Whether every field of a QCFG value lies in its range (R290). -/
def queueOk (cfg : BitVec 256) : Bool :=
  fld cfg 62 36 == 0 && decide (2 ≤ fld cfg 35 32 ∧ fld cfg 35 32 ≤ 12) && fld cfg 31 0 % 64 == 0 && (dw cfg 1).toNat % 64 == 0 &&
    fld cfg 191 133 == 0 && decide (2 ≤ fld cfg 132 128 ∧ fld cfg 132 128 ≤ 16) && dw cfg 3 == 0

/-- A QCFG value with EN 0 (R290). -/
def withoutEn (cfg : BitVec 256) : BitVec 256 := setDw cfg 0 ((dw cfg 0).setWidth 63 |>.setWidth 64)

/-- QUEUE_CREATE (R290): a write of QCFG. While EN is 1 the fields do not change; with EN 0 the register takes them, and one that sets EN
creates the queue where its fields are in range, else EN stays 0. -/
def execQueueCreate (q : Nat) (cfg : BitVec 256) (s : State) : Out :=
  if (s.queue q).any (·.en) then .next s
  else if !bit cfg 63 || !queueOk cfg then
    .next (s.modTower (queueTower q) fun w => { w with qcfg := tabSet 0 w.qcfg (q % 2048) (withoutEn cfg) })
  else .next (s.modTower (queueTower q) fun w => { w with
    qcfg := tabSet 0 w.qcfg (q % 2048) cfg
    queues := (w.queues.filter fun u => u.index != q % 2048) ++ [queueOf q cfg]
    kick := setDel w.kick (q % 2048) })

/-- QUEUE_DISABLE (R290): a write of QCFG that clears EN: the queue's origin tags are freed and its unwritten completions
discarded, whose room in a hold those take that wait for it (R308). -/
def execQueueDisable (q : Nat) (s : State) : Out :=
  .next ((s.modQueue q fun u => { u with en := false, busy := none }).modTower (queueTower q) fun w => Tower.takeIn { w with
    qcfg := tabSet 0 w.qcfg (q % 2048) (withoutEn (tabGet 0 w.qcfg (q % 2048)))
    origins := w.origins.filter fun o => o.queue != q % 2048
    completions := w.completions.filter fun c => c.queue != q
    postWait := w.postWait.filter fun c => c.queue != q })

/-- SQTAIL (R291). -/
def execSqtail (q : Nat) (tail : BitVec 32) (s : State) : Out :=
  .next ((s.modQueue q fun u => { u with sqtail := tail }).modTower (queueTower q) fun w => { w with kick := setAdd w.kick (q % 2048) })

/-- CQHEAD (R293). -/
def execCqhead (q : Nat) (head : BitVec 32) (s : State) : Out := .next (s.modQueue q fun u => { u with cqhead := head })

/-- The slice table at an offset of a tower's queue memory; none where the offset is 0 or the table breaks its layout
(R320). -/
def slicesAt (qmem : List Host.Cell) (off : Nat) : List Slice :=
  let n := (dwordOf qmem off).toNat % 256
  let ss := (List.range n).map fun i =>
    let d := dwordOf qmem (off + 16 + 16 * i)
    Slice.mk (fld d 63 32) (fld d 15 0) ((dwordOf qmem (off + 24 + 16 * i)).extractLsb' 0 32)
  if off = 0 ∨ n = 0 ∨ 64 < n ∨ ss.any (·.len == 0) then [] else ss

/-- SLICETAB is written: a new table, in no slice yet; without one every saved continuation can be dispatched again, and the saved
segments are to come back (R320, R321). -/
def State.setSlices (s : State) (t : Bool) (x : W64) : State :=
  let s1 := s.modTower t fun w => { w with slicetab := x, slices := slicesAt w.qmem x.toNat, slice := none }
  let back (w : Tower) : List (Nat × Nat) := ((w.savedSegs.map fun y => (y.core.val, y.seg)).dedup).filter fun e => !w.saving.contains e
  if !(s1.tower t).slices.isEmpty then s1 else (s1.modTower t fun w => { w with saving := w.saving ++ back w }).rejoin t

/-- REGISTER_WRITE (R289, R320, R329, R332): SLICETAB, RCPTRING, or a doubleword of the key window; a register with a
behaviour of its own has an event of its own, and KICK is read-only. -/
def execRegisterWrite (tower : Bool) (off : Nat) (x : W64) (s : State) : Out :=
  if off = 0xC0100 then
    .next (s.setSlices tower x)
  else if off = 0xC0110 then .next (s.modTower tower fun w => { w with rcptring := x })
  else if off = 0xC0118 then .next (s.modTower tower fun w => { w with rcptM := x })
  else if !tower && decide (0xD0000 ≤ off ∧ off < 0xD1000) && off % 8 == 0 then
    let i := (off - 0xD0000) / 64
    .next { s with keys := s.keys.set (i % 64) (setDw (s.key i) ((off - 0xD0000) % 64 / 8) x) (Nat.mod_lt _ (by decide)) }
  else .next s

/-! The tick (R262, R263). -/

/-- FRAME adds 1: nodes whose tick has come become ready, and contexts parked on the frame re-test (R247, R264). -/
def State.frameUp (s : State) (job : Nat) : State :=
  let s1 := s.modJob job fun j => { j with frame := j.frame + 1 }
  let s2 := (s1.nodes.map (·.id)).foldl (fun (a : State) i => a.tryReady i) s1
  s2.bound.foldl (fun (a : State) r => a.retest r) s2

/-- The core a node has been dispatched to: of its context, of its frame or image, or the one whose engine runs its command; 0x1FF
where it has not been dispatched (R263). -/
def State.nodeCore (s : State) (n : Node) : Nat :=
  match s.bound.find? fun r => (s.ctx r).node == n.id with
  | some r => r.core.val
  | none => match n.image, n.state with
    | some im, _ => im.core.val
    | none, .engine id _ => match s.cmd id, s.colls.find? (·.id == id) with
      | some c, _ => c.core.val
      | none, some c => c.core.val
      | none, none => 0x1FF
    | none, _ => 0x1FF

/-- A slip record of a tick's time goes to the job's slip log in the node's tower, where the host has set one; the slip is counted
(R263, R294, R332). -/
def State.slip (s : State) (j : Job) (tick : Nat) (n : Node) : State :=
  let s1 := s.modJob j.num fun j => { j with counts.slips := j.counts.slips + 1 }
  match j.sliplogs.find? fun x => x.1 == n.tower with
  | none => s1
  | some (_, addr, m) =>
    let d0 : W64 := at_ 64 56 2 ||| at_ 64 47 (s.nodeCore n) ||| at_ 64 12 j.tenant.toNat ||| at_ 64 0 (recScope n.nrec)
    (s1.ringWrite n.tower j.num addr m (dwBytes [d0, BitVec.ofNat 64 n.id, j.frame, BitVec.ofNat 64 tick])).2

/-- FRAME_TICK (R262, R263): a tick falls at job start + n × interval; FRAME adds 1 unless a framed node slips or has
slipped and not completed. -/
def execFrameTick (job : Nat) (s : State) : Out := match s.job job with
  | none => .next s
  | some j =>
    let tick := j.start + (j.ticks + 1) * j.interval
    if s.time < tick then .next s
    else
      let late := s.nodes.filter fun n => n.job == job && n.deadline == some (j.ticks + 1)
      let s1 := s.modJob job fun j => { j with ticks := j.ticks + 1, slipping := j.slipping ++ late.map (·.id) }
      let s2 := late.foldl (fun (a : State) n => a.slip j tick n) s1
      .next (if j.slipping.isEmpty && late.isEmpty then s2.frameUp job else s2)

end Sys2Proof.Machine
end

