-- ==== Sys2Proof/Machine/Matrix.lean ====
section
/-!
DEFINITION. Instructions of the Palette and the matrix engine in slot 6 (R152, R153, R188 to R192, R199, R200, R205) and the
events of the matrix engine.
-/

namespace Sys2Proof.Machine

/-! Palette entries (R188 to R190). -/

/-- The checks of `pset` in order, with the entry it writes (R188); KIND 0b00 writes an empty entry. -/
def State.psetCheck (s : State) (x : Ctx) (id : W64) (a : Nat) : Except SlotFault Rec64 :=
  let k := s.core s.cur.core
  if a % 64 ≠ 0 then .error (trap 0x05)
  else if 256 ≤ id.toNat ∨ 0x800000 < a + 64 ∨ !x.ownsRange a 64 then .error (trap 0x06)
  else
    let found := k.mem.foundRead a 64
    if !found.isEmpty || k.mem.poisoned a || k.mem.poisoned (a + 32) then .error { trap 0x08 with found := found }
    else if (List.range 64).any fun i => !k.mem.has (a + i) then .error (trap 0x07)
    else
      let e : Rec64 := BitVec.ofNat 512 (leNat (k.mem.loads a 64))
      match entryFault s.mx6 e with
      | some f => .error f
      | none => .ok (if palKind e = 0 then 0 else e)

/-! Operand views (R152, R153, R192). -/

/-- The pitch that a row of a view needs, in words (R161, R192). -/
def rowWords (mx6 : Bool) (e : Rec64) : Nat :=
  let w := fmtBits mx6 (palFmt e)
  if isMx (palFmt e) then w / 2 else (vwCols e * (w / 8) + 7) / 8

/-- Whether an entry is a local 128 × 128 view of one batch in owned bytes, its pitches wide enough (R152, R192). -/
def tileOk (mx6 : Bool) (x : Ctx) (e : Rec64) : Bool :=
  palKind e == 1 && vwRows e == 128 && vwCols e == 128 && vwSpace e == 0 && vwBatch e == 1 &&
    decide (rowWords mx6 e ≤ vwPitch e) && (!(isMx (palFmt e) && vwScv e) || decide (vwRows e ≤ vwSpitch e)) && localOk mx6 x e

/-- Whether a format can be multiplied: f16, bf16 and the MX formats of R156's table. -/
def canMul (mx6 : Bool) (f : Nat) : Bool := f == 2 || f == 3 || (isMx f && fmtBits mx6 f != 0)

/-- Step 2 of R152: formats and the direction of MX blocks (R192). -/
def mulFmtOk (mx6 rc ta tb : Bool) (a b : Rec64) : Bool :=
  canMul mx6 (palFmt a) && palFmt a == palFmt b && !(rc && isMx (palFmt a) && palFmt a != 0x15) &&
    !(isMx (palFmt a) && (ta || !tb))

/-- Whether an entry demands another generation than it has (R209). -/
def stale (e : Rec64) : Bool := vwDgen e != 0 && vwDgen e != vwGen e

/-- The checks of `mmq` in order (R152, R192, R209). -/
def State.mmqCheck (s : State) (x : Ctx) (d : BitVec 6) (ids ctr : W64) (rc ta tb : Bool) : Except SlotFault Ctr :=
  let a := x.entry (fld ids 7 0)
  let b := x.entry (fld ids 15 8)
  match counterOf x ctr with
  | none => .error (trap 0x06)
  | some c =>
    if 1 < d.toNat ∨ fld ids 63 16 ≠ 0 ∨ !tileOk s.mx6 x a ∨ !tileOk s.mx6 x b then .error (trap 0x06)
    else if !mulFmtOk s.mx6 rc ta tb a b then .error (trap 0x0F)
    else if (ta && vwPitch a % 2 == 0) || (tb && vwPitch b % 2 == 0) then .error (trap 0x04)
    else if stale a || stale b then .error (trap 0x0E)
    else .ok c

/-- Whether the engine serves the core's other context (R191). -/
def State.mxForeign (s : State) : Bool := (s.core s.cur.core).mx.owner == some !s.cur.q

/-- Whether the engine's queue holds 16 commands of the context; a drain that a pre-empted owner before it has left is none (R191,
R198). -/
def State.mxFull (s : State) : Bool :=
  let mx := (s.core s.cur.core).mx
  decide (16 ≤ mx.queue.length + (mx.drains.filter (·.node == (s.ctx s.cur).node)).length)

/-- A matrix command before its commit. -/
def newMx (seq : Nat) (u : Issued) (op : MxOp) (acc : Bool) (a b : Rec64) (aId bId : Nat) (ctr : Ctr) : MxCmd :=
  { id := 0, seq := seq, issued := u, op := op, acc := acc, a := a, b := b, aId := aId, bId := bId, ctr := ctr, started := none, firstStep := 0,
    step := 0, consumed := false, opA := [], opB := [] }

/-- `mmq` with its flags: EXTOP without recombination's capability, then the wait, then the checks (R44, R152, R191). -/
def State.mmq (s : State) (op : BitVec 8) (h : Shape) (g : G) (z rc ta tb : Bool) : Out :=
  s.slotOp .t op h g false fun x =>
    if rc && !s.rcmb then h.extop x g
    else if s.mxForeign || s.mxFull then .wait
    else
      let ids := x.sa g
      match s.mmqCheck x g.d ids (x.sb g) rc ta tb with
      | .error f => .trap f
      | .ok c => done [.bind, .mx (newMx x.cmdSeq (h.issued op x g) (.mmq z rc ta tb) (g.d == 1) (x.entry (fld ids 7 0)) (x.entry (fld ids 15 8))
          (fld ids 7 0) (fld ids 15 8) c)]

/-- The bias view of an epilogue, if any. -/
def Ctx.biasView (x : Ctx) (epi : Rec64) : Option Rec64 := if epBiasv epi then some (x.entry (epBias epi)) else none

/-- Whether a bias entry is a local view of one batch of 128 columns, all its bytes owned (R205). -/
def biasOk (mx6 : Bool) (x : Ctx) (v : Rec64) : Bool :=
  palKind v == 1 && vwSpace v == 0 && vwBatch v == 1 && vwCols v == 128 && localOk mx6 x v

/-- The checks of `mdrain` in order (R153, R205). -/
def State.mdrainCheck (s : State) (x : Ctx) (d : BitVec 6) (ids ctr : W64) : Except SlotFault Ctr :=
  let v := x.entry (fld ids 7 0)
  let epi := x.entry (fld ids 15 8)
  let bias := x.biasView epi
  match counterOf x ctr with
  | none => .error (trap 0x06)
  | some c =>
    if 1 < d.toNat ∨ fld ids 63 16 ≠ 0 ∨ !tileOk s.mx6 x v ∨ palKind epi ≠ 2 ∨ !bias.all (biasOk s.mx6 x) then .error (trap 0x06)
    else if palFmt v = 0 ∨ 4 < palFmt v ∨ palFmt v ≠ palFmt epi ∨ !bias.all (fun b => palFmt b != 0 && decide (palFmt b < 4)) then
      .error (trap 0x0F)
    else if destOccupied s.mx6 (s.core s.cur.core) v then .error (trap 0x10)
    else .ok c

/-- Whether a command of a node into an accumulator is queued or running, or a drain of it has not read its last row (R200, R206); a
drain that an earlier owner of the engine has left behind is none of its (R191). -/
def Matrix.busy (m : Matrix) (node : Nat) (acc : Bool) (cycle : Nat) : Bool :=
  m.queue.any (fun c => c.acc == acc) || m.drains.any fun d => d.node == node && d.acc == acc && match d.started with
    | some t => decide (cycle < t + 127)
    | none => true

/-- The status word of an accumulator (R200). -/
def Matrix.status (m : Matrix) (node : Nat) (acc : Bool) (cycle : Nat) : W64 :=
  let a := m.acc acc
  at_ 64 63 (if m.busy node acc cycle then 1 else 0) ||| at_ 64 62 (if a.pois then 1 else 0) ||| at_ 64 61 (if a.chkf then 1 else 0) |||
    at_ 64 32 (min a.nan 0xFFFF) ||| at_ 64 16 (min a.ovf 0xFFFF) ||| at_ 64 0 (min a.inx 0xFFFF)

/-! The instructions. -/


/-- PSET (R188). -/
def execPset (g : G) (s : State) : Out :=
  s.slotOp .t 0x01 .srcAB g false fun x =>
    match s.psetCheck x (x.sa g) (x.sb g).toNat with
    | .error f => .trap f
    | .ok e => done [.touch (x.sb g).toNat 64, .palette (x.sa g).toNat e]

/-- PGET (R189). -/
def execPget (g : G) (s : State) : Out :=
  s.slotOp .t 0x02 .sImm7 g true fun x =>
    if 256 ≤ (x.sa g).toNat then .trap (trap 0x06)
    else done [.launch (.s g.d (dw (x.entry (x.sa g).toNat) g.b.toNat)) 0 2]

/-- PINV (R190). -/
def execPinv (g : G) (s : State) : Out :=
  s.slotOp .t 0x03 .srcA g false fun x =>
    if 256 ≤ (x.sa g).toNat then .trap (trap 0x06) else done [.palette (x.sa g).toNat 0]

/-- MMQ (R152). -/
def execMmq (g : G) (s : State) : Out :=
  s.mmq 0x10 .rawSs g false false false false

/-- MMQ_Z (R152). -/
def execMmqZ (g : G) (s : State) : Out :=
  s.mmq 0x11 .rawSs g true false false false

/-- MMQ_RC (R152). -/
def execMmqRc (g : G) (s : State) : Out :=
  s.mmq 0x12 .rawSs g false true false false

/-- MMQ_Z_RC (R152). -/
def execMmqZRc (g : G) (s : State) : Out :=
  s.mmq 0x13 .rawSs g true true false false

/-- MMQ_TA (R152). -/
def execMmqTa (g : G) (s : State) : Out :=
  s.mmq 0x14 .rawSs g false false true false

/-- MMQ_Z_TA (R152). -/
def execMmqZTa (g : G) (s : State) : Out :=
  s.mmq 0x15 .rawSs g true false true false

/-- MMQ_RC_TA (R152). -/
def execMmqRcTa (g : G) (s : State) : Out :=
  s.mmq 0x16 .rawSs g false true true false

/-- MMQ_Z_RC_TA (R152). -/
def execMmqZRcTa (g : G) (s : State) : Out :=
  s.mmq 0x17 .rawSs g true true true false

/-- MMQ_TB (R152). -/
def execMmqTb (g : G) (s : State) : Out :=
  s.mmq 0x18 .rawSs g false false false true

/-- MMQ_Z_TB (R152). -/
def execMmqZTb (g : G) (s : State) : Out :=
  s.mmq 0x19 .rawSs g true false false true

/-- MMQ_RC_TB (R152). -/
def execMmqRcTb (g : G) (s : State) : Out :=
  s.mmq 0x1A .rawSs g false true false true

/-- MMQ_Z_RC_TB (R152). -/
def execMmqZRcTb (g : G) (s : State) : Out :=
  s.mmq 0x1B .rawSs g true true false true

/-- MMQ_TA_TB (R152). -/
def execMmqTaTb (g : G) (s : State) : Out :=
  s.mmq 0x1C .rawSs g false false true true

/-- MMQ_Z_TA_TB (R152). -/
def execMmqZTaTb (g : G) (s : State) : Out :=
  s.mmq 0x1D .rawSs g true false true true

/-- MMQ_RC_TA_TB (R152). -/
def execMmqRcTaTb (g : G) (s : State) : Out :=
  s.mmq 0x1E .rawSs g false true true true

/-- MMQ_Z_RC_TA_TB (R152). -/
def execMmqZRcTaTb (g : G) (s : State) : Out :=
  s.mmq 0x1F .rawSs g true true true true

/-- MDRAIN (R153, R205). -/
def execMdrain (g : G) (s : State) : Out :=
  s.slotOp .t 0x20 .rawSs g false fun x =>
    if s.mxForeign || s.mxFull then .wait
    else
      let ids := x.sa g
      match s.mdrainCheck x g.d ids (x.sb g) with
      | .error f => .trap f
      | .ok c =>
        let epi := x.entry (fld ids 15 8)
        let d : Drain := {
          id := 0, ctx := s.cur, node := x.node, job := x.job, scope := x.spec.scope.toNat,
          tenant := x.spec.tenant.toNat, seq := x.cmdSeq, issued := Shape.issued .rawSs 0x20 x g, acc := g.d == 1, dst := x.entry (fld ids 7 0), dstId := fld ids 7 0,
          epi := epi, bias := x.biasView epi, biasId := epBias epi, ctr := c, seed := x.spec.rngseed,
          rctr := x.spec.rngctr + BitVec.ofNat 64 s.drawn, after := [], started := none, out := [], outPois := false,
          failCol := none, discard := false }
        .ok [.bind, .drain d] (if epMode epi = 1 then 4096 else 0)

/-- MZERO (R199). -/
def execMzero (g : G) (s : State) : Out :=
  s.slotOp .t 0x21 .rawD g false fun x =>
    if s.mxForeign || s.mxFull then .wait
    else if 1 < g.d.toNat then .trap (trap 0x06)
    else done [.bind, .mx (newMx x.cmdSeq (Shape.issued .rawD 0x21 x g) .mzero (g.d == 1) 0 0 0 0 .none)]

/-- MSTAT (R191, R200). -/
def execMstat (g : G) (s : State) : Out :=
  s.slotOp .t 0x22 .dstRawB g true fun x =>
    if s.mxForeign || s.mxFull then .wait
    else if 1 < g.b.toNat then .trap (trap 0x06)
    else done [.bind, .launch (.s g.d ((s.core s.cur.core).mx.status x.node (g.b == 1) s.cycle)) 0 2]

/-! Events. -/

/-- MATRIX_COMMAND_START (R193, R199). -/
def execMatrixCommandStart (c : CoreRef) (s : State) : Out := .next (s.mxStart c)

/-- MATRIX_STEP (R193). -/
def execMatrixStep (c : CoreRef) (s : State) : Out := .next (s.mxStep c)

/-- OPERANDS_CONSUMED (R197). -/
def execOperandsConsumed (c : CoreRef) (s : State) : Out := .next (s.mxConsume c)

/-- DRAIN_START (R206). -/
def execDrainStart (c : CoreRef) (s : State) : Out := .next (s.drainStart c)

/-- DRAIN_PUBLISH (R207). -/
def execDrainPublish (c : CoreRef) (s : State) : Out := .next (s.drainPublish c)

end Sys2Proof.Machine
end

