-- ==== Sys2Proof/Machine/Reliability.lean ====
section
/-!
DEFINITION. Failures and what follows them: device-level errors (R325), take-over and reload of the control cores (R305,
R313), instruction memory errors (R108), soft errors (R70, R322), the scrubber (R323), invalidation acknowledgements (R233,
R309), clocks (R333, R335), bring-up with its journal (R331 to R334), warm reset (R326) and the loss of power (R334).
-/

namespace Sys2Proof.Machine

/-! Device-level errors (R325). -/

/-- Whether a scope is a job's root. -/
def Job.isRoot (j : Job) (c : Scope) : Bool := c.home == j.home && c.id == j.root && c.job == j.num

/-- A device-level error: dispatch stops, every job's root scope is killed, every job's queue gets a TYPE 0x08 entry with
the cause, the tower and the column (R325). One that is in force already changes nothing. -/
def State.deviceError (s : State) (cause : Nat) (tower : Bool) (column : Nat) : State :=
  if s.faulted then s
  else
    let pay := ofDws 256 [BitVec.ofNat 64 cause, at_ 64 8 (towerNat tower) ||| at_ 64 0 (column % 64), 0, 0]
    s.jobs.foldl (fun (a : State) j =>
      let a1 := a.postJob j.num { type := 0x08, scope := j.root, pay := pay }
      (a1.killScope j.home j.num j.root 0 0 j.tenant.toNat).modJob j.num fun j => { j with endAt := some s.time })
      { s with faulted := true }

/-! Signed records (R331). -/

/-- The prehash of a record; its bytes are the model's, and the device certificate's bind the device number to the identity public key
(R331, log 27, DESIGN CHOICE). -/
def Repair.prehash (r : Repair) : List Byte :=
  shake256 (leBytes 8 r.kind ++ leBytes 8 r.unit ++ leBytes 8 r.pos ++
    if r.kind = 4 then leBytes 57 Config.identityKey.toNat else []) 64

/-- Whether a record's signature is good: of the factory key, or of the device's own identity key (R331). -/
def Repair.good (r : Repair) : Bool := r.sig == if r.factory then Config.factorySign r.prehash else Config.ed448Sign r.prehash

/-- A repair record that the device signs itself (R323, R331). -/
def fieldRepair (kind unit pos : Nat) : Repair :=
  let r : Repair := ⟨kind, unit, pos, false, 0⟩
  { r with sig := Config.ed448Sign r.prehash }

/-- The positions that good records of a kind give a unit; a record whose signature fails is ignored (R331). -/
def State.repaired (s : State) (kind unit : Nat) : List Nat :=
  (s.repairs.filter fun r => r.kind == kind && r.unit == unit && r.good).map (·.pos)

/-- The lowest speed bin of a tower: its signed record's, else one that the part has and the spec does not give (R331, R335). -/
def State.lowestBin (s : State) (t : Bool) : Nat := ((s.repaired 2 (64 * towerNat t)).head?).getD Config.lowestBin

/-! Take-over (R305, R313). -/

/-- A control core reset and loaded with its firmware's code over what its instruction memory holds (R297, R307, R313, R333). -/
def Core.loaded (k : Core) (f : FwImage) : Core :=
  { Core.blank with imem := placeBytes k.imem f.code, imemBad := goodBundles k.imemBad f.code }

/-- Control memory as firmware leaves it: what the image does not place reads 0 (R297). -/
def FwImage.memory (f : FwImage) : List Host.Cell := placeBytes [] f.ctl

/-- The bytes of the firmware as loaded: a control core's instruction memory, then control memory (R297, R332, log 27, DESIGN CHOICE). -/
def firmwareBytes (imem ctl : List Host.Cell) : List Byte := bytesOf imem 0 (2 ^ 18) ++ bytesOf ctl 0 (2 ^ 19)

/-- The firmware's measurement (R332). -/
def measureOf (imem ctl : List Host.Cell) : BitVec 512 := BitVec.ofNat 512 (leNat (shake256 (firmwareBytes imem ctl) 64))

/-- Firmware with nothing in it. -/
def FwImage.empty : FwImage := ⟨[], [], 0, 0⟩

/-- The primary and the standby control core of a tower. -/
def State.controlCore (s : State) (t primary : Bool) : CoreRef := ctlCore t ((s.tower t).primary == primary)

/-- A control core's context as it starts at an entry, every register at its dispatch value (R250, R305). -/
def ctlStart (entry : BAddr) (cycle : Nat) : Ctx :=
  { Ctx.blank with status := .running, pc := entry, notBefore := cycle + 1 }

/-- A device-level error of a tower whose Easel is lost: the other tower's takes its steps, so no hold of it stays in force (R313). -/
def State.easelLost (s : State) (t : Bool) : State := (s.modTower t Tower.release).deviceError 5 t 0

/-- A tower as steps 2 to 5 of a take-over leave it: a hold on every entry, JAPP at JCOM, KICK set for every enabled queue, the heartbeat
timer stopped (R305). -/
def Tower.seized (w : Tower) : Tower :=
  { w with
    hold := true
    holdTko := true
    completions := w.completions.map fun c => { c with held := true }
    japp := w.jcom
    kick := (w.queues.filter (·.en)).foldl (fun k u => setAdd k u.index) w.kick
    beat := none }

/-- The steps of a take-over (R305); without a standby it cannot complete, and the other tower's Easel takes what is left of them
(R313, R325). -/
def State.takeOver (s : State) (t : Bool) : State :=
  let s1 := (s.modCtx ⟨s.controlCore t true, false⟩ fun x => x.halt s.cycle).modTower t Tower.seized
  if !(s.tower t).standbyOk then s1.easelLost t
  else (s1.modTower t fun w => { w with standbyOk := false, takeover := true }).setCtx ⟨s.controlCore t false, false⟩
    (ctlStart ((s.firmware t).getD FwImage.empty).standby s.cycle)

/-- Whether a tower's heartbeat timer has run out (R305). -/
def State.beatOut (s : State) (t : Bool) : Bool := match (s.tower t).beat with
  | some b => decide (b ≤ s.cycle)
  | none => false

/-- TAKE_OVER (R305). -/
def execTakeOver (tower : Bool) (s : State) : Out := .next (if s.beatOut tower then s.takeOver tower else s)

/-- Whether an operation of a control core has a result still to come (R299). -/
def State.owed (s : State) (r : CtxRef) : Bool :=
  !(s.ctx r).inflight.isEmpty || s.spawnWait.any (·.ctx == r) || s.invals.any (·.ctx == some r)

/-- STANDBY_RELOAD (R313): once after a `tko`, when the results of the failed core have landed (R299), it is reset, reloaded and measured; it
becomes the standby where the reload has not failed and the digest is the one measured at the start of its tower. -/
def execStandbyReload (tower agree : Bool) (s : State) : Out :=
  let w := s.tower tower
  let c := s.controlCore tower false
  if !w.reloadDue || w.standbyOk || w.takeover || s.owed ⟨c, false⟩ then .next s
  else
    let f := (s.firmware tower).getD FwImage.empty
    let k := Core.blank.loaded f
    .next ((s.modCore c fun _ => k).modTower tower fun w =>
      { w with reloadDue := false, standbyOk := agree && measureOf k.imem f.memory == w.fwDigest })

/-! Errors in stored data (R70, R108, R322, R350). -/

/-- IMEMUE (R108): the bundle of an uncorrectable word is not issued. On a compute core the node's scope is killed with a
report of cause 0x10; on a primary control core a take-over begins, whose steps come at the next fabric edge (R5, R305); on a standby
before its `tko` it is a device-level error (R313). -/
def execImemue (c : CtxRef) (s : State) : Out :=
  let x := s.ctx c
  if x.status != .running || !(s.core c.core).imemBad.contains x.pc.toNat then .next s
  else
    let t := towerOf c.core
    if isCtl c.core then
      let s1 := s.modCtx c fun x => x.halt s.cycle
      .next (if (s.tower t).takeover && !s.isPrimary c.core then s1.easelLost t
        else if s.isPrimary c.core then s1.modTower t fun w => { w with beat := some (nextEdge s.cycle) } else s1)
    else
      let s1 := s.modCtx c fun x => { x with status := .stopped }
      let s2 := s1.report x.job { core := c.core.val, code := 0x40, cause := 0x10, space := 4, tenant := x.spec.tenant.toNat,
                                  scope := x.spec.scope.toNat, base := x.pc.toNat }
      .next (s2.killScope (s.homeOf x.job) x.job x.spec.scope.toNat 0 0 x.spec.tenant.toNat)

/-- SOFT_ERROR (R70): space 0 a bit of a core's scratchpad word, 1 a symbol of a device memory line, 2 and 3 of a Canvas page
or block line, 4 an instruction bundle, 5 a bit of an accumulator cell (R207), 6 a tower's control memory, 7 a codeword of the
image or frame of node `unit`, at a device address, or, where `bit` is not 0, of a saved segment of core `unit`, by its 64-byte
line of the scratchpad (R319; log 27, DESIGN CHOICE). -/
def execSoftError (space : BitVec 3) (unit addr bit : Nat) (s : State) : Out :=
  let core := coreAt unit
  let t := unit % 2 == 1
  let sym (m : DevMem) : DevMem := { m with syms := setFlip m.syms (72 * addr + bit % 72) }
  .next (match space.toNat with
  | 0 => s.modCore (coreOfId unit) fun k =>
      { k with mem := { k.mem with flips := setFlip k.mem.flips (77 * (addr % 2 ^ 20) + bit % 77) } }
  | 1 => s.modDmem .gddr sym
  | 2 => s.modDmem (.page t) sym
  | 3 => s.modDmem (.block t) sym
  | 4 => s.modCore core fun k => { k with imemBad := setAdd k.imemBad (addr % 2 ^ 14) }
  | 5 => s.modCore (coreOfId unit) fun k =>
      let flip (a : Acc) : Acc := { a with
        cells := tabSet 0 a.cells (addr % 2 ^ 14) (tabGet 0 a.cells (addr % 2 ^ 14) ^^^ at_ 32 0 (2 ^ (bit % 32))) }
      { k with mx := if addr / 2 ^ 14 % 2 = 0 then { k.mx with acc0 := flip k.mx.acc0 } else { k.mx with acc1 := flip k.mx.acc1 } }
  | 6 => s.modTower t fun w => { w with ctlBad := true }
  | _ =>
    if bit = 0 then s.modNode unit fun n => { n with image := n.image.map fun im => { im with bad := setAdd im.bad (addr / 64 * 64) } }
    else
      let hit (x : SavedSeg) : SavedSeg :=
        if x.core == coreOfId unit && x.seg == addr / 4096 then { x with bad := setAdd x.bad addr } else x
      s.modTower (towerOf (coreOfId unit)) fun w => { w with savedSegs := w.savedSegs.map hit })

/-- DEVICE_FAULT (R325). -/
def execDeviceFault (cause : Nat) (tower : Bool) (column : Nat) (s : State) : Out :=
  .next (s.deviceError cause tower column)

/-! The scrubber (R323). -/

/-- The memory and line that the scrubber reads: device memory, or a tower's Canvas, whose pages come before its blocks
(R236, log 15, DESIGN CHOICE). -/
def State.scrubLine (s : State) (canvas tower : Bool) (line : Nat) : DevSpace × Nat :=
  if !canvas then (.gddr, line)
  else
    let pages := (65536 - (s.tower tower).canvB) * 1024
    if line < pages then (.page tower, line) else (.block tower, line - pages)

/-- Whether an engine command claims a sector of a line (R223). -/
def State.lineClaimed (s : State) (sp : DevSpace) (line : Nat) : Bool := match sp with
  | .block t => s.cmds.any fun c => towerOf c.core == t && c.claims.any fun k =>
      k.1 == 2 && (((s.tower t).block c.tenant (32 * k.2 / 65536)).any fun b => 1024 * b + 32 * k.2 % 65536 / 64 == line)
  | _ => (s.claimedAt sp (64 * line)).isSome || (s.claimedAt sp (64 * line + 32)).isSome

/-- A position corrected in a rank: at the 16th time in one pass it enters the erasure table and a signed repair record; a table
of 6 is a device-level error, its rank in the column's place (R323, R325, log 27, DESIGN CHOICE). -/
def State.corrected (s : State) (sp : DevSpace) (line pos : Nat) : State :=
  let t := rankTower sp line
  let rank := rankOf sp line
  let key := 72 * rank + pos
  let n := tabGet 0 (s.tower t).scrubFix key + 1
  let s1 := s.modTower t fun w => { w with scrubFix := tabSet 0 w.scrubFix key n }
  let table := s.erasures sp line
  if n < 16 ∨ table.contains pos ∨ 6 ≤ table.length then s1
  else
    let s2 := s1.modTower t fun w => { w with erasures := (w.erasures.filter (·.1 != rank)) ++ [(rank, table ++ [pos])] }
    let s3 : State := { s2 with repairs := s2.repairs ++ [fieldRepair 0 (64 * towerNat t + rank) pos] }
    if table.length = 5 then s3.deviceError 6 t rank else s3

/-- A pass begins: the counts of the ranks of the memory that it reads start again, those of device memory in both towers or those of
a tower's Canvas (R323). -/
def State.passBegins (s : State) (canvas tower : Bool) : State :=
  let drop (a : State) (t : Bool) : State := a.modTower t fun w => { w with
    scrubFix := w.scrubFix.filter fun e => decide (24 ≤ e.1 / 72) != canvas }
  if canvas then drop s tower else drop (drop s false) true

/-- SCRUB (R323): a pass begins at line 0 of a memory. A claimed line is left alone; a correctable one is written back;
an uncorrectable one becomes poison in place, to be reported at the first read unless a command has found and reported it before
(R105). -/
def execScrub (space tower : Bool) (line : Nat) (s : State) : Out :=
  let (sp, l) := s.scrubLine space tower line
  let s1 := if line = 0 then s.passBegins space tower else s
  if s.lineClaimed sp l then .next s1
  else
    let syms := (s.dmem sp).symsIn l
    let wrong := syms.filter fun p => !(s.erasures sp l).contains p
    let clean (a : State) : State := a.modDmem sp fun m => { m with syms := m.syms.filter fun y => y / 72 != l, told := setDel m.told l }
    let told := setHas (s.dmem sp).told l
    if s.lineBad sp l then
      .next ((clean s1).modDmem sp fun m => { (m.poison (2 * l)).poison (2 * l + 1) with
        silent := if told then m.silent else setAdd m.silent l })
    else .next (wrong.foldl (fun (a : State) p => a.corrected sp l p) (clean s1))

/-! Invalidations (R233, R309, R311). -/

/-- Whether an address lies in the range of an invalidation; a length of 0 names the whole address space. -/
def Inval.covers (v : Inval) (va : Nat) : Bool := v.length == 0 || decide (v.first ≤ va ∧ va < v.first + v.length)

/-- Whether a virtual page number, of a canonical address, lies in the range. -/
def Inval.coversPage (v : Inval) (e : TlbEntry) : Bool :=
  let size := if e.big then 2 ^ 25 else 2 ^ 16
  let base := (if e.vpn < 2 ^ 32 then 65536 * e.vpn else 65536 * e.vpn + (2 ^ 64 - 2 ^ 49)) / size * size
  v.length == 0 || decide (v.first < base + size ∧ base < v.first + v.length)

/-- The address of a fault record, of 49 bits, as a canonical address (R97, R229). -/
def faultAddr (opa : W64) : Nat := let a := fld opa 48 0; if a < 2 ^ 48 then a else a + (2 ^ 64 - 2 ^ 49)

/-- An engine node's held command whose failing address an acknowledgement covers runs again (R309, R311). -/
def State.retryEngineNodes (s : State) (v : Inval) : State := s.cmds.foldl (fun (a : State) c => match c.state with
  | .held _ opa _ => if c.ctx.isNone && c.job == v.job && v.covers (faultAddr opa) then a.retryCmd c else a
  | _ => a) s

/-- Whether a page lies in the range. -/
def Inval.coversLeaf (v : Inval) (base : Nat) (l : Leaf) : Bool :=
  v.length == 0 || decide (v.first < base + l.size ∧ base < v.first + v.length)

/-- Whether a tower's command that has translated through a page of the range has neither published, been held, nor been discarded
(R233). -/
def State.usesOld (s : State) (v : Inval) (tower : Bool) : Bool := s.cmds.any fun c =>
  towerOf c.core == tower && s.rootOf c.job == s.rootOf v.job && (match c.state with
    | .queued => false
    | .waiting => false
    | .held _ _ _ => false
    | _ => true) && ((if vwSpace c.dst = 1 then c.frames else []) ++ c.vacPages ++ c.readPages).any fun p => v.coversLeaf p.base p.leaf

/-- The invalid leaf entries of a page table in a range that still name a frame: pages that the host has evicted (R234). -/
def State.evictedIn (s : State) (v : Inval) : List Leaf :=
  let gone (e : W64) : Bool := !pteV e && pteLeaf e && !pteVacp e && decide (pteTgt e < 2) && fld e 46 44 == 0
  let root := s.rootOf v.job
  (s.entriesIn root 4096).flatMap fun a0 =>
    let va0 := (a0 - root) / 8 * 2 ^ 37
    let t1 := pteFrame (s.pte a0) * 4096
    if !tableOk (s.pte a0) then []
    else (s.entriesIn t1 4096).flatMap fun a1 =>
      let va1 := va0 + (a1 - t1) / 8 * 2 ^ 25
      let t2 := pteFrame (s.pte a1) * 4096
      let big : Leaf := ⟨a1, s.pte a1, true⟩
      if gone big.entry then (if v.coversLeaf (toCanonical va1) big then [big] else [])
      else if !tableOk (s.pte a1) then []
      else (s.entriesIn t2 512).filterMap fun a2 =>
        let l : Leaf := ⟨a2, s.pte a2, false⟩
        if gone l.entry && v.coversLeaf (toCanonical (va1 + (a2 - t2) / 8 * 2 ^ 16)) l then some l else none

/-- Whether a frame of a page lies in its tower's free pool. -/
def State.frameFree (s : State) (l : Leaf) : Bool :=
  ((s.tower (frameTower l.entry (pteFrame l.entry))).pool l.entry).any fun r =>
    decide (r.1 < pteFrame l.entry + l.size / 65536 ∧ pteFrame l.entry < r.1 + r.2)

/-- Whether two leaves' pages share a frame of one memory. -/
def Leaf.shares (l m : Leaf) : Bool :=
  !pteVacp m.entry && pteTgt l.entry == pteTgt m.entry &&
    decide (pteFrame m.entry < pteFrame l.entry + l.size / 65536 ∧ pteFrame l.entry < pteFrame m.entry + m.size / 65536)

/-- Whether a frame of a page is in use: a valid page of a running job has it, or a command's shadow. -/
def State.frameUsed (s : State) (l : Leaf) : Bool :=
  ((s.jobs.map (·.ptroot)).dedup.any fun r => (s.leavesOf r).any fun m => l.shares m.2) ||
    s.cmds.any fun c => vwSpace c.dst == 1 && c.frames.any fun p => l.shares (p.leaf.withFrame p.frame)

/-- The frames of evicted pages return to their pools once the invalidation has been acknowledged, each once: a frame that is free, or has
come to another page since, stays where it is. The entries stay as the host has written them (R231, R234, log 62, DESIGN CHOICE). -/
def State.takeEvicted (s : State) (v : Inval) : State := (s.evictedIn v).foldl (fun (a : State) l =>
  if a.frameFree l || a.frameUsed l || !l.inMemory then a else a.giveFrame l (pteFrame l.entry)) s

/-- A request acknowledged by both towers: the register of a `tlbinv` receives 0, or the INVAL entry is done (R292, R309). -/
def State.invalDone (s : State) (v : Inval) : State :=
  let s1 : State := { s with invals := s.invals.filter (·.id != v.id) }
  match v.queue, v.ctx with
  | some (q, n), _ => s1.answerBusy q n 1 0
  | none, some r => if (s1.ctx r).isFull (.s v.d) then s1 else s1.modCtx r fun x => x.expect (.s v.d 0)
  | none, none => s1

/-- INVALIDATION_ACK (R233): a tower's translation buffers keep nothing of the range any more, once no command of it is left that has
translated through it. -/
def execInvalidationAck (id : Nat) (tower : Bool) (s : State) : Out := match s.invals.find? (·.id == id) with
  | none => .next s
  | some v =>
    if !v.left.getLsbD (towerNat tower) || s.usesOld v tower then .next s
    else
      let v1 := { v with left := setBit v.left (towerNat tower) false }
      let s1 : State := { s with invals := s.invals.map fun w => if w.id == id then v1 else w }
      let s2 := s1.modTower tower fun w => { w with tlb := w.tlb.filter fun e => !(e.root == s.rootOf v.job && v.coversPage e) }
      .next (if v1.left = 0 then ((s2.takeEvicted v).retryEngineNodes v).invalDone v1 else s2)

/-! Clocks (R333, R335). -/

/-- A tower's clock goes to another speed: its bound contexts are pre-empted first, and dispatch waits (R314, R333). -/
def State.retrainTo (s : State) (t : Bool) (v : Speed) : State :=
  (s.bound.filter fun r => !isCtl r.core && towerOf r.core == t).foldl (fun (a : State) r => a.askPreempt r 0)
    (s.modTower t fun w => { w with retrain := some v })

/-- The next lower speed bin; none below the lowest, nor below the clock of a tower that has not been trained (R333, R335). -/
def State.lowerSpeed (s : State) (t : Bool) : Option Speed := match (s.tower t).speed with
  | .slow => none
  | .bin n => if s.lowestBin t ≤ n then none else some (.bin (n + 1))

/-- THERMAL_LIMIT (R335): the next lower bin; at the lowest one it is a device-level error. -/
def execThermalLimit (tower : Bool) (s : State) : Out := match s.lowerSpeed tower with
  | none => .next (s.deviceError 5 tower 0)
  | some v => .next ((s.retrainTo tower v).modTower tower fun w => { w with coolSince := some s.time })

/-- CLOCK_RESTORE (R335): after 10 s below the limit, which began no sooner than the limit was last passed; when the temperature fell is
open. -/
def execClockRestore (tower : Bool) (s : State) : Out := match (s.tower tower).coolSince with
  | none => .next s
  | some t =>
    if s.time < t + 10 ^ 10 ∨ (s.tower tower).retrain.isSome then .next s
    else .next ((s.retrainTo tower (s.tower tower).baseSpeed).modTower tower fun w => { w with coolSince := none })

/-- FULL_SERVICE (R333): steps 8 and 9 have ended in both towers that are not excluded; each goes to the speed that step 8 gave it. -/
def execFullService (passed : Bool) (s : State) : Out :=
  if s.service != .reduced || s.selfTest.isNone || [false, true].any fun t => !(s.tower t).excluded && !(s.tower t).trained then .next s
  else
    let go (a : State) (t : Bool) : State := if (a.tower t).excluded then a else a.retrainTo t (a.tower t).baseSpeed
    .next (go (go { s with toFull := some passed } false) true)

/-- Whether some compute context of a tower is bound. -/
def State.anyBound (s : State) (t : Bool) : Bool := s.bound.any fun r => !isCtl r.core && towerOf r.core == t

/-- A tower whose contexts are all pre-empted takes its new speed (R333, R335). -/
def State.retrained (s : State) (t : Bool) : State := match (s.tower t).retrain with
  | none => s
  | some b => if s.anyBound t then s else s.modTower t fun w => { w with speed := b, retrain := none }

/-- Full service begins once both towers have retrained; RCMB becomes 1 where step 9 passed (R43, R333). -/
def State.settleClocks (s : State) : State :=
  let s1 := (s.retrained false).retrained true
  match s1.toFull with
  | none => s1
  | some p =>
    if (s1.tower false).retrain.isSome || (s1.tower true).retrain.isSome then s1
    else { s1 with service := .full, rcmb := p && s1.selfTest == some true, toFull := none }

/-! The boot journal (R334). -/

/-- The 64 bytes of a boot journal record (R334). -/
def BootRec.bytes (r : BootRec) : List Byte := dwBytes [r.dw0, r.dw1, r.dw2, 0] ++ leBytes 32 r.prev.toNat

/-- STEP, OUT, ALT and BOOT of a record. -/
def BootRec.step (r : BootRec) : Nat := fld r.dw0 63 56
/-- OUT. -/
def BootRec.out (r : BootRec) : Nat := fld r.dw0 55 48
/-- ALT. -/
def BootRec.alt (r : BootRec) : Nat := fld r.dw0 47 40
/-- BOOT. -/
def BootRec.boot (r : BootRec) : Nat := fld r.dw0 31 0

/-- The time since power-good, in ns: the clock without what steering has moved it (R288, R334). -/
def State.uptime (s : State) : Nat := (((s.time19 : Int) - s.steered) / 19).toNat

/-- A step's record joins the journal: STEP, OUT, ALT, BOOT, a detail word, the time since power-good, and the digest of
the record before it (R334). -/
def State.journalBoot (s : State) (step out alt detail : Nat) : State :=
  let prev := match s.bootJournal.getLast? with
    | some r => BitVec.ofNat 256 (leNat (shake256 r.bytes 32))
    | none => 0
  let r : BootRec := ⟨at_ 64 56 step ||| at_ 64 48 out ||| at_ 64 40 alt ||| at_ 64 0 (s.bootNo % 2 ^ 32), BitVec.ofNat 64 detail,
    BitVec.ofNat 64 s.uptime, prev⟩
  { s with bootJournal := s.bootJournal ++ [r] }

/-- The signature that closes a boot whose last record this is (R334). -/
def BootRec.closing (r : BootRec) : BitVec 912 := Config.ed448Sign (shake256 r.bytes 64)

/-- The unit of a step that a detail word names: a tower, a column, a port; steps 1, 2, 3 and 9 have one (log 27, DESIGN CHOICE). -/
def stepUnit (step detail : Nat) : Nat := match step with
  | 4 => detail / 2 ^ 32 % 2
  | 5 => detail / 2 % 2
  | 6 => detail % 128
  | 7 => detail % 128
  | 8 => detail / 256 % 2
  | 10 => detail
  | _ => 0

/-- The first step that the boot before this one did not record, if its chain did not close: it counts as failed there (R334). -/
def State.unclosed (s : State) : Option Nat :=
  let rs := s.bootJournal.filter fun r => r.boot == (s.bootNo - 1) % 2 ^ 32
  let shut := match rs.getLast? with
    | some r => s.bootSigs.contains r.closing
    | none => false
  if s.bootNo ≤ 1 || shut then none else ((List.range 10).map (· + 1)).find? fun k => !rs.any (·.step == k)

/-- How a step is run on a unit (R333). -/
inductive Plan where
  | normal
  | alternative
  | skip
deriving DecidableEq, Repr

/-- The plan of a step: its latest record from an earlier boot decides, or the failure that an unclosed boot stands for: after a
failure the alternative, after the alternative's failure none. A skipped step stays skipped; steps 1 and 9 have no alternative and
are tried again (R333, R334, log 63, DEDUCED). -/
def State.plan (s : State) (step unit : Nat) : Plan :=
  let rs := s.bootJournal.filter fun r => r.step == step && stepUnit step r.dw1.toNat == unit && r.boot != s.bootNo % 2 ^ 32
  let alt : Bool := (rs.getLast?.map (·.alt)).getD 0 == 1
  let out : Nat := if s.unclosed = some step then 1 else (rs.getLast?.map (·.out)).getD 0
  if step == 1 || step == 9 then .normal
  else if out = 2 then .skip
  else if out = 1 then if alt then .skip else .alternative
  else .normal

/-! Bring-up (R331 to R333). -/

/-- Whether a step on a unit needs a record: step 1 the configuration and the device certificate, step 3 the erasure tables, step 6 the
steering of its column, step 8 the speed bins of its tower (R331, log 63, DEDUCED). -/
def Repair.neededBy (r : Repair) (step unit : Nat) : Bool :=
  step == 1 && (r.kind == 3 || r.kind == 4) || step == 3 && r.kind == 0 || step == 6 && r.kind == 1 && r.unit == unit ||
    step == 8 && r.kind == 2 && r.unit == 64 * unit

/-- Whether the records that a step on a unit needs are all good; step 5 needs firmware for its tower too (R331, R333, log 63,
DEDUCED). -/
def State.recordsGood (s : State) (step unit : Nat) : Bool :=
  (s.repairs.all fun r => !r.neededBy step unit || r.good) && (step != 5 || (s.firmware (unit == 1)).isSome)

/-- The free frames of device memory that a tower has at bring-up: the upper half of its 2^21, less a share for each
excluded channel of 24 (R333, log 15, DESIGN CHOICE). -/
def poolOf (t : Bool) (channels : Nat) : List (Nat × Nat) :=
  [(towerNat t * 2 ^ 21 + 2 ^ 20, 2 ^ 20 - channels * (2 ^ 21 / 24))]

/-- A tower's control cores are loaded with the firmware's sections and measured, what the host has written to them before staying where no
section places a byte; the primary starts, and its heartbeat timer with its first bundle (R297, R305, R307, R332, R333). -/
def State.startEasel (s : State) (t primary standby : Bool) : State :=
  let f := (s.firmware t).getD FwImage.empty
  let s1 := (s.modCore (ctlCore t false) fun k => k.loaded f).modCore (ctlCore t true) fun k => k.loaded f
  let s2 := s1.modTower t fun w => { w with
    primary := primary, standbyOk := standby, ctlmem := f.memory, ctlBad := false, started := true, reloadDue := false
    fwDigest := measureOf (s1.core (ctlCore t primary)).imem f.memory }
  (s2.startBeat t (s.cycle + 1)).setCtx ⟨ctlCore t primary, false⟩ (ctlStart f.start s.cycle)

/-- A tower's memory as step 3 leaves it: its free frames, unless a warm reset has kept them, and its erasure tables, of which one that is
full is a device-level error (R323, R326, R333). -/
def State.memoryUp (s : State) (t : Bool) : State :=
  let n := s.channelsOff.length
  let tables := (List.range 26).filterMap fun rank =>
    let ps := (s.repaired 0 (64 * towerNat t + rank)).dedup.take 6
    if ps.isEmpty then none else some (rank, ps)
  let s1 := s.modTower t fun w => { w with
    frames := if w.kept then w.frames else poolOf t n
    frameTotal := if w.kept then w.frameTotal else 2 ^ 20 - n * (2 ^ 21 / 24)
    erasures := tables }
  match tables.find? fun e => decide (6 ≤ e.2.length) with
  | some e => s1.deviceError 6 t e.1
  | none => s1

/-- A tower's Canvas with a block store of b blocks, the rest page frames; what a warm reset has kept stays (R236, R326, R333). -/
def Tower.canvasUp (w : Tower) (t ok : Bool) (b : Nat) : Tower :=
  let pages := if ok then 65536 - b else 0
  if w.kept && w.canvUp && ok then w
  else { w with
    canvUp := ok
    canvB := if ok then b else 0
    canvBlocks := { w.canvBlocks with unit := (if t then 2 ^ 40 else 0) + 1024 * pages }
    canvFree := if ok then (List.range b).filter fun i => !w.canvNames.any fun n => n.2.2 == i else []
    pageFrames := if pages = 0 then [] else [(towerNat t * 2 ^ 24, pages)]
    frameTotal := w.frameTotal - (if w.kept && w.canvUp then 65536 - w.canvB else 0) + pages }

/-- What a step of bring-up does with its outcome: 0 pass, 1 fail, 2 skipped, 3 alternative passed (R333, log 27, DESIGN CHOICE). -/
def State.bootStep (s : State) (step out detail : Nat) : State :=
  let ok := out == 0 || out == 3
  match step with
  | 1 => if ok then { s with
      idKey := Config.identityKey
      deviceNumber := match s.repairs.find? fun r => r.kind == 4 && r.factory && r.good with
        | some r => BitVec.ofNat 64 r.pos
        | none => s.deviceNumber } else s
  | 2 => if out = 3 then s.modTower (detail % 2 == 1) fun w => { w with excluded := true } else s
  | 3 =>
    let s1 : State := if out = 3 then { s with channelsOff := [detail % 24] } else s
    if ok then (s1.memoryUp false).memoryUp true else s
  | 4 => s.modTower (detail.testBit 32) fun w => w.canvasUp (detail.testBit 32) ok (detail % 2 ^ 32 % 65537)
  | 5 =>
    let t := detail / 2 % 2 == 1
    if (s.tower t).excluded then s
    else if ok then s.startEasel t (detail % 2 == 1) (out == 0) else s.modTower t fun w => { w with excluded := true }
  | 6 => if out = 0 then s.modTower (detail / 64 % 2 == 1) fun w => { w with
        columnsBad := w.columnsBad.filter (· != detail % 64)
        spares := (w.spares.filter (·.1 != detail % 64)) ++ [(detail % 64, s.repaired 1 (detail % 128))] } else s
  | 7 => s.modTower (detail / 64 % 2 == 1) fun w =>
      if out = 0 then (if w.columnsBad.contains (detail % 64) then w else { w with columnsOk := setAdd w.columnsOk (detail % 64) })
      else { w with columnsBad := setAdd w.columnsBad (detail % 64) }
  | 8 => s.modTower (detail / 256 % 2 == 1) fun w => { w with
      trained := true, baseSpeed := if out = 0 then .bin 0 else if out = 3 then .bin 1 else .slow }
  | 9 => { s with selfTest := some (out == 0) }
  | 10 => s.modLink detail fun l => { l with up := out == 0 }
  | _ => s

/-- Whether a step's outcome keeps the device in reset: of steps 1 to 3 one that has not passed (R333, log 63, DEDUCED). -/
def staysInReset (step out : Nat) : Bool := decide (step ≤ 3) && out != 0 && out != 3

/-- What is known of a step's run on a unit: the step, whether the run passed, its detail word. -/
abbrev BootRun := Nat × Bool × Nat

/-- The runs of a bring-up in order; one that keeps the device in reset ends it (R333). -/
def State.bootSteps (s : State) : List BootRun → Bool × State
  | [] => (true, s)
  | (step, passed, detail) :: rest =>
    let unit := stepUnit step detail
    let ok := passed && s.recordsGood step unit
    let (out, alt) := match s.plan step unit with
      | .normal => (if ok then 0 else 1, 0)
      | .alternative => (if ok then 3 else 1, 1)
      | .skip => (2, 1)
    let s1 := (s.journalBoot step out alt detail).bootStep step out detail
    if staysInReset step out then (false, s1) else s1.bootSteps rest

/-- The runs that a BRING_UP names from a step on, in the order of the steps, up to the first step that it does not come to; steps 6 and 7
of a whole tower, named by 2^16 and the tower, are those of its columns (R333, log 27, DESIGN CHOICE). -/
def bootRuns (first : Nat) (outs : List (Nat × Nat × Nat × Nat)) : List BootRun :=
  let reached := (((List.range 10).map (· + 1)).filter fun k => decide (first ≤ k)).takeWhile fun k => outs.any (·.1 == k)
  reached.flatMap fun k => (outs.filter (·.1 == k)).flatMap fun o =>
    let passed := o.2.1 == 0 || o.2.1 == 3
    if (k == 6 || k == 7) && decide (2 ^ 16 ≤ o.2.2.2) then (List.range 64).map fun c => (k, passed, 64 * (o.2.2.2 % 2) + c)
    else [(k, passed, o.2.2.2)]

/-- Whether reduced service can begin: a tower's Easel runs and 16 of its columns have passed step 7 (R333). -/
def State.canServe (s : State) : Bool := [false, true].any fun t =>
  let w := s.tower t
  !w.excluded && (s.ctx ⟨ctlCore t w.primary, false⟩).status == .running && decide (16 ≤ w.columnsOk.length)

/-- A tower as a boot begins: no column replayed or tested, its clock not trained (R333). -/
def Tower.booting (w : Tower) : Tower :=
  { w with columnsBad := List.range 64, spares := [], columnsOk := [], trained := false, excluded := false, speed := .slow, baseSpeed := .slow }

/-- A boot begins: the next number, nothing known of any tower (R333, R334). -/
def State.bootBegins (s : State) : State :=
  (({ s with bootNo := s.bootNo + 1, selfTest := none } : State).modTower false Tower.booting).modTower true Tower.booting

/-- The first step that this boot has not recorded. -/
def State.nextStep (s : State) : Nat := match (s.bootJournal.filter fun r => r.boot == s.bootNo % 2 ^ 32).getLast? with
  | some r => r.step + 1
  | none => 1

/-- BRING_UP (R333): the steps with how their runs came out, each journalled; after step 10 the last record is signed (R334). The
alternative and the outcome of a record follow from the journal. In reduced service it goes on with the steps that this boot has not come
to. -/
def execBringUp (outs : List (Nat × Nat × Nat × Nat)) (s : State) : Out :=
  if s.service == .full || s.toFull.isSome then .next s
  else
    let off := s.service == .off
    let runs := bootRuns (if off then 1 else s.nextStep) outs
    let (go, s1) := (if off then s.bootBegins else s).bootSteps runs
    if !go then .next s1
    else
      let settled (w : Tower) : Tower := { w with kept := false }
      let s2 := (s1.modTower false settled).modTower true settled
      let s3 := if s2.service == .off && s2.canServe then { s2 with service := .reduced } else s2
      .next (if runs.any (·.1 == 10) then match s3.bootJournal.getLast? with
        | some r => { s3 with bootSigs := s3.bootSigs ++ [r.closing] }
        | none => s3 else s3)

/-! Resets (R326, R334). -/

/-- A core after a warm reset: its contexts, Palette and engine are cleared; the scratchpad and each segment's last tenant
stay, and so does instruction memory (R326, log 28, DEDUCED). -/
def Core.warm (k : Core) : Core := { Core.blank with imem := k.imem, imemBad := k.imemBad, mem := k.mem, segTenant := k.segTenant }

/-- A tower after a warm reset: Easel's state, the translation buffers and the soft-repair registers are cleared; Canvas,
queue memory, the frames in use and the powered layers stay (R326, log 28, DEDUCED). -/
def Tower.warm (t : Bool) (w : Tower) : Tower :=
  { Tower.blank t with
    qmem := w.qmem, canvPages := w.canvPages, canvBlocks := w.canvBlocks, canvB := w.canvB, canvNames := w.canvNames
    canvFree := w.canvFree, frames := w.frames, pageFrames := w.pageFrames, frameTotal := w.frameTotal
    kept := w.kept || w.frameTotal != 0, canvUp := w.canvUp, layersOff := w.layersOff, started := w.started, fwDigest := w.fwDigest }

/-- WARM_RESET (R326): engine commands are discarded, their frames going back; the device then waits for bring-up. -/
def execWarmReset (s : State) : Out :=
  let s1 := s.cmds.foldl (fun (a : State) c => a.discardCmd c) s
  .next { State.reset with
    cycle := s.cycle, time19 := s.time19, fresh := s.fresh, nextId := s.nextId, cores := s1.cores.map Core.warm
    tower0 := s1.tower0.warm false, tower1 := s1.tower1.warm true, dev := s1.dev, hostmem := s.hostmem, deviceNumber := s.deviceNumber
    peers := s.peers, idKey := s.idKey, fwFile := s.fwFile, receiptNo := s.receiptNo
    bootNo := s.bootNo, bootJournal := s.bootJournal, bootSigs := s.bootSigs, repairs := s.repairs
    clockOffset := s.clockOffset, steered := s.steered, hostData := s.hostData }

/-- POWER_LOSS (R331, R334): every volatile state and the identity key are lost; what stands in flash, and the host's own
memory, stay. -/
def execPowerLoss (s : State) : Out :=
  .next { State.reset with
    hostmem := s.hostmem, deviceNumber := s.deviceNumber, fwFile := s.fwFile, bootNo := s.bootNo, bootJournal := s.bootJournal
    bootSigs := s.bootSigs, repairs := s.repairs, fresh := s.fresh, hostData := s.hostData }

end Sys2Proof.Machine
end

