-- ==== Sys2Proof/Machine/Dispatch.lean ====
section
/-! DEFINITION. One arm for each constructor of Instr: a direct call of its meaning. -/

namespace Sys2Proof.Machine

/-- What an instruction or event does. -/
def exec (i : Instr) (s : State) : Host.Outcome State Fault Refusal :=
  match i with
  | .nop => Sys2Proof.Machine.execNop s
  | .br j => Sys2Proof.Machine.execBr j s
  | .brl j => Sys2Proof.Machine.execBrl j s
  | .bri g => Sys2Proof.Machine.execBri g s
  | .bril g => Sys2Proof.Machine.execBril g s
  | .lp l => Sys2Proof.Machine.execLp l s
  | .lpi l => Sys2Proof.Machine.execLpi l s
  | .lpx g => Sys2Proof.Machine.execLpx g s
  | .yield g => Sys2Proof.Machine.execYield g s
  | .waitGe g => Sys2Proof.Machine.execWaitGe g s
  | .waitF g => Sys2Proof.Machine.execWaitF g s
  | .retire g => Sys2Proof.Machine.execRetire g s
  | .spawn g => Sys2Proof.Machine.execSpawn g s
  | .trap g => Sys2Proof.Machine.execTrap g s
  | .rti g => Sys2Proof.Machine.execRti g s
  | .mfs g => Sys2Proof.Machine.execMfs g s
  | .mts g => Sys2Proof.Machine.execMts g s
  | .fenceRel g => Sys2Proof.Machine.execFenceRel g s
  | .fenceAcq g => Sys2Proof.Machine.execFenceAcq g s
  | .fenceSc g => Sys2Proof.Machine.execFenceSc g s
  | .xfence g => Sys2Proof.Machine.execXfence g s
  | .gbar g => Sys2Proof.Machine.execGbar g s
  | .cbar g => Sys2Proof.Machine.execCbar g s
  | .sopen g => Sys2Proof.Machine.execSopen g s
  | .sclose g => Sys2Proof.Machine.execSclose g s
  | .cancel g => Sys2Proof.Machine.execCancel g s
  | .segacq g => Sys2Proof.Machine.execSegacq g s
  | .segrel g => Sys2Proof.Machine.execSegrel g s
  | .tickw g => Sys2Proof.Machine.execTickw g s
  | .brk g => Sys2Proof.Machine.execBrk g s
  | .add g => Sys2Proof.Machine.execAdd g s
  | .sub g => Sys2Proof.Machine.execSub g s
  | .addi g => Sys2Proof.Machine.execAddi g s
  | .mul g => Sys2Proof.Machine.execMul g s
  | .mulh g => Sys2Proof.Machine.execMulh g s
  | .mulhn g => Sys2Proof.Machine.execMulhn g s
  | .div g => Sys2Proof.Machine.execDiv g s
  | .divn g => Sys2Proof.Machine.execDivn g s
  | .rem g => Sys2Proof.Machine.execRem g s
  | .remn g => Sys2Proof.Machine.execRemn g s
  | .min g => Sys2Proof.Machine.execMin g s
  | .max g => Sys2Proof.Machine.execMax g s
  | .minn g => Sys2Proof.Machine.execMinn g s
  | .maxn g => Sys2Proof.Machine.execMaxn g s
  | .abs g => Sys2Proof.Machine.execAbs g s
  | .and g => Sys2Proof.Machine.execAnd g s
  | .or g => Sys2Proof.Machine.execOr g s
  | .xor g => Sys2Proof.Machine.execXor g s
  | .andn g => Sys2Proof.Machine.execAndn g s
  | .andi g => Sys2Proof.Machine.execAndi g s
  | .ori g => Sys2Proof.Machine.execOri g s
  | .xori g => Sys2Proof.Machine.execXori g s
  | .shl g => Sys2Proof.Machine.execShl g s
  | .shr g => Sys2Proof.Machine.execShr g s
  | .sra g => Sys2Proof.Machine.execSra g s
  | .rotl g => Sys2Proof.Machine.execRotl g s
  | .shli g => Sys2Proof.Machine.execShli g s
  | .shri g => Sys2Proof.Machine.execShri g s
  | .srai g => Sys2Proof.Machine.execSrai g s
  | .clz g => Sys2Proof.Machine.execClz g s
  | .ctz g => Sys2Proof.Machine.execCtz g s
  | .popc g => Sys2Proof.Machine.execPopc g s
  | .bext g => Sys2Proof.Machine.execBext g s
  | .bdep g => Sys2Proof.Machine.execBdep g s
  | .brev g => Sys2Proof.Machine.execBrev g s
  | .cmpEq g => Sys2Proof.Machine.execCmpEq g s
  | .cmpNe g => Sys2Proof.Machine.execCmpNe g s
  | .cmpLt g => Sys2Proof.Machine.execCmpLt g s
  | .cmpLe g => Sys2Proof.Machine.execCmpLe g s
  | .cmpLtn g => Sys2Proof.Machine.execCmpLtn g s
  | .cmpLen g => Sys2Proof.Machine.execCmpLen g s
  | .cmpiEq g => Sys2Proof.Machine.execCmpiEq g s
  | .cmpiLt g => Sys2Proof.Machine.execCmpiLt g s
  | .pand g => Sys2Proof.Machine.execPand g s
  | .por g => Sys2Proof.Machine.execPor g s
  | .pxor g => Sys2Proof.Machine.execPxor g s
  | .pnot g => Sys2Proof.Machine.execPnot g s
  | .mov g => Sys2Proof.Machine.execMov g s
  | .movi g => Sys2Proof.Machine.execMovi g s
  | .limm g imm => Sys2Proof.Machine.execLimm g imm s
  | .limmh g imm => Sys2Proof.Machine.execLimmh g imm s
  | .lea1 g => Sys2Proof.Machine.execLea1 g s
  | .lea2 g => Sys2Proof.Machine.execLea2 g s
  | .lea4 g => Sys2Proof.Machine.execLea4 g s
  | .lea8 g => Sys2Proof.Machine.execLea8 g s
  | .chkEq g => Sys2Proof.Machine.execChkEq g s
  | .chkP g => Sys2Proof.Machine.execChkP g s
  | .rng g => Sys2Proof.Machine.execRng g s
  | .faddF32 g => Sys2Proof.Machine.execFaddF32 g s
  | .fsubF32 g => Sys2Proof.Machine.execFsubF32 g s
  | .fmulF32 g => Sys2Proof.Machine.execFmulF32 g s
  | .fmaF32 g => Sys2Proof.Machine.execFmaF32 g s
  | .fcmpLt g => Sys2Proof.Machine.execFcmpLt g s
  | .fcmpEq g => Sys2Proof.Machine.execFcmpEq g s
  | .cvtF32I64 g => Sys2Proof.Machine.execCvtF32I64 g s
  | .cvtI64F32 g => Sys2Proof.Machine.execCvtI64F32 g s
  | .cvtI64F32Rz g => Sys2Proof.Machine.execCvtI64F32Rz g s
  | .vadd g => Sys2Proof.Machine.execVadd g s
  | .vsub g => Sys2Proof.Machine.execVsub g s
  | .vmul g => Sys2Proof.Machine.execVmul g s
  | .vmulh g => Sys2Proof.Machine.execVmulh g s
  | .vmin g => Sys2Proof.Machine.execVmin g s
  | .vmax g => Sys2Proof.Machine.execVmax g s
  | .vminN32 g => Sys2Proof.Machine.execVminN32 g s
  | .vmaxN32 g => Sys2Proof.Machine.execVmaxN32 g s
  | .vabs g => Sys2Proof.Machine.execVabs g s
  | .vcmpEq g => Sys2Proof.Machine.execVcmpEq g s
  | .vcmpLt g => Sys2Proof.Machine.execVcmpLt g s
  | .vcmpLtN32 g => Sys2Proof.Machine.execVcmpLtN32 g s
  | .vaddH g => Sys2Proof.Machine.execVaddH g s
  | .vsubH g => Sys2Proof.Machine.execVsubH g s
  | .vmulH g => Sys2Proof.Machine.execVmulH g s
  | .vmulhH g => Sys2Proof.Machine.execVmulhH g s
  | .vminH g => Sys2Proof.Machine.execVminH g s
  | .vmaxH g => Sys2Proof.Machine.execVmaxH g s
  | .vminN16 g => Sys2Proof.Machine.execVminN16 g s
  | .vmaxN16 g => Sys2Proof.Machine.execVmaxN16 g s
  | .vabsH g => Sys2Proof.Machine.execVabsH g s
  | .vcmpEqH g => Sys2Proof.Machine.execVcmpEqH g s
  | .vcmpLtH g => Sys2Proof.Machine.execVcmpLtH g s
  | .vcmpLtN16 g => Sys2Proof.Machine.execVcmpLtN16 g s
  | .vaddB g => Sys2Proof.Machine.execVaddB g s
  | .vsubB g => Sys2Proof.Machine.execVsubB g s
  | .vmulB g => Sys2Proof.Machine.execVmulB g s
  | .vmulhB g => Sys2Proof.Machine.execVmulhB g s
  | .vminB g => Sys2Proof.Machine.execVminB g s
  | .vmaxB g => Sys2Proof.Machine.execVmaxB g s
  | .vminN8 g => Sys2Proof.Machine.execVminN8 g s
  | .vmaxN8 g => Sys2Proof.Machine.execVmaxN8 g s
  | .vabsB g => Sys2Proof.Machine.execVabsB g s
  | .vcmpEqB g => Sys2Proof.Machine.execVcmpEqB g s
  | .vcmpLtB g => Sys2Proof.Machine.execVcmpLtB g s
  | .vcmpLtN8 g => Sys2Proof.Machine.execVcmpLtN8 g s
  | .vand g => Sys2Proof.Machine.execVand g s
  | .vor g => Sys2Proof.Machine.execVor g s
  | .vxor g => Sys2Proof.Machine.execVxor g s
  | .vnot g => Sys2Proof.Machine.execVnot g s
  | .vshl g => Sys2Proof.Machine.execVshl g s
  | .vshr g => Sys2Proof.Machine.execVshr g s
  | .vsra g => Sys2Proof.Machine.execVsra g s
  | .vshli g => Sys2Proof.Machine.execVshli g s
  | .vshri g => Sys2Proof.Machine.execVshri g s
  | .vsrai g => Sys2Proof.Machine.execVsrai g s
  | .vfadd g => Sys2Proof.Machine.execVfadd g s
  | .vfsub g => Sys2Proof.Machine.execVfsub g s
  | .vfmul g => Sys2Proof.Machine.execVfmul g s
  | .vfma g => Sys2Proof.Machine.execVfma g s
  | .vfms g => Sys2Proof.Machine.execVfms g s
  | .vfmin g => Sys2Proof.Machine.execVfmin g s
  | .vfmax g => Sys2Proof.Machine.execVfmax g s
  | .vfabs g => Sys2Proof.Machine.execVfabs g s
  | .vfneg g => Sys2Proof.Machine.execVfneg g s
  | .vfcmpEq g => Sys2Proof.Machine.execVfcmpEq g s
  | .vfcmpLt g => Sys2Proof.Machine.execVfcmpLt g s
  | .vfcmpLe g => Sys2Proof.Machine.execVfcmpLe g s
  | .vrcp g => Sys2Proof.Machine.execVrcp g s
  | .vrsqrt g => Sys2Proof.Machine.execVrsqrt g s
  | .vexp2 g => Sys2Proof.Machine.execVexp2 g s
  | .vlog2 g => Sys2Proof.Machine.execVlog2 g s
  | .vfaddF16 g => Sys2Proof.Machine.execVfaddF16 g s
  | .vfsubF16 g => Sys2Proof.Machine.execVfsubF16 g s
  | .vfmulF16 g => Sys2Proof.Machine.execVfmulF16 g s
  | .vfmaF16 g => Sys2Proof.Machine.execVfmaF16 g s
  | .vfmsF16 g => Sys2Proof.Machine.execVfmsF16 g s
  | .vfminF16 g => Sys2Proof.Machine.execVfminF16 g s
  | .vfmaxF16 g => Sys2Proof.Machine.execVfmaxF16 g s
  | .vfabsF16 g => Sys2Proof.Machine.execVfabsF16 g s
  | .vfnegF16 g => Sys2Proof.Machine.execVfnegF16 g s
  | .vfcmpEqF16 g => Sys2Proof.Machine.execVfcmpEqF16 g s
  | .vfcmpLtF16 g => Sys2Proof.Machine.execVfcmpLtF16 g s
  | .vfcmpLeF16 g => Sys2Proof.Machine.execVfcmpLeF16 g s
  | .vfaddBf16 g => Sys2Proof.Machine.execVfaddBf16 g s
  | .vfsubBf16 g => Sys2Proof.Machine.execVfsubBf16 g s
  | .vfmulBf16 g => Sys2Proof.Machine.execVfmulBf16 g s
  | .vfmaBf16 g => Sys2Proof.Machine.execVfmaBf16 g s
  | .vfmsBf16 g => Sys2Proof.Machine.execVfmsBf16 g s
  | .vfminBf16 g => Sys2Proof.Machine.execVfminBf16 g s
  | .vfmaxBf16 g => Sys2Proof.Machine.execVfmaxBf16 g s
  | .vfabsBf16 g => Sys2Proof.Machine.execVfabsBf16 g s
  | .vfnegBf16 g => Sys2Proof.Machine.execVfnegBf16 g s
  | .vfcmpEqBf16 g => Sys2Proof.Machine.execVfcmpEqBf16 g s
  | .vfcmpLtBf16 g => Sys2Proof.Machine.execVfcmpLtBf16 g s
  | .vfcmpLeBf16 g => Sys2Proof.Machine.execVfcmpLeBf16 g s
  | .vcvtF16F32 g => Sys2Proof.Machine.execVcvtF16F32 g s
  | .vcvtBf16F32 g => Sys2Proof.Machine.execVcvtBf16F32 g s
  | .vcvtF32F16 g => Sys2Proof.Machine.execVcvtF32F16 g s
  | .vcvtF32Bf16 g => Sys2Proof.Machine.execVcvtF32Bf16 g s
  | .vcvtI32F32 g => Sys2Proof.Machine.execVcvtI32F32 g s
  | .vcvtI32F32Rz g => Sys2Proof.Machine.execVcvtI32F32Rz g s
  | .vcvtF32I32 g => Sys2Proof.Machine.execVcvtF32I32 g s
  | .vsrBf16F32 g => Sys2Proof.Machine.execVsrBf16F32 g s
  | .vsrF16F32 g => Sys2Proof.Machine.execVsrF16F32 g s
  | .vqmxE4m3 g => Sys2Proof.Machine.execVqmxE4m3 g s
  | .vqmxE5m2 g => Sys2Proof.Machine.execVqmxE5m2 g s
  | .vqmxE3m2 g => Sys2Proof.Machine.execVqmxE3m2 g s
  | .vqmxE2m3 g => Sys2Proof.Machine.execVqmxE2m3 g s
  | .vqmxE2m1 g => Sys2Proof.Machine.execVqmxE2m1 g s
  | .vqmxMxi8 g => Sys2Proof.Machine.execVqmxMxi8 g s
  | .vqmxSrE4m3 g => Sys2Proof.Machine.execVqmxSrE4m3 g s
  | .vqmxSrE5m2 g => Sys2Proof.Machine.execVqmxSrE5m2 g s
  | .vqmxSrE3m2 g => Sys2Proof.Machine.execVqmxSrE3m2 g s
  | .vqmxSrE2m3 g => Sys2Proof.Machine.execVqmxSrE2m3 g s
  | .vqmxSrE2m1 g => Sys2Proof.Machine.execVqmxSrE2m1 g s
  | .vqmxSrMxi8 g => Sys2Proof.Machine.execVqmxSrMxi8 g s
  | .vdqmxE4m3 g => Sys2Proof.Machine.execVdqmxE4m3 g s
  | .vdqmxE5m2 g => Sys2Proof.Machine.execVdqmxE5m2 g s
  | .vdqmxE3m2 g => Sys2Proof.Machine.execVdqmxE3m2 g s
  | .vdqmxE2m3 g => Sys2Proof.Machine.execVdqmxE2m3 g s
  | .vdqmxE2m1 g => Sys2Proof.Machine.execVdqmxE2m1 g s
  | .vdqmxMxi8 g => Sys2Proof.Machine.execVdqmxMxi8 g s
  | .vbcastW g => Sys2Proof.Machine.execVbcastW g s
  | .vbcastH g => Sys2Proof.Machine.execVbcastH g s
  | .vbcastB g => Sys2Proof.Machine.execVbcastB g s
  | .vmov g => Sys2Proof.Machine.execVmov g s
  | .vsel g => Sys2Proof.Machine.execVsel g s
  | .vpermW g => Sys2Proof.Machine.execVpermW g s
  | .vpermH g => Sys2Proof.Machine.execVpermH g s
  | .vrot g => Sys2Proof.Machine.execVrot g s
  | .vextW g => Sys2Proof.Machine.execVextW g s
  | .vinsW g => Sys2Proof.Machine.execVinsW g s
  | .viotaW g => Sys2Proof.Machine.execViotaW g s
  | .vlane g => Sys2Proof.Machine.execVlane g s
  | .vunlane g => Sys2Proof.Machine.execVunlane g s
  | .vredAddF32 g => Sys2Proof.Machine.execVredAddF32 g s
  | .vredMaxF32 g => Sys2Proof.Machine.execVredMaxF32 g s
  | .vredMinF32 g => Sys2Proof.Machine.execVredMinF32 g s
  | .vredAddI32 g => Sys2Proof.Machine.execVredAddI32 g s
  | .vscanAddF32 g => Sys2Proof.Machine.execVscanAddF32 g s
  | .vscanMaxI32 g => Sys2Proof.Machine.execVscanMaxI32 g s
  | .vscanAddI32 g => Sys2Proof.Machine.execVscanAddI32 g s
  | .kand g => Sys2Proof.Machine.execKand g s
  | .kor g => Sys2Proof.Machine.execKor g s
  | .kxor g => Sys2Proof.Machine.execKxor g s
  | .knot g => Sys2Proof.Machine.execKnot g s
  | .kpop g => Sys2Proof.Machine.execKpop g s
  | .kset g => Sys2Proof.Machine.execKset g s
  | .kget g => Sys2Proof.Machine.execKget g s
  | .vrng g => Sys2Proof.Machine.execVrng g s
  | .vchk g => Sys2Proof.Machine.execVchk g s
  | .ldB g => Sys2Proof.Machine.execLdB g s
  | .ldH g => Sys2Proof.Machine.execLdH g s
  | .ldW g => Sys2Proof.Machine.execLdW g s
  | .ldD g => Sys2Proof.Machine.execLdD g s
  | .ldBz g => Sys2Proof.Machine.execLdBz g s
  | .ldHz g => Sys2Proof.Machine.execLdHz g s
  | .ldWz g => Sys2Proof.Machine.execLdWz g s
  | .stB g => Sys2Proof.Machine.execStB g s
  | .stH g => Sys2Proof.Machine.execStH g s
  | .stW g => Sys2Proof.Machine.execStW g s
  | .stD g => Sys2Proof.Machine.execStD g s
  | .vld g => Sys2Proof.Machine.execVld g s
  | .vldO g => Sys2Proof.Machine.execVldO g s
  | .vldQ g => Sys2Proof.Machine.execVldQ g s
  | .vst g => Sys2Proof.Machine.execVst g s
  | .vstO g => Sys2Proof.Machine.execVstO g s
  | .vstQ g => Sys2Proof.Machine.execVstQ g s
  | .vldsW g => Sys2Proof.Machine.execVldsW g s
  | .vldsH g => Sys2Proof.Machine.execVldsH g s
  | .vldxW g => Sys2Proof.Machine.execVldxW g s
  | .vstxW g => Sys2Proof.Machine.execVstxW g s
  | .smvH g => Sys2Proof.Machine.execSmvH g s
  | .smvW g => Sys2Proof.Machine.execSmvW g s
  | .smvD g => Sys2Proof.Machine.execSmvD g s
  | .sdup g => Sys2Proof.Machine.execSdup g s
  | .vac g => Sys2Proof.Machine.execVac g s
  | .vtst g => Sys2Proof.Machine.execVtst g s
  | .vtake g => Sys2Proof.Machine.execVtake g s
  | .amoAddW g => Sys2Proof.Machine.execAmoAddW g s
  | .amoAddD g => Sys2Proof.Machine.execAmoAddD g s
  | .amoMaxD g => Sys2Proof.Machine.execAmoMaxD g s
  | .amoXchgD g => Sys2Proof.Machine.execAmoXchgD g s
  | .amoCasD g => Sys2Proof.Machine.execAmoCasD g s
  | .ptst g => Sys2Proof.Machine.execPtst g s
  | .rldW g => Sys2Proof.Machine.execRldW g s
  | .rldD g => Sys2Proof.Machine.execRldD g s
  | .rldQ g => Sys2Proof.Machine.execRldQ g s
  | .rldO g => Sys2Proof.Machine.execRldO g s
  | .rstW g => Sys2Proof.Machine.execRstW g s
  | .rstD g => Sys2Proof.Machine.execRstD g s
  | .rstQ g => Sys2Proof.Machine.execRstQ g s
  | .rstO g => Sys2Proof.Machine.execRstO g s
  | .rvld g => Sys2Proof.Machine.execRvld g s
  | .rvst g => Sys2Proof.Machine.execRvst g s
  | .rmvH g => Sys2Proof.Machine.execRmvH g s
  | .rtst g => Sys2Proof.Machine.execRtst g s
  | .ramoAddRlx g => Sys2Proof.Machine.execRamoAddRlx g s
  | .ramoAddAcq g => Sys2Proof.Machine.execRamoAddAcq g s
  | .ramoAddRel g => Sys2Proof.Machine.execRamoAddRel g s
  | .ramoAddAr g => Sys2Proof.Machine.execRamoAddAr g s
  | .ramoMaxRlx g => Sys2Proof.Machine.execRamoMaxRlx g s
  | .ramoMaxAcq g => Sys2Proof.Machine.execRamoMaxAcq g s
  | .ramoMaxRel g => Sys2Proof.Machine.execRamoMaxRel g s
  | .ramoMaxAr g => Sys2Proof.Machine.execRamoMaxAr g s
  | .ramoXchgRlx g => Sys2Proof.Machine.execRamoXchgRlx g s
  | .ramoXchgAcq g => Sys2Proof.Machine.execRamoXchgAcq g s
  | .ramoXchgRel g => Sys2Proof.Machine.execRamoXchgRel g s
  | .ramoXchgAr g => Sys2Proof.Machine.execRamoXchgAr g s
  | .ramoCasRlx g => Sys2Proof.Machine.execRamoCasRlx g s
  | .ramoCasAcq g => Sys2Proof.Machine.execRamoCasAcq g s
  | .ramoCasRel g => Sys2Proof.Machine.execRamoCasRel g s
  | .ramoCasAr g => Sys2Proof.Machine.execRamoCasAr g s
  | .pset g => Sys2Proof.Machine.execPset g s
  | .pget g => Sys2Proof.Machine.execPget g s
  | .pinv g => Sys2Proof.Machine.execPinv g s
  | .mmq g => Sys2Proof.Machine.execMmq g s
  | .mmqZ g => Sys2Proof.Machine.execMmqZ g s
  | .mmqRc g => Sys2Proof.Machine.execMmqRc g s
  | .mmqZRc g => Sys2Proof.Machine.execMmqZRc g s
  | .mmqTa g => Sys2Proof.Machine.execMmqTa g s
  | .mmqZTa g => Sys2Proof.Machine.execMmqZTa g s
  | .mmqRcTa g => Sys2Proof.Machine.execMmqRcTa g s
  | .mmqZRcTa g => Sys2Proof.Machine.execMmqZRcTa g s
  | .mmqTb g => Sys2Proof.Machine.execMmqTb g s
  | .mmqZTb g => Sys2Proof.Machine.execMmqZTb g s
  | .mmqRcTb g => Sys2Proof.Machine.execMmqRcTb g s
  | .mmqZRcTb g => Sys2Proof.Machine.execMmqZRcTb g s
  | .mmqTaTb g => Sys2Proof.Machine.execMmqTaTb g s
  | .mmqZTaTb g => Sys2Proof.Machine.execMmqZTaTb g s
  | .mmqRcTaTb g => Sys2Proof.Machine.execMmqRcTaTb g s
  | .mmqZRcTaTb g => Sys2Proof.Machine.execMmqZRcTaTb g s
  | .mdrain g => Sys2Proof.Machine.execMdrain g s
  | .mzero g => Sys2Proof.Machine.execMzero g s
  | .mstat g => Sys2Proof.Machine.execMstat g s
  | .cpy g => Sys2Proof.Machine.execCpy g s
  | .engineMove g => Sys2Proof.Machine.execEngineMove g s
  | .movNp g => Sys2Proof.Machine.execMovNp g s
  | .cpyNp g => Sys2Proof.Machine.execCpyNp g s
  | .pub g => Sys2Proof.Machine.execPub g s
  | .dsc g => Sys2Proof.Machine.execDsc g s
  | .fill g => Sys2Proof.Machine.execFill g s
  | .ctradd g => Sys2Proof.Machine.execCtradd g s
  | .fretry g => Sys2Proof.Machine.execFretry g s
  | .fskip g => Sys2Proof.Machine.execFskip g s
  | .kvshare g => Sys2Proof.Machine.execKvshare g s
  | .kvdrop g => Sys2Proof.Machine.execKvdrop g s
  | .kvstat g => Sys2Proof.Machine.execKvstat g s
  | .coll g => Sys2Proof.Machine.execColl g s
  | .qpush g => Sys2Proof.Machine.execQpush g s
  | .kscan g => Sys2Proof.Machine.execKscan g s
  | .qread g => Sys2Proof.Machine.execQread g s
  | .jappend g => Sys2Proof.Machine.execJappend g s
  | .jcommit g => Sys2Proof.Machine.execJcommit g s
  | .jread g => Sys2Proof.Machine.execJread g s
  | .npush g => Sys2Proof.Machine.execNpush g s
  | .cpost g => Sys2Proof.Machine.execCpost g s
  | .chold g => Sys2Proof.Machine.execChold g s
  | .crel g => Sys2Proof.Machine.execCrel g s
  | .hbeat g => Sys2Proof.Machine.execHbeat g s
  | .tko g => Sys2Proof.Machine.execTko g s
  | .tlbinv g => Sys2Proof.Machine.execTlbinv g s
  | .extensionOpcode op g => Sys2Proof.Machine.execExtensionOpcode op g s
  | .issuePastEnd => Sys2Proof.Machine.execIssuePastEnd s
  | .resultLanding c n => Sys2Proof.Machine.execResultLanding c n s
  | .snapshotLanding c n => Sys2Proof.Machine.execSnapshotLanding c n s
  | .asyncTrapDelivery c => Sys2Proof.Machine.execAsyncTrapDelivery c s
  | .streamElementStep c => Sys2Proof.Machine.execStreamElementStep c s
  | .lockEvent c dst => Sys2Proof.Machine.execLockEvent c dst s
  | .piecePerformed n => Sys2Proof.Machine.execPiecePerformed n s
  | .commandStart id => Sys2Proof.Machine.execCommandStart id s
  | .transferCompletion id => Sys2Proof.Machine.execTransferCompletion id s
  | .publish id => Sys2Proof.Machine.execPublish id s
  | .discard id => Sys2Proof.Machine.execDiscard id s
  | .engineCounterAdd n => Sys2Proof.Machine.execEngineCounterAdd n s
  | .matrixCommandStart c => Sys2Proof.Machine.execMatrixCommandStart c s
  | .matrixStep c => Sys2Proof.Machine.execMatrixStep c s
  | .operandsConsumed c => Sys2Proof.Machine.execOperandsConsumed c s
  | .drainStart c => Sys2Proof.Machine.execDrainStart c s
  | .drainPublish c => Sys2Proof.Machine.execDrainPublish c s
  | .canvasNameUpdate id => Sys2Proof.Machine.execCanvasNameUpdate id s
  | .collectiveStart id => Sys2Proof.Machine.execCollectiveStart id s
  | .collectivePublish id => Sys2Proof.Machine.execCollectivePublish id s
  | .rctrRetest id => Sys2Proof.Machine.execRctrRetest id s
  | .waitRetest c => Sys2Proof.Machine.execWaitRetest c s
  | .qpushPost id => Sys2Proof.Machine.execQpushPost id s
  | .completionWrite tower n => Sys2Proof.Machine.execCompletionWrite tower n s
  | .cancelArrival id core => Sys2Proof.Machine.execCancelArrival id core s
  | .subtreeQuiet id => Sys2Proof.Machine.execSubtreeQuiet id s
  | .dispatch tower nodes => Sys2Proof.Machine.execDispatch tower nodes s
  | .frameTick job => Sys2Proof.Machine.execFrameTick job s
  | .preemption c => Sys2Proof.Machine.execPreemption c s
  | .sliceBoundary tower slice => Sys2Proof.Machine.execSliceBoundary tower slice s
  | .segmentSave c seg => Sys2Proof.Machine.execSegmentSave c seg s
  | .segmentPowerDown c seg => Sys2Proof.Machine.execSegmentPowerDown c seg s
  | .takeOver tower => Sys2Proof.Machine.execTakeOver tower s
  | .standbyReload tower agree => Sys2Proof.Machine.execStandbyReload tower agree s
  | .invalidationAck id tower => Sys2Proof.Machine.execInvalidationAck id tower s
  | .scrub space tower line => Sys2Proof.Machine.execScrub space tower line s
  | .deviceFault cause tower column => Sys2Proof.Machine.execDeviceFault cause tower column s
  | .thermalLimit tower => Sys2Proof.Machine.execThermalLimit tower s
  | .clockRestore tower => Sys2Proof.Machine.execClockRestore tower s
  | .bringUp outs => Sys2Proof.Machine.execBringUp outs s
  | .warmReset => Sys2Proof.Machine.execWarmReset s
  | .dataFlit port dw0 dw1 payload tagOk => Sys2Proof.Machine.execDataFlit port dw0 dw1 payload tagOk s
  | .ackFlit port seq => Sys2Proof.Machine.execAckFlit port seq s
  | .retryRequest port seq => Sys2Proof.Machine.execRetryRequest port seq s
  | .abortFlit port id => Sys2Proof.Machine.execAbortFlit port id s
  | .timeFlit port arrives => Sys2Proof.Machine.execTimeFlit port arrives s
  | .helloFlit port id stream device ringid agrees => Sys2Proof.Machine.execHelloFlit port id stream device ringid agrees s
  | .linkLoss port => Sys2Proof.Machine.execLinkLoss port s
  | .linkRekey port peer secret signed => Sys2Proof.Machine.execLinkRekey port peer secret signed s
  | .queueCreate q cfg => Sys2Proof.Machine.execQueueCreate q cfg s
  | .queueDisable q => Sys2Proof.Machine.execQueueDisable q s
  | .sqtail q tail => Sys2Proof.Machine.execSqtail q tail s
  | .cqhead q head => Sys2Proof.Machine.execCqhead q head s
  | .registerWrite tower off x => Sys2Proof.Machine.execRegisterWrite tower off x s
  | .hostCxlMemWrite job addr bytes => Sys2Proof.Machine.execHostCxlMemWrite job addr bytes s
  | .hostCxlMemRead job addr len => Sys2Proof.Machine.execHostCxlMemRead job addr len s
  | .launch q e => Sys2Proof.Machine.execLaunch q e s
  | .node q e => Sys2Proof.Machine.execNode q e s
  | .group q e => Sys2Proof.Machine.execGroup q e s
  | .inval q e => Sys2Proof.Machine.execInval q e s
  | .pin q e => Sys2Proof.Machine.execPin q e s
  | .hostCancel q e => Sys2Proof.Machine.execHostCancel q e s
  | .release q e => Sys2Proof.Machine.execRelease q e s
  | .scopering q e => Sys2Proof.Machine.execScopering q e s
  | .preempt q e => Sys2Proof.Machine.execPreempt q e s
  | .layerpwr q e => Sys2Proof.Machine.execLayerpwr q e s
  | .sliplog q e => Sys2Proof.Machine.execSliplog q e s
  | .arbw q e => Sys2Proof.Machine.execArbw q e s
  | .clock q e => Sys2Proof.Machine.execClock q e s
  | .seal q e => Sys2Proof.Machine.execSeal q e s
  | .inject q e => Sys2Proof.Machine.execInject q e s
  | .illop w => Sys2Proof.Machine.execIllop w s
  | .imemue c => Sys2Proof.Machine.execImemue c s
  | .softError space unit addr bit => Sys2Proof.Machine.execSoftError space unit addr bit s
  | .commandHeld id => Sys2Proof.Machine.execCommandHeld id s
  | .layerPowerOn q seq tower layer => Sys2Proof.Machine.execLayerPowerOn q seq tower layer s
  | .fullService passed => Sys2Proof.Machine.execFullService passed s
  | .powerLoss => Sys2Proof.Machine.execPowerLoss s
  | .precisionTimeMeasurement time => Sys2Proof.Machine.execPrecisionTimeMeasurement time s
  | .badOpcode q e => Sys2Proof.Machine.execBadOpcode q e s

end Sys2Proof.Machine
end

