-- ==== Sys2Proof/Machine/Settle.lean ====
section
/-!
DEFINITION. What follows of itself once an event has been performed: delayed spawns and launches (R245, R303, R347), sealed scopes (R267),
engine nodes whose command has ended (R251, R274), refusals entering the asynchronous queue (R129), held host writes (R235),
new clocks (R333), jobs that have finished and their receipts (R276, R332).
-/

namespace Sys2Proof.Machine

/-! Delayed answers. -/

/-- A delayed spawn or `npush` is handled again; an `npush` behind one of its core that still waits goes on waiting (R245, R246,
R303). -/
def State.respawn (s : State) (w : SpawnWait) : State := match w.push with
  | none => s.spawn w.ctx w.d w.pb w.nrec
  | some (q, n) =>
    if s.spawnWait.any fun v => v.ctx == w.ctx && v.push.isSome then { s with spawnWait := s.spawnWait ++ [w] }
    else s.pushEntry w.ctx w.d w.nrec q n

/-- Every delayed spawn is handled again, in order. -/
def State.respawns (s : State) : State := s.spawnWait.foldl State.respawn { s with spawnWait := [] }

/-- The contexts of the cores that have run. -/
def State.runners (s : State) : List CtxRef := (s.running.map fun c => [CtxRef.mk c false, CtxRef.mk c true]).flatten

/-- A context's buffered refusals enter its queue while it has room (R129); one parked on the frame re-tests (R264). -/
def State.refresh (s : State) (r : CtxRef) : State :=
  let x := s.ctx r
  let s1 := if x.refusals.isEmpty || decide (8 ≤ x.asyncQ.length) then s else s.modCtx r fun x => x.enqueue 8
  match x.status with
  | .parked (.tick _) => s1.retest r
  | _ => s1

/-! Engine nodes (R251, R274). -/

/-- The nodes of a job in scopes that a cancel has reached. -/
def State.dyingNodes (s : State) (job : Nat) : List Nat :=
  (s.nodes.filter fun n => n.job == job && match s.scope (s.homeOf job) (recScope n.nrec) with
    | some c => c.state == .dying || c.state == .dead
    | none => false).map (·.id)

/-- An engine node completes when its command has ended, cancelled where a cancel has dropped or killed the command: one that published
before the cancel reached its engine resolves its list normally (R251, R270, R274). -/
def State.engineDone (s : State) (n : Node) : State := match n.state with
  | .engine id cut =>
    if s.cmds.any (·.id == id) || s.colls.any (·.id == id) then s
    else s.completeNode n.id cut (if cut then s.dyingNodes n.job else [])
  | _ => s

/-! Queues. -/

/-- Whether the answer that a queue's entry waits for can still come: from an invalidation, a pre-emption, a layer that
powers on, a held injection, or a LAUNCH that waits for room (R233, R314, R327, R347, R350). -/
def State.answerComes (s : State) (q : Nat) (n : BitVec 32) : Bool :=
  s.invals.any (fun v => v.queue == some (q, n)) ||
    s.launches.any (fun l => l.queue == q && l.seq == n) || s.runners.any (fun r => (s.ctx r).ptag == 1 + q * 2 ^ 32 + n.toNat) ||
    [s.tower0, s.tower1].any (fun w => w.powering.any fun e => e.1 == q && e.2.1 == n) ||
    s.heldWrites.any fun w => match w.inject with
      | some (p, e) => p == q && subSeq e == n
      | none => false

/-- The global number of a tower's queue (R289). -/
def queueNo (t : Bool) (u : Queue) : Nat := 2048 * towerNat t + u.index

/-- Entries whose answer can no longer come fail with STATUS 4. -/
def State.failStale (s : State) (t : Bool) : State :=
  (s.tower t).queues.foldl (fun (a : State) u => match u.busy with
    | some n => if a.answerComes (queueNo t u) n then a
      else a.answerBusy (queueNo t u) n 2 4
    | none => a) s

/-! Jobs that finish (R276, R332). -/

/-- Whether nothing of a job is left, the adds of its commands, its reports and a LAUNCH of it among it (R275, R276, R347). -/
def State.jobQuiet (s : State) (job : Nat) : Bool :=
  !(s.nodes.any (·.job == job)) && !(s.cmds.any (·.job == job)) && !(s.colls.any (·.job == job)) &&
    !(s.msgs.any (·.job == job)) && !(s.pieces.any (·.job == job)) && !(s.cancels.any (·.job == job)) &&
    !(s.adds.any fun a => a.job == job && a.node != 0) && !s.reportWaits (fun j _ => j == job) &&
    !(s.launches.any (·.job == job)) && !(s.spawnWait.any (·.job == job)) && !(s.cores.toList.any fun c => c.mx.drains.any (·.job == job))

/-- Whether a job has finished: its root dead, or sealed with nothing of the job left (R276). -/
def State.jobOver (s : State) (j : Job) : Bool := match s.scope j.home j.root with
  | some c => (c.state == .dead || c.state == .sealed) && s.jobQuiet j.num
  | none => true

/-- The counters of a receipt in its order (R332). -/
def JobCounts.words (c : JobCounts) : List W64 :=
  [c.done, c.cancelled, c.losses, c.lost, c.doubles, c.slips, c.cancels, c.mxchk].map (BitVec.ofNat 64)

/-- The part of a receipt that is signed, bytes 0x000 to 0x127 (R332). -/
def State.receiptBody (s : State) (j : Job) (no : Nat) : List Byte :=
  dwBytes [at_ 64 56 4 ||| at_ 64 48 1 ||| at_ 64 12 j.tenant.toNat ||| at_ 64 0 j.root, at_ 64 32 j.num ||| at_ 64 0 (no % 2 ^ 32)] ++
    leBytes 64 s.idKey.toNat ++ leBytes 64 (s.tower j.home).fwDigest.toNat ++ leBytes 64 j.digest.toNat ++
    dwBytes ([BitVec.ofNat 64 j.start, BitVec.ofNat 64 (j.endAt.getD s.time)] ++ j.counts.words ++ [BitVec.ofNat 64 s.bootNo])

/-- An execution receipt, 416 bytes (R332). -/
def State.receiptOf (s : State) (j : Job) (no : Nat) : List Byte :=
  let body := s.receiptBody j no
  body ++ leBytes 114 (Config.ed448Sign (shake256 body 64)).toNat ++ List.replicate 6 0

/-- A job finishes: its receipt is due, its scopes and its entry of the translation root table are freed, and what its image placed for
its contexts goes with it (R91, R151, R276). -/
def State.finish (s : State) (j : Job) : State :=
  let no := s.receiptNo + 1
  let r : Receipt := ⟨j.home, j.cq, j.num, j.tenant.toNat, j.root, s.receiptOf j no⟩
  let s1 : State := { s with
    receiptNo := no
    receipts := s.receipts ++ [r]
    scopes := s.scopes.filter fun c => !(c.home == j.home && c.job == j.num)
    jobs := s.jobs.filter (·.num != j.num)
    jobsDone := s.jobsDone ++ [j.num]
    cores := s.cores.map fun k => { k with
      palInit := k.palInit.filter fun e => e.1 / 256 != j.num
      segDecls := k.segDecls.filter fun d => d.job != j.num } }
  let shared := s1.jobs.any (·.ptroot == j.ptroot)
  let drop (w : Tower) : Tower := { w with tlb := w.tlb.filter fun e => shared || e.root != j.ptroot }
  (s1.modTower false drop).modTower true drop

/-- Every job that has finished. -/
def State.finishes (s : State) : State := (s.jobs.filter s.jobOver).foldl State.finish s

/-- A doubleword of device memory at a physical address, as Easel reads it under key 0. -/
def State.physDword (s : State) (pa : Nat) : W64 := BitVec.ofNat 64 (leNat (s.dev.bytes (s.key 0) pa 8))

/-- Whether a line of memory keyed to index 0 cannot be read. -/
def State.physBad (s : State) (pa : Nat) : Bool := s.tableBad (pa / 64)

/-- Easel's write of device memory at a physical address, under key 0. -/
def State.physWrite (s : State) (pa : Nat) (bs : List Byte) : State :=
  s.modDmem .gddr fun m => m.write (s.erasures .gddr) (s.key 0) pa (bs.map some)

/-- A receipt is written to its tower's ring and its completion posted, unless the ring is full or not set up (R106, R332); a header
that cannot be read, in memory keyed to index 0, is a device-level error, of cause 5 (R325, log 27, DESIGN CHOICE). The answer says
whether it was written. -/
def State.writeReceipt (s : State) (r : Receipt) : Bool × State :=
  let w := s.tower r.tower
  let base := w.rcptring.toNat
  let m := w.rcptM.toNat
  let wr := s.physDword base
  if base ≠ 0 && (s.physBad base || s.physBad (base + 8)) then (false, s.deviceError 5 r.tower 0)
  else if base = 0 ∨ m < 4 ∨ 16 < m ∨ wr - s.physDword (base + 8) = BitVec.ofNat 64 (2 ^ m) then (false, s)
  else
    let i := wr.toNat % 2 ^ m
    let s1 := (s.physWrite (base + 32 + 416 * i) r.bytes).physWrite base (leBytes 8 (wr + 1).toNat)
    (true, s1.post r.cq { type := 9, job := r.job, tenant := r.tenant, scope := r.scope, pay := BitVec.ofNat 256 i })

/-- Receipts that have room are written, in order; a tower's later ones wait behind its earlier ones (R332). -/
def State.writeReceipts (s : State) : State :=
  s.receipts.foldl (fun (a : State) r =>
    if a.receipts.any (·.tower == r.tower) then { a with receipts := a.receipts ++ [r] }
    else match a.writeReceipt r with
      | (true, b) => b
      | (false, b) => { b with receipts := b.receipts ++ [r] }) { s with receipts := [] }

/-! Everything that follows of itself. -/

/-- The state once everything that follows from an event has followed. -/
def State.settle (s : State) : State :=
  let s0 := if s.spawnWait.isEmpty then s else s.respawns
  let s1 := if s0.launches.isEmpty then s0 else s0.relaunches
  let s2 := s1.nodes.foldl State.engineDone s1
  let s3 := s2.sweepScopes s2.scopes.length
  let s4 := s3.runners.foldl State.refresh s3
  let s5 := if s4.heldWrites.isEmpty then s4 else s4.releaseHeld
  let s6 := s5.settleClocks
  let s7 := (s6.failStale false).failStale true
  let s8 := s7.finishes
  if s8.receipts.isEmpty then s8 else s8.writeReceipts

end Sys2Proof.Machine
end

