-- ==== Sys2Proof/Machine/Cycle.lean ====
section
/-!
DEFINITION. Which agent moves next: the events given in State.agenda, those whose cycle the manual fixes, those whose time it
leaves open, then the cores, each fetching, decoding and issuing by the merge of R33, then the next cycle.
-/

namespace Sys2Proof.Machine

/-! A core's cycle (R12, R28, R32 to R34). -/

/-- The eight slot words of a bundle (R12). -/
def Core.words (k : Core) (pc : Nat) : List SlotWord :=
  let bs := bytesOf k.imem (32 * pc) 32
  (List.range 8).map fun i => BitVec.ofNat 32 (leNat ((bs.drop (4 * i)).take 4))

/-- The slots that a bundle occupies: those of nonzero words, both of a long-immediate pair (R32). -/
def occupied (ws : List SlotWord) : List Nat :=
  (List.range 8).filter fun k => wordAt ws k != 0 || ((immSlot ws).isSome && (k == 1 || k == 7))

/-- Whether a context offers a bundle in a cycle: it runs, its next bundle may issue yet, no pre-emption is asked for, a
restored stream operation has made its next step (R8, R33, R314). -/
def Ctx.offers (x : Ctx) (cycle : Nat) : Bool :=
  x.status == .running && decide (x.notBefore ≤ cycle) && !x.preempt && !x.awaitsStep

/-- Whether a context stands past the last bundle of its core's instruction memory (R12, R108). -/
def State.atEnd (s : State) (r : CtxRef) : Bool := decide (topOf r.core ≤ (s.ctx r).pc.toNat)

/-- Slots evaluated in order, each staged in the open bundle (R28). -/
def runSlots : List (Nat × Instr) → State → Out
  | [], s => .next s
  | (k, i) :: rest, s => match exec i { s with issue := { s.issue with slot := k } } with
    | .next t => runSlots rest t
    | .fault f => .fault f
    | .refused f => .refused f

/-- The next bundle of a context, fetched, decoded and evaluated against the state before it (R28). -/
noncomputable def State.staged (s : State) (r : CtxRef) : Out :=
  let s1 : State := { s with cur := r, issue := Issue.closed }
  if s.atEnd r then .next s1
  else
    let x := s.ctx r
    runSlots (decodeBundle (isCtl r.core) x.emul ((s.core r.core).words x.pc.toNat)) { s1 with issue := ⟨true, 0, []⟩ }

/-- Whether a verdict is to wait. -/
def Verdict.waits : Verdict → Bool
  | .wait => true
  | .waitHeld => true
  | _ => false

/-- Whether the staged bundle waits (R28). -/
def State.waits (s : State) : Bool := (verdictOf (s.ctx s.cur) s.issue.recs).waits

/-- The staged bundle issues, or the issue past the last bundle traps (R12, R28). -/
def State.issueStaged (s : State) : Out := if s.atEnd s.cur then exec .issuePastEnd s else .next s.closeBundle

/-- How long Q has been ready without issuing (R33). -/
def State.setQWait (s : State) (c : CoreRef) (n : Nat) : State := s.modCore c fun k => { k with qWait := n }

/-- Q's part of a cycle, P's bundle occupying some slots (R33, R34). -/
noncomputable def State.secondary (s : State) (c : CoreRef) (occ : List Nat) : Out :=
  let q : CtxRef := ⟨c, true⟩
  if !(s.ctx q).offers s.cycle then .next (s.setQWait c 0)
  else
    let mine := if s.atEnd q then [] else occupied ((s.core c).words (s.ctx q).pc.toNat)
    match s.staged q with
    | .fault f => .fault f
    | .refused f => .refused f
    | .next t =>
      if t.waits then .next (t.closeBundle.setQWait c 0)
      else if mine.any occ.contains then .next (s.setQWait c ((s.core c).qWait + 1))
      else match t.issueStaged with
        | .next u => .next (u.setQWait c 0)
        | .fault f => .fault f
        | .refused f => .refused f

/-- A core's issue in one cycle: P's bundle and what fits of Q's, or Q's bundle whole where P waits or is held (R33). -/
noncomputable def State.coreCycle (s : State) (c : CoreRef) : Out :=
  let p : CtxRef := ⟨c, false⟩
  if !(s.ctx p).offers s.cycle then s.secondary c []
  else match s.staged p with
    | .fault f => .fault f
    | .refused f => .refused f
    | .next t =>
      if t.waits then t.closeBundle.secondary c []
      else if 63 ≤ (s.core c).qWait then s.secondary c []
      else
        let occ := if s.atEnd p then [] else occupied ((s.core c).words (s.ctx p).pc.toNat)
        match t.issueStaged with
        | .next u => u.secondary c occ
        | .fault f => .fault f
        | .refused f => .refused f

/-- What a context meets at its bundle boundary before it offers a bundle: an asynchronous trap (R96), an unreadable bundle
(R108). -/
def State.boundary (s : State) (r : CtxRef) : Bool × Bool :=
  let x := s.ctx r
  (x.offers s.cycle && x.takesAsync, x.offers s.cycle && (s.core r.core).imemBad.contains x.pc.toNat)

/-- The event at the bundle boundary of a core's contexts, P's first. -/
noncomputable def State.boundaryEvent (s : State) (c : CoreRef) : Option Instr :=
  [CtxRef.mk c false, CtxRef.mk c true].findSome? fun r => match s.boundary r with
    | (true, _) => some (.asyncTrapDelivery r)
    | (false, true) => some (.imemue r)
    | (false, false) => none

/-! Cores and contexts in play. -/

/-- The control cores that are not among the cores that have run. -/
def State.controls (s : State) : List CoreRef :=
  ([512, 513, 514, 515] : List CoreRef).filter fun c => !s.running.contains c

/-- The cores in play. -/
def State.inPlay (s : State) : List CoreRef := s.running ++ s.controls

/-- The contexts of the cores in play. -/
def State.ctxsInPlay (s : State) : List CtxRef := (s.inPlay.map fun c => [CtxRef.mk c false, CtxRef.mk c true]).flatten

/-- The cores with a bound context, which move in a cycle. -/
def State.movers (s : State) : List CoreRef :=
  s.inPlay.filter fun c => (s.ctx ⟨c, false⟩).status != .free || (s.ctx ⟨c, true⟩).status != .free

/-! Events whose cycle is fixed. -/

/-- What a context's oldest slot 5 operation with a result has come to 400 cycles after its issue: the next of the context's pieces
is performed, or the result lands (R31). -/
noncomputable def State.answerDue (s : State) (r : CtxRef) : Option Instr :=
  let x := s.ctx r
  match x.s5.find? fun o => o.kind.lands && decide (o.issued + 400 ≤ s.cycle) with
  | none => none
  | some o =>
    ((x.inflight.findIdx? fun e => e.due.isNone && e.copy.isEmpty && decide (0 < e.copyTo ∧ e.copyTo ≤ o.seq + 1) && x.mayLand e s.cycle).map
      (.resultLanding r ·)).or
      ((s.pieces.zipIdx.find? fun p => p.1.issuer.core == r.core && s.pieceReady p.2 p.1).map fun p => .piecePerformed p.2)

/-- A context's events that are due: results of fixed latency, slot 5 results after 400 cycles, snapshot entries, a wait's test every
1024 cycles (R25, R31, R101, R257). -/
noncomputable def State.ctxDue (s : State) (r : CtxRef) : Option Instr :=
  let x := s.ctx r
  match (x.inflight.findIdx? fun e => e.due.any fun d => decide (d ≤ s.cycle)).map (.resultLanding r ·) |>.or (s.answerDue r) with
  | some i => some i
  | none =>
    let back (t : Nat) : Option Nat := x.snap.findIdx? fun e => decide (t + e.tag ≤ s.cycle) && !(x.tmask && e.outer)
    match x.replayAt.bind back with
    | some n => some (.snapshotLanding r n)
    | none => match x.status with
      | .parked (.waitGe off thr) => if s.cycle % 1024 = 0 ∧ s.unparks r (.waitGe off thr) then some (.waitRetest r) else none
      | _ => none

/-- Whether a drain's end can take place: its cycle has come, and MXCHK finds room (R96, R206, R207). -/
def State.drainDue (s : State) (d : Drain) : Bool := match d.started with
  | none => false
  | some t =>
    if d.discard then decide (t + 150 ≤ s.cycle)
    else match d.failCol with
    | none => decide (t + 152 ≤ s.cycle)
    | some _ => decide (t + 150 ≤ s.cycle) && match s.deliver d.ctx d.node ⟨0x22, 0, 0⟩ with
      | .full => false
      | _ => true

/-- Whether the first drain of a core can start (R96, R197, R206). -/
def State.drainStarts (s : State) (c : CoreRef) (d : Drain) : Bool :=
  d.started.isNone && !((s.core c).mx.queue.any fun q => d.after.contains q.id) &&
    !((runSectors (viewRuns s.mx6 d.dst)).any fun sec => (s.core c).holds.any fun h => h.1 == sec && h.2 != d.id) &&
    !s.findsFull c d.ctx d.node d.reads

/-- The events of a matrix engine that are due (R193, R197, R206). -/
noncomputable def State.mxDue (s : State) (c : CoreRef) : Option Instr :=
  let m := (s.core c).mx
  let cmd : Option Instr := match m.queue with
    | [] => none
    | q :: _ => match q.started with
      | none => if m.startable s.cycle q && !s.mxHalted c && !s.findsFull c (s.mxCtx c) (s.ctx (s.mxCtx c)).node (q.reads s.mx6) then some (.matrixCommandStart c) else none
      | some t =>
        let mul := match q.op with | .mmq _ _ _ _ => true | .mzero => false
        if mul && !q.consumed && decide (q.consumedAt t ≤ s.cycle) then some (.operandsConsumed c)
        else if decide (q.stepAt t ≤ s.cycle) && !(mul && q.step + 1 == q.steps && !q.consumed) then some (.matrixStep c)
        else none
  match cmd with
  | some i => some i
  | none => match m.drains with
    | [] => none
    | d :: _ =>
      if s.drainStarts c d then some (.drainStart c) else if s.drainDue d then some (.drainPublish c) else none

/-- The slice of a tower's table at the present time (R320): slice i from the sum of the lengths before it on. -/
def Tower.sliceNow (w : Tower) (ns : Nat) : Option Nat :=
  let total := (w.slices.map (·.len)).sum
  if total = 0 then none
  else
    let t := ns / 10 ^ 6 % total
    (List.range w.slices.length).find? fun i => decide (t < ((w.slices.take (i + 1)).map (·.len)).sum)

/-- A tower's events that are due: a heartbeat that has run out or a primary that cannot fetch, an error in control memory, a slice boundary
(R305, R313, R320, R325). -/
noncomputable def State.towerDue (s : State) (t : Bool) : Option Instr :=
  let w := s.tower t
  if s.beatOut t then some (.takeOver t)
  else if w.ctlBad && !s.faulted then some (.deviceFault 1 t 0)
  else match w.sliceNow s.time with
    | some i => if w.slice == some i then none else some (.sliceBoundary t i)
    | none => none

/-- A tick that has come (R262). -/
def State.tickDue (s : State) (j : Job) : Bool := decide (0 < j.interval ∧ j.start + (j.ticks + 1) * j.interval ≤ s.time)

/-- Whether a collective that waits to start is to test its RCTR now: it does so at least once every 1024 cycles (R283). -/
def State.rctrDue (s : State) (c : CollCmd) : Bool := s.cycle % 1024 == 0 && c.ready == 0 && s.collReady c

/-- Whether a link has been without an acknowledgement for 10 µs while an instance uses it (R284). -/
def State.lossDue (s : State) (l : Link) : Bool :=
  l.retrySince.any (fun t => decide (t + 10000 ≤ s.time)) &&
    s.colls.any fun c => c.started && !c.finished && c.failing.isNone && c.uses.contains l.port

/-- The next event whose time has come. -/
noncomputable def State.due (s : State) : Option Instr :=
  (s.ctxsInPlay.findSome? s.ctxDue).or <| (s.inPlay.findSome? s.mxDue).or <| (s.towerDue false).or <| (s.towerDue true).or <|
    ((s.colls.find? s.rctrDue).map fun c => .rctrRetest c.id).or <| ((s.links.find? s.lossDue).map fun l => .linkLoss l.port).or <|
    (s.jobs.find? s.tickDue).map fun j => .frameTick j.num

/-! Events whose time is open. -/

/-- A context's: results of variable latency, lock events, a wait's test, a pre-emption (R25, R257, R314, R351). -/
noncomputable def State.ctxChoices (s : State) (r : CtxRef) : List Instr :=
  let x := s.ctx r
  let land : List Instr := (x.inflight.zipIdx.filter fun e => e.1.due.isNone && x.mayLand e.1 s.cycle).map fun e => .resultLanding r e.2
  let locks : List Instr := match x.stream with
    | none => []
    | some st => if st.kind != .rmv || st.stopped then []
      else (if st.srcLock.open_ then [.lockEvent r false] else []) ++ if st.dstLock.open_ then [.lockEvent r true] else []
  let waits : List Instr := match x.status with
    | .parked (.waitGe _ _) => [.waitRetest r]
    | _ => []
  land ++ locks ++ waits ++ if x.preempt && x.status != .free && !s.preemptWaits r then [.preemption r] else []

/-- A command's next event (R216, R219, R221, R228, R242). -/
noncomputable def State.cmdChoices (s : State) (c : Cmd) : List Instr := match c.state with
  | .queued => if !s.inOrder c then [] else match c.op with
    | .pub => [.publish c.id]
    | .dsc => [.discard c.id]
    | _ => [.commandStart c.id]
  | .running => match c.op with
    | .kvshare _ _ => [.canvasNameUpdate c.id]
    | .kvdrop _ => [.canvasNameUpdate c.id]
    | _ => [.transferCompletion c.id]
  | .waiting => [.commandStart c.id]
  | .evicting => [.transferCompletion c.id]
  | .skipped => [.transferCompletion c.id]
  | _ => []

/-- A collective's next event (R96, R212, R283). -/
noncomputable def CollCmd.choices (c : CollCmd) : List Instr :=
  if c.started then (if c.killed || c.finished || c.failing.isSome then [.collectivePublish c.id] else [])
  else (if c.ready = 0 then [.rctrRetest c.id] else [.collectiveStart c.id])

/-- The contexts that a tower's next node may take, a choice of Easel's (R248, R249, R251). -/
noncomputable def State.dispatchChoices (s : State) (t : Bool) : List Instr :=
  match (s.nextNode t).bind s.node with
  | none => []
  | some n =>
    if recKind n.nrec ≠ 0 then
      ((coresOf t).filter fun c => s.engineFree n c).map fun c => .dispatch t [(n.id, ⟨c, false⟩)]
    else if s.isAtelierNode n then [.dispatch t [(n.id, ⟨coreOfId (recAff n.nrec), false⟩)]]
    else ((coresOf t).filter fun c => s.matchesCore n c).filterMap fun c => (s.freeFor n c).map fun r => .dispatch t [(n.id, r)]

/-- A tower's: a completion entry to write, dispatches, segments to save, a control core to reload, a clock to restore (R248, R293, R313,
R321, R335). -/
noncomputable def State.towerChoices (s : State) (t : Bool) : List Instr :=
  let w := s.tower t
  let writes : List Instr := match w.nextEntry with
    | none => []
    | some n => if w.completions[n]?.any s.entryGoes then [.completionWrite t n] else []
  let saves : List Instr := w.saving.map fun e => .segmentSave (coreAt e.1) e.2
  let reloads : List Instr :=
    if !w.reloadDue || w.standbyOk || w.takeover || s.service == .off || s.owed ⟨s.controlCore t false, false⟩ then []
    else [.standbyReload t true, .standbyReload t false]
  let cools : List Instr :=
    if w.coolSince.any (fun c => decide (c + 10 ^ 10 ≤ s.time)) && w.retrain.isNone then [.clockRestore t] else []
  writes ++ s.dispatchChoices t ++ saves ++ reloads ++ cools

/-- A cancel's: its arrival at a core, its end (R269, R275). -/
noncomputable def State.cancelChoices (s : State) (k : Cancel) : List Instr :=
  k.left.map (fun c => .cancelArrival k.id c) ++ if s.quietCancel k then [.subtreeQuiet k.id] else []

/-- An invalidation's acknowledgements (R233). -/
noncomputable def State.invalChoices (s : State) (v : Inval) : List Instr :=
  [false, true].filterMap fun t => if v.left.getLsbD (towerNat t) && !s.usesOld v t then some (.invalidationAck v.id t) else none

/-- The time flits that may leave now (R288). -/
noncomputable def State.timeChoices (s : State) : List Instr :=
  (s.links.filter fun l => l.canSend && l.queue.isEmpty && decide (l.unacked.length < 1024)).map fun l => .timeFlit l.port none

/-- Every event that may come now and whose time the manual leaves open. -/
noncomputable def State.choices (s : State) : List Instr :=
  let pieces : List Instr := (s.pieces.zipIdx.filter fun p => s.pieceReady p.2 p.1).map fun p => .piecePerformed p.2
  let adds : List Instr := (s.adds.zipIdx.filter fun a => s.makeable a.1).map fun a => .engineCounterAdd a.2
  let posts : List Instr := (s.msgs.filter fun m => !m.posted && s.qpushReady m).map fun m => .qpushPost m.id
  (s.ctxsInPlay.flatMap s.ctxChoices) ++ pieces ++ (s.cmds.flatMap s.cmdChoices) ++ adds ++ (s.colls.flatMap CollCmd.choices) ++ posts ++
    s.towerChoices false ++ s.towerChoices true ++ (s.cancels.flatMap s.cancelChoices) ++ (s.invals.flatMap s.invalChoices) ++ s.timeChoices

/-! The end of a cycle. -/

/-- The stream operation that a core's stream engine steps in this cycle; where the step whose turn it is is deferred for a bank,
the other context's may step (R82, log 66, DESIGN CHOICE). -/
def State.streamOf (s : State) (c : CoreRef) : Option CtxRef :=
  let due (q : Bool) : Bool := match (s.ctx ⟨c, q⟩).stream with
    | some st => (s.ctx ⟨c, q⟩).status != .free && st.due s.cycle
    | none => false
  if due false && due true then some ⟨c, (s.core c).streamTurn⟩
  else if due false then some ⟨c, false⟩ else if due true then some ⟨c, true⟩ else none

/-- The next cycle begins: 10/19 ns later, with every core in play to move (R4). -/
def State.nextCycle (s : State) : State := { s with cycle := s.cycle + 1, time19 := s.time19 + 10, turn := s.movers }

/-! A step. -/

/-- An event and what follows of itself; no bundle stays open. -/
def settled : Out → Out
  | .next s => .next { s.settle with issue := Issue.closed }
  | .fault f => .fault f
  | .refused f => .refused f

/-- Whether an agenda entry is an event; a slot word is not one. -/
def isEvent (i : Instr) : Bool := mapOf i == .ev

/-- The cores' part: the next core to move issues; once all have moved, stream operations step and the next cycle begins. That an element
step comes after the bundles of its cycle is the model's: R86 places it in the cycle in which it is made (log 70, DESIGN CHOICE). -/
noncomputable def State.move (s : State) : Out := match s.turn with
  | c :: rest => match s.boundaryEvent c with
    | some i => settled (exec i s)
    | none => settled (({ s with turn := rest } : State).coreCycle c)
  | [] => match s.inPlay.findSome? s.streamOf with
    | some r => settled (exec (.streamElementStep r) s)
    | none => .next s.nextCycle

/-- One step: the agenda's next event; else an event that is due; else, by a free choice, one of those whose time is open or
the cores' next move. -/
noncomputable def State.advance (s : State) : Out := match s.agenda with
  | i :: rest => if isEvent i then settled (exec i { s with agenda := rest }) else .next { s with agenda := rest }
  | [] => match s.due with
    | some i => settled (exec i s)
    | none =>
      if s.choices.isEmpty then s.move
      else match s.choices[s.draw.1 % (s.choices.length + 1)]? with
        | some i => settled (exec i s.draw.2)
        | none => s.draw.2.move

/-! Placing a word (log 29, DESIGN CHOICE). -/

/-- The core that a word of a slot map is placed on: compute core 0, or control core 0 of tower 0 for slot 6 of the control
profile. -/
def placeCore (m : SlotMap) : CoreRef := if m == .k then 512 else 0

/-- A word in its slot of the bundle that a core's P issues next, the other slots 0; P is bound, and next to move. -/
noncomputable def State.placeWord (s : State) (w : Nat) : State :=
  let x := BitVec.ofNat 32 w
  let m := (tableMap x).getD .c
  let c := placeCore m
  let pc := (s.ctx ⟨c, false⟩).pc.toNat
  let bundle := ((List.range 8).map fun k => leBytes 4 (if k = m.slot then x.toNat else 0)).flatten
  let s1 := s.modCore c fun k => { k with imem := putBytes k.imem (32 * pc) bundle }
  let s2 := s1.modCtx ⟨c, false⟩ fun y => { y with status := .running, notBefore := 0, preempt := false, emul := 0 }
  { s2.wake c with turn := [c], agenda := [], issue := Issue.closed }

end Sys2Proof.Machine
end

