-- ==== Sys2Proof/Machine/Step.lean ====
section
/-! DEFINITION. The step of the machine, and an instruction placed where the next step fetches. -/

namespace Sys2Proof.Machine

/-- One step (R2, R33). -/
noncomputable def step (s : State) : Host.Outcome State Fault Refusal := s.advance

/-- A word stored where the next step fetches its instruction (log 29, DESIGN CHOICE); the table gives every word 32 bits. -/
noncomputable def State.withFetchWord (s : State) (nbits w : Nat) : State := s.placeWord (w % 2 ^ nbits)

end Sys2Proof.Machine
end

