-- ==== Sys2Proof/Safety.lean ====
section
/-!
DEFINITION. The terms in which claims are stated: when a slot word issues as a bundle of its own, what its commit and its
trap come to, when the next step is a core's, what a safe run is.
-/

namespace Sys2Proof.Machine

/-- The context being stepped. -/
abbrev State.me (s : State) : Ctx := s.ctx s.cur

/-- A general slot word of a shape issues alone: no bundle is open, its guard is full and enables it (R16, R17), its
sources and destinations are full (R26, R27), and a further result in flight fits (R99). -/
structure Runs (h : Shape) (g : G) (s : State) : Prop where
  closed : s.issue = Issue.closed
  guard : ∀ r, h.guard.reg g.p = some r → s.me.isFull r = true
  on : h.guard.enabled s.me g.n g.p = true
  full : ∀ r ∈ (h.sources g).map (·.1) ++ h.dests g, s.me.isFull r = true
  room : s.me.outstanding < 48

/-! What a bundle that commits leaves (R25, R29, R53 to R57). -/

/-- The next bundle after one that names none itself: a taken branch's target after its delay bundle (R55), the loop's first
bundle at the end of an iteration (R57), else the next address (R12). -/
def Ctx.ahead (x : Ctx) : Ctx := match x.npc with
  | some t => { x with pc := t, npc := none }
  | none => match x.loops with
    | [] => { x with pc := x.pc + 1 }
    | e :: es =>
      if e.stop ≠ x.pc then { x with pc := x.pc + 1 }
      else if e.count = 1 then { x with pc := x.pc + 1, loops := es }
      else { x with pc := e.start, loops := { e with count := e.count - 1 } :: es }

/-- A context after a bundle that names no next bundle and took some generator words: the emulation mask is used up (R65),
and the snapshot entries count from the first bundle after `rti` (R101). -/
def Ctx.onward (x : Ctx) (cycle draws : Nat) : Ctx :=
  let y := x.ahead
  { y with
    emul := 0
    replayAt := if y.replay && y.replayAt.isNone then some cycle else y.replayAt
    spec := { y.spec with rngctr := y.spec.rngctr + BitVec.ofNat 64 draws } }

/-- The state with the current context's bundle over. -/
def State.onward (s : State) (draws : Nat := 0) : State := s.modCtx s.cur fun x => x.onward s.cycle draws

/-- The bundle is over and a register holds its one-cycle result (R25); nothing else has changed. -/
def State.now (s : State) (v : RVal) : State := s.onward.modCtx s.cur fun x => x.write v

/-- A context with a result in flight: its destination is empty until the result lands with its flags in a cycle (R25). -/
def Ctx.await (x : Ctx) (v : RVal) (flags : BitVec 5) (cycle : Nat) : Ctx :=
  { x.mark v.reg false with inflight := x.inflight ++ [⟨v, flags, some cycle, false, 0, []⟩] }

/-- The bundle is over, and the result lands with its flags a latency later (R25). -/
def State.later (s : State) (lat : Nat) (v : RVal) (flags : BitVec 5) (draws : Nat := 0) : State :=
  (s.onward draws).modCtx s.cur fun x => x.await v flags (s.cycle + lat)

/-- An instruction of general fields, whenever it runs, completes with a one-cycle result. -/
def Now (i : G → Instr) (h : Shape) (v : G → Ctx → RVal) : Prop :=
  ∀ (g : G) (s : State), Runs h g s → exec (i g) s = .next (s.now (v g s.me))

/-- An instruction of general fields, whenever it runs, completes with a result and flags of a latency. -/
def Later (i : G → Instr) (h : Shape) (lat : Nat) (v : G → Ctx → RVal) (flags : G → Ctx → BitVec 5 := fun _ _ => 0) : Prop :=
  ∀ (g : G) (s : State), Runs h g s → exec (i g) s = .next (s.later lat (v g s.me) (flags g s.me))

/-- An instruction of general fields, whenever it runs where a condition holds, leaves a state. -/
def Leaves (i : G → Instr) (h : Shape) (c : G → State → Prop) (t : G → State → State) : Prop :=
  ∀ (g : G) (s : State), Runs h g s → c g s → exec (i g) s = .next (t g s)

/-- Whether a vector instruction writes lane i of width w: the bit of its mask, complemented by N (R17, R114). -/
def Ctx.governs (x : Ctx) (g : G) (w i : Nat) : Bool :=
  (x.k g.p).getLsbD (if w = 32 then 2 * i else if w = 8 then i / 2 else i) != g.n

/-- A vector instruction, whenever it runs, completes: after a latency the lanes it governs hold their results, the others
what they held; no flag is raised (R17, R114). -/
def Lanes (i : G → Instr) (h : Shape) (w lat : Nat) (f : G → Ctx → Nat → BitVec w) : Prop :=
  ∀ (g : G) (s : State), Runs h g s → ∃ v : Vec, exec (i g) s = .next (s.later lat (.v g.d v) 0) ∧
    ∀ n < 2048 / w, lane w v n = if s.me.governs g w n then f g s.me n else lane w (s.me.v g.d) n

/-- The same with the union of the flags of the lanes written (R171). -/
def FloatLanes (i : G → Instr) (h : Shape) (w lat : Nat) (f : G → Ctx → Nat → Lane) : Prop :=
  ∀ (g : G) (s : State), Runs h g s → ∃ (v : Vec) (fl : Flags), exec (i g) s = .next (s.later lat (.v g.d v) fl) ∧
    (∀ n < 2048 / w, lane w v n = if s.me.governs g w n then BitVec.ofNat w (f g s.me n).bits else lane w (s.me.v g.d) n) ∧
    ∀ b < 5, fl.getLsbD b = true ↔ ∃ n < 2048 / w, s.me.governs g w n = true ∧ (f g s.me n).flags.getLsbD b = true

/-- x[i] after l levels of R182's pairwise tree over the 32-bit lanes of a register. -/
def treeValue (f : Nat → Nat → Lane) (v : Vec) : Nat → Nat → Nat
  | 0, i => (lane 32 v i).toNat
  | l + 1, i => (f (treeValue f v l (2 * i)) (treeValue f v l (2 * i + 1))).bits

/-- x[i] after l levels of R183's doubling order. -/
def scanValue (f : Nat → Nat → Lane) (v : Vec) : Nat → Nat → Nat
  | 0, i => (lane 32 v i).toNat
  | l + 1, i => if 2 ^ l ≤ i then (f (scanValue f v l (i - 2 ^ l)) (scanValue f v l i)).bits else scanValue f v l i

/-- The state after a bundle with these effects alone has committed (R29). -/
abbrev State.did (s : State) (effs : List Effect) : State := s.commit s.cur effs 0

/-- The trap words of a bundle of one faulting slot k (R29, R61, R63). -/
def oneFault (k : Nat) (word : SlotWord) (f : SlotFault) : TrapWords :=
  { code := f.code, slot := k, mask := BitVec.twoPow 64 k, sword := if keepsWord f.code then word else 0
    skip := f.code == 0x30, opa := f.opa, opb := f.opb }

/-- The state after a bundle of one slot has been cancelled with a trap that found no uncorrectable word (R29). -/
def State.trapped (s : State) (k : Nat) (word : SlotWord) (f : SlotFault) : State := s.takeTrap s.cur (oneFault k word f)

/-- The same where its reads may have found uncorrectable words: these are poisoned and reported first (R10). -/
def State.fails (s : State) (k : Nat) (word : SlotWord) (f : SlotFault) : State :=
  (s.coreFound s.cur.core 0x01 0x08 s.me.job s.me.spec.tenant.toNat s.me.spec.scope.toNat f.found).takeTrap s.cur (oneFault k word f)

/-! Slot 4 (R68 to R89). -/

/-- The state in which a slot 4 operation of general fields acts on ranges: where its guard lets it act, the context's earlier pieces
that come before it have been performed (R136, R140, R141). -/
def State.reached (s : State) (h : Shape) (g : G) (kind : Acc4) (rs : Ctx → List (Nat × Nat)) : State :=
  if h.guard.enabled s.me g.n g.p then s.readyFor kind (rs s.me) else s

/-- A byte of the memory that a core's slot 4 names, as a load returns it: its scratchpad, or a control core's control memory
(R73, R298). -/
def State.byteAt (s : State) (c : CoreRef) (a : Nat) : Byte :=
  if isCtl c then tabGet 0 (s.tower (towerOf c)).ctlmem a else (s.core c).mem.load a

/-- The bytes from an offset on. -/
def State.bytesAt (s : State) (c : CoreRef) (a n : Nat) : List Byte := (List.range n).map fun i => s.byteAt c (a + i)

/-- Whether slot 4 of two cores names one memory (R298). -/
def oneMemory (c d : CoreRef) : Bool := c == d || (isCtl c && isCtl d && towerOf c == towerOf d)

/-- What a bundle of slot 4 may change at most: its context, its core's scratchpad and record of busy banks, and on a control
core the control memory. -/
structure OnlyLocal (s t : State) : Prop where
  rest : t = { s with cores := t.cores, tower0 := t.tower0, tower1 := t.tower1 }
  towers : ∀ w, t.tower w = { s.tower w with ctlmem := (t.tower w).ctlmem }
  others : ∀ c, c ≠ s.cur.core → t.core c = s.core c
  here : t.core s.cur.core = { (s.core s.cur.core).setCtx s.cur.q (t.ctx s.cur) with
    mem := (t.core s.cur.core).mem, banks := (t.core s.cur.core).banks, bankCycle := (t.core s.cur.core).bankCycle }

/-- The current core's memories are in canonical form. -/
def State.LocalForm (s : State) : Prop :=
  (s.core s.cur.core).mem.wf = true ∧ tabWf 0 (s.tower (towerOf s.cur.core)).ctlmem = true

/-- The byte at an address after writes in their order (R75, R79). -/
def written (ws : List (Nat × List Byte)) (a : Nat) (old : Byte) : Byte :=
  ws.foldl (fun b w => if w.1 ≤ a ∧ a < w.1 + w.2.length then w.2.getD (a - w.1) 0xFF else b) old

/-- Whether a halfword lies under some of the writes. -/
def halvesWritten (ws : List (Nat × List Byte)) (a : Nat) : Bool :=
  ws.any fun w => decide (0 < w.2.length ∧ w.1 / 2 ≤ a / 2 ∧ a / 2 ≤ (w.1 + w.2.length - 1) / 2)

/-- The bytes written read back and their halfwords are present; every other byte and halfword is as it was (R73, R75). -/
structure Wrote (ws : List (Nat × List Byte)) (s t : State) : Prop where
  only : OnlyLocal s t
  bytes : ∀ c a, t.byteAt c a = if oneMemory c s.cur.core then written ws a (s.byteAt c a) else s.byteAt c a
  has : ∀ c a, (t.core c).mem.has a = ((s.core c).mem.has a || (c == s.cur.core && !isCtl c && halvesWritten ws a))
  poison : ∀ c a, (t.core c).mem.poisoned a = (s.core c).mem.poisoned a

/-- No byte of local or control memory, no halfword's vacancy and no sector's poison differs. -/
structure SameBytes (s t : State) : Prop where
  bytes : ∀ c a, t.byteAt c a = s.byteAt c a
  has : ∀ c a, (t.core c).mem.has a = (s.core c).mem.has a
  poison : ∀ c a, (t.core c).mem.poisoned a = (s.core c).mem.poisoned a

/-- No bundle is open: what holds between steps (R28, R29). -/
def State.Inv (s : State) : Prop := s.issue = Issue.closed

/-- The next step is the part of core c in this cycle, P's bundle first (R33): nothing else is due, no event of open time may
come, no trap and no unreadable bundle stands at a boundary, P offers a bundle and Q has no claim to the cycle. -/
structure CoreNext (c : CoreRef) (rest : List CoreRef) (s : State) : Prop where
  agenda : s.agenda = []
  due : s.due = none
  choices : s.choices = []
  turn : s.turn = c :: rest
  boundary : s.boundaryEvent c = none
  offers : (s.ctx ⟨c, false⟩).offers s.cycle = true
  inside : s.atEnd ⟨c, false⟩ = false
  unheld : (s.core c).qWait < 63

/-- The bundle that context r issues next, decoded (R12, R28). -/
noncomputable def State.bundleAt (s : State) (r : CtxRef) : List (Nat × Instr) :=
  decodeBundle (isCtl r.core) (s.ctx r).emul ((s.core r.core).words (s.ctx r).pc.toNat)

/-- The bundle of one instruction in the slot of its map, every other slot `nop`. -/
def bundleOf (i : Instr) : List (Nat × Instr) := (List.range 8).map fun k => (k, if k = (mapOf i).slot then i else .nop)

/-- A run of n steps that never stops. -/
def SafeRun (n : Nat) (s : State) : Prop := ∃ t, Host.Core.run ⟨State, Fault, Refusal, step, State.reset⟩ n s = .next t

end Sys2Proof.Machine
end

