-- ==== Sys2Proof/Certificates/Slice0/Obligations.lean ====
section
/-! DEFINITION. The statements for the provers. -/

open Sys2Proof Sys2Proof.Machine

/-! Scalar instructions. -/

/-- The scalar of 32 low bits, zero-extended. -/
def low32 (x : W64) : Nat := x.toNat % 2 ^ 32

/-- R47, the table of scalar integer instructions: each, whenever it runs, completes; sD holds its effect in the next bundle, and
nothing else has changed. -/
def Obligations.ScalarInteger : Prop :=
  Now .add .sss (fun g x => .s g.d (x.s g.a + x.s g.b)) ∧
  Now .sub .sss (fun g x => .s g.d (x.s g.a - x.s g.b)) ∧
  Now .addi .ssImm (fun g x => .s g.d (x.s g.a + g.b.signExtend 64)) ∧
  Now .min .sss (fun g x => .s g.d (BitVec.ofInt 64 (min (x.s g.a).toInt (x.s g.b).toInt))) ∧
  Now .max .sss (fun g x => .s g.d (BitVec.ofInt 64 (max (x.s g.a).toInt (x.s g.b).toInt))) ∧
  Now .minn .sss (fun g x => .s g.d (BitVec.ofNat 64 (min (x.s g.a).toNat (x.s g.b).toNat))) ∧
  Now .maxn .sss (fun g x => .s g.d (BitVec.ofNat 64 (max (x.s g.a).toNat (x.s g.b).toNat))) ∧
  Now .abs .unaryS (fun g x => .s g.d (BitVec.ofNat 64 (x.s g.a).toInt.natAbs)) ∧
  Now .and .sss (fun g x => .s g.d (x.s g.a &&& x.s g.b)) ∧
  Now .or .sss (fun g x => .s g.d (x.s g.a ||| x.s g.b)) ∧
  Now .xor .sss (fun g x => .s g.d (x.s g.a ^^^ x.s g.b)) ∧
  Now .andn .sss (fun g x => .s g.d (x.s g.a &&& ~~~ (x.s g.b))) ∧
  Now .andi .ssImm (fun g x => .s g.d (x.s g.a &&& g.b.zeroExtend 64)) ∧
  Now .ori .ssImm (fun g x => .s g.d (x.s g.a ||| g.b.zeroExtend 64)) ∧
  Now .xori .ssImm (fun g x => .s g.d (x.s g.a ^^^ g.b.zeroExtend 64)) ∧
  Now .shl .sss (fun g x => .s g.d (x.s g.a <<< ((x.s g.b).toNat % 64))) ∧
  Now .shr .sss (fun g x => .s g.d (x.s g.a >>> ((x.s g.b).toNat % 64))) ∧
  Now .sra .sss (fun g x => .s g.d ((x.s g.a).sshiftRight ((x.s g.b).toNat % 64))) ∧
  Now .rotl .sss (fun g x => .s g.d ((x.s g.a).rotateLeft ((x.s g.b).toNat % 64))) ∧
  Now .shli .ssImm (fun g x => .s g.d (x.s g.a <<< g.b.toNat)) ∧
  Now .shri .ssImm (fun g x => .s g.d (x.s g.a >>> g.b.toNat)) ∧
  Now .srai .ssImm (fun g x => .s g.d ((x.s g.a).sshiftRight g.b.toNat)) ∧
  Now .mov .unaryS (fun g x => .s g.d (x.s g.a)) ∧
  Now .movi .dstImm12 (fun g _ => .s g.d ((g.a ++ g.b).signExtend 64)) ∧
  (∀ imm, Now (.limm · imm) .dstS (fun g _ => .s g.d (imm.signExtend 64))) ∧
  (∀ imm, Now (.limmh · imm) .modS (fun g x => .s g.d (imm ++ (x.s g.d).extractLsb' 0 32))) ∧
  Now .lea1 .sss (fun g x => .s g.d (x.s g.a + x.s g.b)) ∧
  Now .lea2 .sss (fun g x => .s g.d (x.s g.a + 2 * x.s g.b)) ∧
  Now .lea4 .sss (fun g x => .s g.d (x.s g.a + 4 * x.s g.b)) ∧
  Now .lea8 .sss (fun g x => .s g.d (x.s g.a + 8 * x.s g.b)) ∧
  Later .mul .sss 3 (fun g x => .s g.d (BitVec.ofInt 64 ((x.s g.a).toInt * (x.s g.b).toInt))) ∧
  Later .mulh .sss 3 (fun g x => .s g.d (((x.s g.a).signExtend 128 * (x.s g.b).signExtend 128).extractLsb' 64 64)) ∧
  Later .mulhn .sss 3 (fun g x => .s g.d (((x.s g.a).zeroExtend 128 * (x.s g.b).zeroExtend 128).extractLsb' 64 64))

/-- R47: counts, reversal, and R49's gather and scatter, by the bits of what sD receives, with R49's example and words. -/
def Obligations.ScalarBits : Prop :=
  decodeWord .s 0x0060824A 0 = .mulhn ⟨false, 0, false, false, 8, 9, 10⟩ ∧
  (∃ g, decodeWord .s 0x03507FFB 0 = .movi g ∧ g.d = 7 ∧ g.imm12.toInt = -5) ∧
  decodeWord .s 0x03B03105 0 = .lea8 ⟨false, 0, false, false, 3, 4, 5⟩ ∧
  ∀ (g : G) (s : State),
    (Runs .sss g s → s.me.s g.a = 0xB6 → s.me.s g.b = 0xF0 →
      exec (.bext g) s = .next (s.now (.s g.d 0xB)) ∧ exec (.bdep g) s = .next (s.now (.s g.d 0x60))) ∧
    (Runs .unaryS g s → ∃ n ≤ 64, exec (.clz g) s = .next (s.now (.s g.d (BitVec.ofNat 64 n))) ∧
      (∀ i < n, (s.me.s g.a).getLsbD (63 - i) = false) ∧ (n < 64 → (s.me.s g.a).getLsbD (63 - n) = true)) ∧
    (Runs .unaryS g s → ∃ n ≤ 64, exec (.ctz g) s = .next (s.now (.s g.d (BitVec.ofNat 64 n))) ∧
      (∀ i < n, (s.me.s g.a).getLsbD i = false) ∧ (n < 64 → (s.me.s g.a).getLsbD n = true)) ∧
    (Runs .unaryS g s → exec (.popc g) s = .next (s.now (.s g.d
      (BitVec.ofNat 64 ((List.range 64).filter fun i => (s.me.s g.a).getLsbD i).length)))) ∧
    (Runs .unaryS g s → ∃ y, exec (.brev g) s = .next (s.now (.s g.d y)) ∧
      ∀ i < 64, y.getLsbD i = (s.me.s g.a).getLsbD (63 - i)) ∧
    (Runs .sss g s → ∃ y, exec (.bext g) s = .next (s.now (.s g.d y)) ∧
      ∀ j < 64, y.getLsbD j = ((((List.range 64).filter fun i => (s.me.s g.b).getLsbD i)[j]?).elim false (s.me.s g.a).getLsbD)) ∧
    (Runs .sss g s → ∃ y, exec (.bdep g) s = .next (s.now (.s g.d y)) ∧
      ∀ i < 64, y.getLsbD i = ((s.me.s g.b).getLsbD i &&
        (s.me.s g.a).getLsbD ((List.range i).filter fun k => (s.me.s g.b).getLsbD k).length))

/-- R48, signed: the quotient q and the remainder r of a and b. -/
def SignedDivision (a b q r : W64) : Prop :=
  if b = 0 then q = -1 ∧ r = a
  else if a.toInt = -2 ^ 63 ∧ b = -1 then q.toInt = -2 ^ 63 ∧ r = 0
  else q.toInt = a.toInt.tdiv b.toInt ∧ r.toInt = a.toInt - q.toInt * b.toInt

/-- R48, unsigned. -/
def UnsignedDivision (a b q r : W64) : Prop :=
  if b = 0 then q.toNat = 2 ^ 64 - 1 ∧ r = a
  else q.toNat = a.toNat / b.toNat ∧ (r.toNat : Int) = a.toNat - q.toNat * b.toNat

/-- R48: quotients and remainders, 20 cycles after issue, whatever other divisions are in flight; no divisor traps. A signed
remainder that is not 0 has the dividend's sign; −7 by 2 leaves −1. -/
def Obligations.Division : Prop :=
  (∀ a b q r : W64, SignedDivision a b q r → r = 0 ∨ (r.toInt < 0 ↔ a.toInt < 0)) ∧
  (∀ q r : W64, SignedDivision (-7) 2 q r → r = -1) ∧
  ∀ (g : G) (s : State), Runs .sss g s →
    (∃ q r, SignedDivision (s.me.s g.a) (s.me.s g.b) q r ∧ exec (.div g) s = .next (s.later 20 (.s g.d q) 0) ∧
      exec (.rem g) s = .next (s.later 20 (.s g.d r) 0)) ∧
    (∃ q r, UnsignedDivision (s.me.s g.a) (s.me.s g.b) q r ∧ exec (.divn g) s = .next (s.later 20 (.s g.d q) 0) ∧
      exec (.remn g) s = .next (s.later 20 (.s g.d r) 0))

/-- R50: compares and predicate logic write pD, p0 to p7, in the cycle they issue; a write to p0 is discarded. `pnot` has no B,
and the worked encoding is a `cmp.lt`. -/
def Obligations.Predicates : Prop :=
  (∀ i ∈ [Instr.cmpEq, Instr.cmpNe, Instr.cmpLt, Instr.cmpLe, Instr.cmpLtn, Instr.cmpLen, Instr.cmpiEq, Instr.cmpiLt, Instr.pand,
    Instr.por, Instr.pxor, Instr.pnot], ∀ w imm g, decodeWord .s w imm = i g → g.d.toNat < 8) ∧
  (∀ w imm g, decodeWord .s w imm = .pnot g → g.b = 0 ∧ g.eb = false) ∧
  decodeWord .s 0x02A02105 0 = .cmpLt ⟨false, 0, false, false, 2, 4, 5⟩ ∧
  (∀ (s : State) (b : Bool), (s.now (.p 0 b)).me = s.onward.me) ∧
  Now .cmpEq .pss (fun g x => .p g.pd (decide (x.s g.a = x.s g.b))) ∧
  Now .cmpNe .pss (fun g x => .p g.pd (decide (x.s g.a ≠ x.s g.b))) ∧
  Now .cmpLt .pss (fun g x => .p g.pd (decide ((x.s g.a).toInt < (x.s g.b).toInt))) ∧
  Now .cmpLe .pss (fun g x => .p g.pd (decide ((x.s g.a).toInt ≤ (x.s g.b).toInt))) ∧
  Now .cmpLtn .pss (fun g x => .p g.pd (decide ((x.s g.a).toNat < (x.s g.b).toNat))) ∧
  Now .cmpLen .pss (fun g x => .p g.pd (decide ((x.s g.a).toNat ≤ (x.s g.b).toNat))) ∧
  Now .cmpiEq .psImm (fun g x => .p g.pd (decide ((x.s g.a).toInt = g.b.toInt))) ∧
  Now .cmpiLt .psImm (fun g x => .p g.pd (decide ((x.s g.a).toInt < g.b.toInt))) ∧
  Now .pand .ppp (fun g x => .p g.pd (x.p g.pa && x.p g.pb)) ∧
  Now .por .ppp (fun g x => .p g.pd (x.p g.pa || x.p g.pb)) ∧
  Now .pxor .ppp (fun g x => .p g.pd (x.p g.pa ^^ x.p g.pb)) ∧
  Now .pnot .pp (fun g x => .p g.pd (!x.p g.pa))

/-- R52, R123: equal values, no effect; different ones, CHKFAIL and nothing else of the bundle. -/
def Obligations.Checks : Prop :=
  ∀ (g : G) (s : State),
    (Runs .srcAB g s → exec (.chkEq g) s = .next (if s.me.s g.a = s.me.s g.b then s.onward
      else s.trapped 1 (State.slotOp.wordOf 0x40 g) (trap 0x0A))) ∧
    (Runs .srcPP g s → exec (.chkP g) s = .next (if s.me.p g.pa = s.me.p g.pb then s.onward
      else s.trapped 1 (State.slotOp.wordOf 0x41 g) (trap 0x0A))) ∧
    (Runs .srcVV g s →
      let same : Prop := ∀ j < 128, s.me.governs g 16 j = true → lane 16 (s.me.v g.a) j = lane 16 (s.me.v g.b) j
      (same → exec (.vchk g) s = .next s.onward) ∧
      (¬same → exec (.vchk g) s = .next (s.trapped 2 (State.slotOp.wordOf 0xC4 g) (trap 0x0A))))

/-- R51: scalar binary32, four cycles; the high half of sD is 0, the flags come with the result. -/
def Obligations.ScalarFloat : Prop :=
  let arith (i : G → Instr) (h : Shape) (f : G → Ctx → Lane) : Prop :=
    Later i h 4 (fun g x => .s g.d (BitVec.ofNat 64 (f g x).bits)) (fun g x => (f g x).flags)
  let test (i : G → Instr) (f : G → Ctx → Cmp) : Prop :=
    Later i .pss 4 (fun g x => .p g.pd (f g x).res) (fun g x => (f g x).flags)
  let int (i : G → Instr) (m : Mode) : Prop :=
    Later i .unaryS 4 (fun g x => .s g.d (f32.toInt m 64 (low32 (x.s g.a))).1) (fun g x => (f32.toInt m 64 (low32 (x.s g.a))).2)
  arith .faddF32 .sss (fun g x => f32.add (low32 (x.s g.a)) (low32 (x.s g.b))) ∧
  arith .fsubF32 .sss (fun g x => f32.sub (low32 (x.s g.a)) (low32 (x.s g.b))) ∧
  arith .fmulF32 .sss (fun g x => f32.mul (low32 (x.s g.a)) (low32 (x.s g.b))) ∧
  arith .fmaF32 .sssD (fun g x => f32.fma (low32 (x.s g.a)) (low32 (x.s g.b)) (low32 (x.s g.d))) ∧
  arith .cvtF32I64 .unaryS (fun g x => f32.ofInt (x.s g.a).toInt) ∧
  test .fcmpLt (fun g x => f32.cmpLt (low32 (x.s g.a)) (low32 (x.s g.b))) ∧
  test .fcmpEq (fun g x => f32.cmpEq (low32 (x.s g.a)) (low32 (x.s g.b))) ∧
  int .cvtI64F32 .rne ∧ int .cvtI64F32Rz .rtz

/-- Word n of a context's generator, as R53 writes it. -/
def generatorWord (seed id : W64) (n : W64) : W64 :=
  let x := (seed ^^^ (id <<< 32)) + n * 0x9E3779B97F4A7C15
  let x := (x ^^^ (x >>> 30)) * 0xBF58476D1CE4E5B9
  let x := (x ^^^ (x >>> 27)) * 0x94D049BB133111EB
  x ^^^ (x >>> 31)

/-- R53, R122: `rng` takes one word of the generator and `vrng` 32, whose halfwords fill the governed lanes; RNGCTR counts
them. -/
def Obligations.Generator : Prop :=
  ∀ (g : G) (s : State),
    let word (n : W64) : W64 := generatorWord s.me.spec.rngseed (coreIdReg s.cur.core) (s.me.spec.rngctr + n)
    (Runs .dstS g s → exec (.rng g) s = .next (s.later 2 (.s g.d (word 0)) 0 1)) ∧
    (Runs .dstV g s → ∃ v : Vec, exec (.vrng g) s = .next (s.later 2 (.v g.d v) 0 32) ∧
      ∀ j < 128, lane 16 v j = if s.me.governs g 16 j then (word (BitVec.ofNat 64 (j / 4))).extractLsb' (16 * (j % 4)) 16
        else lane 16 (s.me.v g.d) j)

/-! Vector instructions. -/

/-- A function of lane i of vA and lane i of vB. -/
def lanes2 (w : Nat) (f : BitVec w → BitVec w → BitVec w) (g : G) (x : Ctx) (i : Nat) : BitVec w := f (lane w (x.v g.a) i) (lane w (x.v g.b) i)

/-- A function of lane i of vA. -/
def lanes1 (w : Nat) (f : BitVec w → BitVec w) (g : G) (x : Ctx) (i : Nat) : BitVec w := f (lane w (x.v g.a) i)

/-- The high w bits of the signed product of 2w bits. -/
def highHalf {w : Nat} (a b : BitVec w) : BitVec w := (a.signExtend (2 * w) * b.signExtend (2 * w)).extractLsb' w w

/-- The rows of R115 in one width. -/
def IntegerRows (w : Nat) (add sub mul mulh min max minn maxn abs : G → Instr) : Prop :=
  Lanes add .vvv w 2 (lanes2 w fun a b => a + b) ∧
  Lanes sub .vvv w 2 (lanes2 w fun a b => a - b) ∧
  Lanes mul .vvv w 2 (lanes2 w fun a b => BitVec.ofInt w (a.toInt * b.toInt)) ∧
  Lanes mulh .vvv w 2 (lanes2 w highHalf) ∧
  Lanes min .vvv w 2 (lanes2 w fun a b => BitVec.ofInt w (Min.min a.toInt b.toInt)) ∧
  Lanes max .vvv w 2 (lanes2 w fun a b => BitVec.ofInt w (Max.max a.toInt b.toInt)) ∧
  Lanes minn .vvv w 2 (lanes2 w fun a b => BitVec.ofNat w (Min.min a.toNat b.toNat)) ∧
  Lanes maxn .vvv w 2 (lanes2 w fun a b => BitVec.ofNat w (Max.max a.toNat b.toNat)) ∧
  Lanes abs .unaryV w 2 (lanes1 w fun a => BitVec.ofNat w a.toInt.natAbs)

/-- R115: vector integer arithmetic in lanes of 32, 16 and 8 bits. -/
def Obligations.VectorInteger : Prop :=
  IntegerRows 32 .vadd .vsub .vmul .vmulh .vmin .vmax .vminN32 .vmaxN32 .vabs ∧
  IntegerRows 16 .vaddH .vsubH .vmulH .vmulhH .vminH .vmaxH .vminN16 .vmaxN16 .vabsH ∧
  IntegerRows 8 .vaddB .vsubB .vmulB .vmulhB .vminB .vmaxB .vminN8 .vmaxN8 .vabsB

/-- A compare of two vectors into every bit of kD, two cycles after issue (R116). -/
def Compares (i : G → Instr) (w : Nat) (c : BitVec w → BitVec w → Prop) : Prop :=
  ∀ (g : G) (s : State), Runs .kvv g s → ∃ m : KMask, exec (i g) s = .next (s.later 2 (.k g.pd m) 0) ∧
    ∀ j < 128, m.getLsbD j = true ↔
      let at_ (n : Nat) : Prop := c (lane w (s.me.v g.a) n) (lane w (s.me.v g.b) n)
      if w = 32 then s.me.governs g 32 (j / 2) = true ∧ at_ (j / 2)
      else if w = 8 then s.me.governs g 8 (2 * j) = true ∧ at_ (2 * j) ∧ at_ (2 * j + 1)
      else s.me.governs g 16 j = true ∧ at_ j

/-- R116: vector compares, equal, signed and unsigned, in three widths. -/
def Obligations.VectorCompare : Prop :=
  Compares .vcmpEq 32 (fun a b => a = b) ∧
  Compares .vcmpLt 32 (fun a b => a.toInt < b.toInt) ∧
  Compares .vcmpLtN32 32 (fun a b => a.toNat < b.toNat) ∧
  Compares .vcmpEqH 16 (fun a b => a = b) ∧
  Compares .vcmpLtH 16 (fun a b => a.toInt < b.toInt) ∧
  Compares .vcmpLtN16 16 (fun a b => a.toNat < b.toNat) ∧
  Compares .vcmpEqB 8 (fun a b => a = b) ∧
  Compares .vcmpLtB 8 (fun a b => a.toInt < b.toInt) ∧
  Compares .vcmpLtN8 8 (fun a b => a.toNat < b.toNat)

/-- R117 to R120: vector logic, shifts, copies, permutes, extract and insert. -/
def Obligations.VectorMoves : Prop :=
  Lanes .vand .vvv 16 2 (lanes2 16 fun a b => a &&& b) ∧
  Lanes .vor .vvv 16 2 (lanes2 16 fun a b => a ||| b) ∧
  Lanes .vxor .vvv 16 2 (lanes2 16 fun a b => a ^^^ b) ∧
  Lanes .vnot .unaryV 16 2 (lanes1 16 fun a => ~~~a) ∧
  Lanes .vshl .vvv 32 2 (lanes2 32 fun a b => a <<< (b.toNat % 32)) ∧
  Lanes .vshr .vvv 32 2 (lanes2 32 fun a b => a >>> (b.toNat % 32)) ∧
  Lanes .vsra .vvv 32 2 (lanes2 32 fun a b => a.sshiftRight (b.toNat % 32)) ∧
  Lanes .vshli .vvImm31 32 2 (fun g x i => lane 32 (x.v g.a) i <<< g.b.toNat) ∧
  Lanes .vshri .vvImm31 32 2 (fun g x i => lane 32 (x.v g.a) i >>> g.b.toNat) ∧
  Lanes .vsrai .vvImm31 32 2 (fun g x i => (lane 32 (x.v g.a) i).sshiftRight g.b.toNat) ∧
  Lanes .vbcastW .vs 32 3 (fun g x _ => (x.s g.a).setWidth 32) ∧
  Lanes .vbcastH .vs 16 3 (fun g x _ => (x.s g.a).setWidth 16) ∧
  Lanes .vbcastB .vs 8 3 (fun g x _ => (x.s g.a).setWidth 8) ∧
  Lanes .vmov .unaryV 16 2 (lanes1 16 fun a => a) ∧
  Lanes .viotaW .vs 32 3 (fun g x i => (x.s g.a).setWidth 32 + BitVec.ofNat 32 i) ∧
  Lanes .vpermW .vvv 32 3 (fun g x i => lane 32 (x.v g.a) ((lane 32 (x.v g.b) i).toNat % 64)) ∧
  Lanes .vpermH .vvv 16 3 (fun g x j => lane 16 (x.v g.a) ((lane 16 (x.v g.b) j).toNat % 128)) ∧
  Lanes .vrot .vvs 16 3 (fun g x j =>
    let byte (i : Nat) : BitVec 8 := lane 8 (x.v g.a) ((i + (x.s g.b).toNat) % 256)
    byte (2 * j + 1) ++ byte (2 * j)) ∧
  (∀ (g : G) (s : State), Runs .vvv g s → ∃ v : Vec, exec (.vsel g) s = .next (s.later 2 (.v g.d v) 0) ∧
    ∀ j < 128, lane 16 v j = if s.me.governs g 16 j then lane 16 (s.me.v g.a) j else lane 16 (s.me.v g.b) j) ∧
  (∀ (g : G) (s : State), Runs .plainSvs g s → exec (.vextW g) s = .next
    (if (s.me.s g.b).toNat ≤ 63 then s.later 3 (.s g.d ((lane 32 (s.me.v g.a) (s.me.s g.b).toNat).signExtend 64)) 0
    else s.trapped 2 (State.slotOp.wordOf 0x98 g) (trap 0x06))) ∧
  (∀ (g : G) (s : State), Runs .vss g s → if 63 < (s.me.s g.b).toNat
    then exec (.vinsW g) s = .next (s.trapped 2 (State.slotOp.wordOf 0x99 g) (trap 0x06))
    else ∃ v : Vec, exec (.vinsW g) s = .next (s.later 3 (.v g.d v) 0) ∧ ∀ i < 64, lane 32 v i =
      if i = (s.me.s g.b).toNat ∧ s.me.governs g 32 i = true then (s.me.s g.a).setWidth 32 else lane 32 (s.me.v g.d) i)

/-- R121: instructions on lane masks, two cycles after issue. -/
def Obligations.Masks : Prop :=
  Later .kand .plainKkk 2 (fun g x => .k g.pd (x.k g.pa &&& x.k g.pb)) ∧
  Later .kor .plainKkk 2 (fun g x => .k g.pd (x.k g.pa ||| x.k g.pb)) ∧
  Later .kxor .plainKkk 2 (fun g x => .k g.pd (x.k g.pa ^^^ x.k g.pb)) ∧
  Later .knot .plainKk 2 (fun g x => .k g.pd (~~~(x.k g.pa))) ∧
  Later .kpop .plainSk 2 (fun g x => .s g.d (BitVec.ofNat 64 ((List.range 128).filter fun i => (x.k g.pa).getLsbD i).length)) ∧
  Later .kset .plainKss 2 (fun g x => .k g.pd (x.s g.b ++ x.s g.a)) ∧
  Later .kget .plainSkImm1 2 (fun g x => .s g.d ((x.k g.pa).extractLsb' (if g.b = 0 then 0 else 64) 64))

/-- The number of lane i of a register. -/
def num (w : Nat) (v : Vec) (i : Nat) : Nat := (lane w v i).toNat

/-- The rows of R172 to R174 in one format: arithmetic, minimum and maximum, sign operations, compares. -/
def FloatRows (F : Fmt) (add sub mul fma fms min max abs neg eq lt le : G → Instr) : Prop :=
  let two (f : Nat → Nat → Lane) (g : G) (x : Ctx) (i : Nat) : Lane := f (num F.width (x.v g.a) i) (num F.width (x.v g.b) i)
  let three (f : Nat → Nat → Nat → Lane) (g : G) (x : Ctx) (i : Nat) : Lane :=
    f (num F.width (x.v g.a) i) (num F.width (x.v g.b) i) (num F.width (x.v g.d) i)
  let test (i : G → Instr) (f : Nat → Nat → Cmp) : Prop := ∀ (g : G) (s : State), Runs .kvv g s →
    let c (n : Nat) : Cmp := f (num F.width (s.me.v g.a) n) (num F.width (s.me.v g.b) n)
    ∃ (m : KMask) (fl : Flags), exec (i g) s = .next (s.later 2 (.k g.pd m) fl) ∧
      (∀ j < 128, m.getLsbD j = true ↔ let n := if F.width = 32 then j / 2 else j
        s.me.governs g F.width n = true ∧ (c n).res = true) ∧
      ∀ b < 5, fl.getLsbD b = true ↔ ∃ n < 2048 / F.width, s.me.governs g F.width n = true ∧ (c n).flags.getLsbD b = true
  FloatLanes add .vvv F.width 4 (two F.add) ∧ FloatLanes sub .vvv F.width 4 (two F.sub) ∧
  FloatLanes mul .vvv F.width 4 (two F.mul) ∧ FloatLanes fma .vvvD F.width 4 (three F.fma) ∧
  FloatLanes fms .vvvD F.width 4 (three F.fms) ∧ FloatLanes min .vvv F.width 4 (two F.min) ∧
  FloatLanes max .vvv F.width 4 (two F.max) ∧
  Lanes abs .unaryV F.width 2 (lanes1 F.width fun a => a &&& ~~~(BitVec.twoPow F.width (F.width - 1))) ∧
  Lanes neg .unaryV F.width 2 (lanes1 F.width fun a => a ^^^ BitVec.twoPow F.width (F.width - 1)) ∧
  test eq F.cmpEq ∧ test lt F.cmpLt ∧ test le F.cmpLe

/-- R172 to R174: vector floating-point arithmetic, sign operations and compares in f32, f16 and bf16, with their flags. -/
def Obligations.VectorFloat : Prop :=
  FloatRows f32 .vfadd .vfsub .vfmul .vfma .vfms .vfmin .vfmax .vfabs .vfneg .vfcmpEq .vfcmpLt .vfcmpLe ∧
  FloatRows f16 .vfaddF16 .vfsubF16 .vfmulF16 .vfmaF16 .vfmsF16 .vfminF16 .vfmaxF16 .vfabsF16 .vfnegF16 .vfcmpEqF16 .vfcmpLtF16
    .vfcmpLeF16 ∧
  FloatRows bf16 .vfaddBf16 .vfsubBf16 .vfmulBf16 .vfmaBf16 .vfmsBf16 .vfminBf16 .vfmaxBf16 .vfabsBf16 .vfnegBf16 .vfcmpEqBf16
    .vfcmpLtBf16 .vfcmpLeBf16

/-- R175 to R177: transcendentals, conversions, and stochastic rounding under the old halfwords of vD. Transcendentals: log 19. -/
def Obligations.VectorConversions : Prop :=
  let src (g : G) (x : Ctx) (j : Nat) : Nat := if j < 64 then num 32 (x.v g.a) j else num 32 (x.v g.b) (j - 64)
  let toInt (m : Mode) (g : G) (x : Ctx) (i : Nat) : Lane :=
    ⟨(f32.toInt m 32 (num 32 (x.v g.a) i)).1.toNat, (f32.toInt m 32 (num 32 (x.v g.a) i)).2⟩
  FloatLanes .vrcp .unaryV 32 10 (fun g x i => rcpF32 (num 32 (x.v g.a) i)) ∧
  FloatLanes .vrsqrt .unaryV 32 10 (fun g x i => rsqrtF32 (num 32 (x.v g.a) i)) ∧
  FloatLanes .vexp2 .unaryV 32 10 (fun g x i => exp2F32 (num 32 (x.v g.a) i)) ∧
  FloatLanes .vlog2 .unaryV 32 10 (fun g x i => log2F32 (num 32 (x.v g.a) i)) ∧
  FloatLanes .vcvtF16F32 .vvv 16 3 (fun g x j => f32.convert f16 .rne (src g x j)) ∧
  FloatLanes .vcvtBf16F32 .vvv 16 3 (fun g x j => f32.convert bf16 .rne (src g x j)) ∧
  FloatLanes .vcvtF32F16 .vvImm1 32 3 (fun g x i => f16.convert f32 .rne (num 16 (x.v g.a) (64 * g.b.toNat + i))) ∧
  FloatLanes .vcvtF32Bf16 .vvImm1 32 3 (fun g x i => bf16.convert f32 .rne (num 16 (x.v g.a) (64 * g.b.toNat + i))) ∧
  FloatLanes .vcvtI32F32 .unaryV 32 3 (toInt .rne) ∧
  FloatLanes .vcvtI32F32Rz .unaryV 32 3 (toInt .rtz) ∧
  FloatLanes .vcvtF32I32 .unaryV 32 3 (fun g x i => f32.ofInt (lane 32 (x.v g.a) i).toInt) ∧
  FloatLanes .vsrBf16F32 .vvvD 16 6 (fun g x j => f32.convert bf16 (.sr (num 16 (x.v g.d) j)) (src g x j)) ∧
  FloatLanes .vsrF16F32 .vvvD 16 6 (fun g x j => f32.convert f16 (.sr (num 16 (x.v g.d) j)) (src g x j))

/-- R179: four blocks of 32 inputs, quantised by R168 and laid out by R178, every byte outside the layout 0. -/
def Quantises (i : G → Instr) (h : Shape) (F : MxFmt) (stoch : Bool) (c : State → Prop) : Prop :=
  ∀ (g : G) (s : State), Runs h g s → c s →
    let input (m : Nat) : Val := f32.value (if m < 64 then num 32 (s.me.v g.a) m else num 32 (s.me.v g.b) (m - 64))
    let mode (m : Nat) : Mode := if stoch then .sr (num 16 (s.me.v g.d) m) else .rne
    let block (b : Nat) : List Nat × Nat × Bool := F.block (fun k => mode (32 * b + k)) ((List.range 32).map fun k => input (32 * b + k))
    let elems (b : Nat) : Nat := ((block b).1.zipIdx.map fun e => e.1 * 2 ^ (F.w * e.2)).sum
    ∃ v : Vec, exec (i g) s = .next (s.later 6 (.v g.d v) (if (List.range 4).any (fun b => (block b).2.2) then fNX else 0)) ∧
      v = BitVec.ofNat 2048 ((List.range 4).map fun b => elems b * 2 ^ (32 * F.w * b) + (block b).2.1 * 2 ^ (8 * (252 + b))).sum

/-- R180: 64 f32 lanes from two blocks of the register layout. -/
def Dequantises (i : G → Instr) (F : MxFmt) (c : State → Prop) : Prop :=
  ∀ (g : G) (s : State), Runs .vvImm1 g s → c s →
    let value (n : Nat) : Lane :=
      let b := 2 * g.b.toNat + n / 32
      let code := (s.me.v g.a).toNat / 2 ^ (32 * F.w * b + F.w * (n % 32)) % 2 ^ F.w
      let scale := (s.me.v g.a).toNat / 2 ^ (8 * (252 + b)) % 256
      f32.finish .rne (if scale = 0xFF then .nan false else (F.value code).shift ((scale : Int) - 127)) false
    ∃ (v : Vec) (fl : Flags), exec (i g) s = .next (s.later 4 (.v g.d v) fl) ∧
      (∀ n < 64, lane 32 v n = if s.me.governs g 32 n then BitVec.ofNat 32 (value n).bits else lane 32 (s.me.v g.d) n) ∧
      ∀ b < 5, fl.getLsbD b = true ↔ ∃ n < 64, s.me.governs g 32 n = true ∧ (value n).flags.getLsbD b = true

/-- R44: an instruction of an absent extension raises EXTOP with its sources, once they are full. -/
def AbsentVector (i : G → Instr) (op : BitVec 8) (h : Shape) : Prop :=
  ∀ (g : G) (s : State), Runs h g s → s.mx6 = false →
    exec (i g) s = .next (s.trapped 2 (State.slotOp.wordOf op g) ⟨0x02, s.me.low64 (.v g.a), s.me.low64 (.v g.b), []⟩)

/-- R179, R180: quantisation to and from MX blocks; the 6-bit formats only while FEAT_LO.MX6 is 1 (R44). An absent `vdqmx`: log 36. -/
def Obligations.MxConversions : Prop :=
  let always (_ : State) : Prop := True
  let mx6 (s : State) : Prop := s.mx6 = true
  Quantises .vqmxE4m3 .plainVvv mxE4m3 false always ∧ Quantises .vqmxE5m2 .plainVvv mxE5m2 false always ∧
  Quantises .vqmxE3m2 .plainVvv mxE3m2 false mx6 ∧ Quantises .vqmxE2m3 .plainVvv mxE2m3 false mx6 ∧
  Quantises .vqmxE2m1 .plainVvv mxE2m1 false always ∧ Quantises .vqmxMxi8 .plainVvv mxI8 false always ∧
  Quantises .vqmxSrE4m3 .plainVvvD mxE4m3 true always ∧ Quantises .vqmxSrE5m2 .plainVvvD mxE5m2 true always ∧
  Quantises .vqmxSrE3m2 .plainVvvD mxE3m2 true mx6 ∧ Quantises .vqmxSrE2m3 .plainVvvD mxE2m3 true mx6 ∧
  Quantises .vqmxSrE2m1 .plainVvvD mxE2m1 true always ∧ Quantises .vqmxSrMxi8 .plainVvvD mxI8 true always ∧
  Dequantises .vdqmxE4m3 mxE4m3 always ∧ Dequantises .vdqmxE5m2 mxE5m2 always ∧
  Dequantises .vdqmxE3m2 mxE3m2 mx6 ∧ Dequantises .vdqmxE2m3 mxE2m3 mx6 ∧
  Dequantises .vdqmxE2m1 mxE2m1 always ∧ Dequantises .vdqmxMxi8 mxI8 always ∧
  AbsentVector .vqmxE3m2 0x7B .plainVvv ∧ AbsentVector .vqmxE2m3 0x7C .plainVvv ∧
  AbsentVector .vqmxSrE3m2 0x82 .plainVvvD ∧ AbsentVector .vqmxSrE2m3 0x83 .plainVvvD ∧
  AbsentVector .vdqmxE3m2 0x8A .absentVdqmx ∧ AbsentVector .vdqmxE2m3 0x8B .absentVdqmx

/-- R168: a block with an input that is no number has scale 0xFF and codes 0; otherwise the scale byte is e + 127 for the
rule's e, all of ±0 giving e = −127. -/
def Obligations.BlockScale : Prop :=
  ∀ F ∈ [mxE4m3, mxE5m2, mxE3m2, mxE2m3, mxE2m1, mxI8], ∀ (mode : Nat → Mode) (vs : List Val), vs.length = 32 →
    ((∃ v ∈ vs, v.isFin = false) → F.block mode vs = (List.replicate 32 0, 0xFF, false)) ∧
    ((∀ v ∈ vs, v.isFin = true) →
      (F.block mode vs).1.length = 32 ∧
      ((∀ v ∈ vs, ∃ n e, v = .fin n 0 e) → (F.block mode vs).2.1 = 0) ∧
      (∀ top : Int, (∃ n m e, .fin n m e ∈ vs ∧ m ≠ 0 ∧ topBit m e = top) → (∀ n m e, .fin n m e ∈ vs → m ≠ 0 → topBit m e ≤ top) →
        ((F.block mode vs).2.1 : Int) = max (-127) (min 127 (top - F.emax)) + 127))

/-- R182: the pairwise tree over all 64 lanes; its value goes to the governed lanes, its flags come whatever the mask. -/
def Reduces (i : G → Instr) (f : Nat → Nat → Lane) : Prop :=
  ∀ (g : G) (s : State), Runs .unaryV g s →
    let x := treeValue f (s.me.v g.a)
    ∃ (v : Vec) (fl : Flags), exec (i g) s = .next (s.later 8 (.v g.d v) fl) ∧
      (∀ n < 64, lane 32 v n = if s.me.governs g 32 n then BitVec.ofNat 32 (x 6 0) else lane 32 (s.me.v g.d) n) ∧
      ∀ b < 5, fl.getLsbD b = true ↔ ∃ l < 6, ∃ k < 2 ^ (5 - l), (f (x l (2 * k)) (x l (2 * k + 1))).flags.getLsbD b = true

/-- R183: the doubling order. -/
def Scans (i : G → Instr) (f : Nat → Nat → Lane) : Prop :=
  ∀ (g : G) (s : State), Runs .unaryV g s →
    let x := scanValue f (s.me.v g.a)
    ∃ (v : Vec) (fl : Flags), exec (i g) s = .next (s.later 8 (.v g.d v) fl) ∧
      (∀ n < 64, lane 32 v n = if s.me.governs g 32 n then BitVec.ofNat 32 (x 6 n) else lane 32 (s.me.v g.d) n) ∧
      ∀ b < 5, fl.getLsbD b = true ↔ ∃ l < 6, ∃ k < 64, 2 ^ l ≤ k ∧ (f (x l (k - 2 ^ l)) (x l k)).flags.getLsbD b = true

/-- R155, R182, R183: reductions and scans. -/
def Obligations.ReductionsScans : Prop :=
  let sum (a b : Nat) : Lane := ⟨(a + b) % 2 ^ 32, 0⟩
  let top (a b : Nat) : Lane := ⟨if (BitVec.ofNat 32 a).toInt < (BitVec.ofNat 32 b).toInt then b else a, 0⟩
  Reduces .vredAddF32 f32.add ∧ Reduces .vredMaxF32 f32.max ∧ Reduces .vredMinF32 f32.min ∧ Reduces .vredAddI32 sum ∧
  Scans .vscanAddF32 f32.add ∧ Scans .vscanMaxI32 top ∧ Scans .vscanAddI32 sum

/-- R162, R181: the two lane orders; every bit above the blocks is copied. -/
def Obligations.LaneOrder : Prop :=
  ∀ (g : G) (s : State), Runs .plainVvImm2 g s → g.b.toNat ≤ 2 →
    let w := if g.b.toNat = 0 then 8 else if g.b.toNat = 1 then 6 else 4
    let place (order : Bool) (b e : Nat) : Nat := 32 * w * b + if !order || w = 8 then w * e
      else if w = 6 then 24 * (e % 8) + 6 * (e / 8) else 8 * (e % 16) + 4 * (e / 16)
    let moves (t : Bool) (v u : Vec) : Prop :=
      (∀ b < 4, ∀ e < 32, v.toNat / 2 ^ place t b e % 2 ^ w = u.toNat / 2 ^ place (!t) b e % 2 ^ w) ∧
      v.toNat / 2 ^ (128 * w) = u.toNat / 2 ^ (128 * w)
    (∃ v : Vec, exec (.vlane g) s = .next (s.later 3 (.v g.d v) 0) ∧ moves true v (s.me.v g.a)) ∧
    (∃ v : Vec, exec (.vunlane g) s = .next (s.later 3 (.v g.d v) 0) ∧ moves false v (s.me.v g.a))

/-! Slot 4. -/

/-- An operand of slot 4: sA plus field B in units, a 64-bit sum. -/
def operandAt (g : G) (x : Ctx) (unit : Nat) : Nat := (x.s g.a + BitVec.ofNat 64 (g.b.toNat * unit)).toNat

/-- A slot 4 instruction on ranges, whenever it runs: it acts in the state s in which the context's earlier pieces that come before
it have been performed (R136, R140, R141) and no `acq` atomic is out (R143); a check that fails takes its trap, else `result`
follows. -/
def Slot4 (i : G → Instr) (op : BitVec 8) (h : Shape) (kind : Acc4) (rs : G → Ctx → List (Nat × Nat)) (check : G → State → Option SlotFault)
    (result : G → State → State → Prop) : Prop :=
  ∀ (g : G) (u : State),
    let s := u.reached h g kind (rs g)
    Runs h g s → s.acqOut s.cur = false →
      (∀ f, check g s = some f → exec (i g) u = .next (s.fails 4 (State.slotOp.wordOf op g) f)) ∧
      (check g s = none → s.LocalForm → ∃ t, exec (i g) u = .next t ∧ result g s t)

/-- A read of ranges has no effect but STATUS.VAC where a byte is vacant, and a result in flight (R70, R73). -/
def ReadsInto (rs : G → Ctx → List (Nat × Nat)) (lat : Nat) (result : G → State → RVal → Prop) (g : G) (s t : State) : Prop :=
  let vacant : Bool := !isCtl s.cur.core && (rs g s.me).any fun r => (List.range r.2).any fun i => !(s.core s.cur.core).mem.has (r.1 + i)
  ∃ v, result g s v ∧ OnlyLocal s t ∧ SameBytes s t ∧
    t.ctx s.cur = ((s.me.onward s.cycle 0).orStatus (if vacant then stVac else 0)).await v 0 (s.cycle + lat)

/-- Bytes are written; the context goes on. -/
def Writes (ws : G → Ctx → List (Nat × List Byte)) (g : G) (s t : State) : Prop :=
  Wrote (ws g s.me) s t ∧ t.ctx s.cur = s.me.onward s.cycle 0

/-- R73, R77, R298: scalar loads and stores. -/
def Obligations.ScalarLoadsStores : Prop :=
  let rs (n : Nat) (g : G) (x : Ctx) : List (Nat × Nat) := [(operandAt g x n, n)]
  let check (kind : Acc4) (n : Nat) (g : G) (s : State) : Option SlotFault := s.checks4 s.me kind n (operandAt g s.me n) n
  let ld (i : G → Instr) (op : BitVec 8) (n : Nat) (ext : Nat → W64) : Prop :=
    Slot4 i op .ldS .load (rs n) (check .load n) (ReadsInto (rs n) 5 fun g s v =>
      v = .s g.d (ext (leNat (s.bytesAt s.cur.core (operandAt g s.me n) n))))
  let st (i : G → Instr) (op : BitVec 8) (n : Nat) : Prop :=
    Slot4 i op .stS .store (rs n) (check .store n) (Writes fun g x => [(operandAt g x n, leBytes n (x.s g.d).toNat)])
  let sext (w v : Nat) : W64 := (BitVec.ofNat w v).signExtend 64
  ld .ldB 0x01 1 (sext 8) ∧ ld .ldH 0x02 2 (sext 16) ∧ ld .ldW 0x03 4 (sext 32) ∧ ld .ldD 0x04 8 (sext 64) ∧
  ld .ldBz 0x05 1 (BitVec.ofNat 64) ∧ ld .ldHz 0x06 2 (BitVec.ofNat 64) ∧ ld .ldWz 0x07 4 (BitVec.ofNat 64) ∧
  st .stB 0x08 1 ∧ st .stH 0x09 2 ∧ st .stW 0x0A 4 ∧ st .stD 0x0B 8

/-- R78: contiguous vector loads and stores. -/
def Obligations.VectorLoadsStores : Prop :=
  let rs (n : Nat) (g : G) (x : Ctx) : List (Nat × Nat) := [(operandAt g x n, n)]
  let check (kind : Acc4) (n align : Nat) (g : G) (s : State) : Option SlotFault := s.checks4 s.me kind align (operandAt g s.me n) n
  let ld (i : G → Instr) (op : BitVec 8) (n align : Nat) : Prop :=
    Slot4 i op .ldV .load (rs n) (check .load n align) (ReadsInto (rs n) 7 fun g s v => ∃ y : Vec, v = .v g.d y ∧
      ∀ b < 256, lane 8 y b = if b < n then s.byteAt s.cur.core (operandAt g s.me n + b) else 0)
  let st (i : G → Instr) (op : BitVec 8) (n align : Nat) : Prop :=
    Slot4 i op .stV .store (rs n) (check .store n align) (Writes fun g x => [(operandAt g x n, leBytes n (x.v g.d).toNat)])
  ld .vld 0x10 256 32 ∧ ld .vldO 0x11 32 32 ∧ ld .vldQ 0x12 16 16 ∧ st .vst 0x13 256 32 ∧ st .vstO 0x14 32 32 ∧ st .vstQ 0x15 16 16

/-- R79, R80: strided loads, gather and scatter; a scatter's lanes are written in ascending order. -/
def Obligations.IndexedAccess : Prop :=
  let stride (n count : Nat) (g : G) (x : Ctx) : List (Nat × Nat) :=
    (List.range count).map fun i => ((x.s g.a + BitVec.ofNat 64 i * x.s g.b).toNat, n)
  let index (g : G) (x : Ctx) : List (Nat × Nat) :=
    (List.range 64).map fun i => ((x.s g.a + (lane 32 (x.v g.b) i).zeroExtend 64).toNat, 4)
  let indexOk (g : G) (x : Ctx) : Bool := (x.s g.a).toNat % 4 == 0 && (List.range 64).all fun i => (lane 32 (x.v g.b) i).toNat % 4 == 0
  let ld (i : G → Instr) (op : BitVec 8) (h : Shape) (rs : G → Ctx → List (Nat × Nat)) (ok : G → Ctx → Bool) (limit n : Nat) : Prop :=
    Slot4 i op h .load rs (fun g s => s.elemChecks s.me .load (ok g s.me) (rs g s.me) limit) (ReadsInto rs 9 fun g s v => ∃ y : Vec, v = .v g.d y ∧
      ∀ k < 256 / n, ∀ b < n, lane 8 y (n * k + b) = s.byteAt s.cur.core (((rs g s.me).getD k (0, 0)).1 + b))
  let strideOk (n : Nat) (g : G) (x : Ctx) : Bool := (x.s g.a).toNat % n == 0 && (x.s g.b).toNat % n == 0
  ld .vldsW 0x16 .ldVss (stride 4 64) (strideOk 4) 2 4 ∧
  ld .vldsH 0x17 .ldVss (stride 2 128) (strideOk 2) 4 2 ∧
  ld .vldxW 0x18 .ldVsv index indexOk 2 4 ∧
  Slot4 .vstxW 0x19 .stVsv .store index (fun g s => s.elemChecks s.me .store (indexOk g s.me) (index g s.me) 2)
    (Writes fun g x => (List.range 64).map fun i => ((x.s g.a + (lane 32 (x.v g.b) i).zeroExtend 64).toNat, leBytes 4 (lane 32 (x.v g.d) i).toNat))

/-- R88: local atomics. The old value returns; the new one is written at commit, and what waits on the core re-tests (R257). -/
def Obligations.LocalAtomics : Prop :=
  let amo (i : G → Instr) (op : BitVec 8) (h : Shape) (n : Nat) (new : G → Ctx → Nat → Option Nat) : Prop :=
    Slot4 i op h .atomic (fun g x => [((x.s g.a).toNat, n)]) (fun g s => s.checks4 s.me .atomic n (s.me.s g.a).toNat n) fun g s t =>
      let a := (s.me.s g.a).toNat
      let old := leNat (s.bytesAt s.cur.core a n)
      ∃ p, Wrote ((new g s.me old).map fun v => (a, leBytes n v)).toList s p ∧
        p.ctx s.cur = (s.me.onward s.cycle 0).await (.s g.d (BitVec.ofNat 64 old)) 0 (s.cycle + 8) ∧ t = p.retestCore s.cur.core
  amo .amoAddW 0x30 .sss 4 (fun g x old => some ((old + (x.s g.b).toNat) % 2 ^ 32)) ∧
  amo .amoAddD 0x31 .sss 8 (fun g x old => some ((old + (x.s g.b).toNat) % 2 ^ 64)) ∧
  amo .amoMaxD 0x32 .sss 8 (fun g x old => some (if (BitVec.ofNat 64 old).toInt < (x.s g.b).toInt then (x.s g.b).toNat else old)) ∧
  amo .amoXchgD 0x33 .sss 8 (fun g x _ => some (x.s g.b).toNat) ∧
  amo .amoCasD 0x34 .sssD 8 (fun g x old => if old = (x.s g.d).toNat then some (x.s g.b).toNat else none)

/-- R6, R7, R81 to R83: a stream operation is issued; both ranges are locked (R72), sD is empty until it ends. A stopped one: log 57. -/
def Obligations.StreamIssue : Prop :=
  let stream (i : G → Instr) (op : BitVec 8) (kind : StreamKind) (n : Nat) : Prop :=
    ∀ (g : G) (u : State),
      let s := u.reached .sssD g .load fun x => if 4096 < (x.s g.d).toNat then [] else
        [((x.s g.a).toNat, (x.s g.d).toNat * n), ((x.s g.b).toNat, (x.s g.d).toNat * n)]
      let count := (s.me.s g.d).toNat
      let src := (s.me.s g.a).toNat
      let dst := (s.me.s g.b).toNat
      let st : Stream := ⟨kind, n, s.cur.core, src, s.cur.core, dst, count, 0, g.d, s.cycle + 4, false, .locked, .locked, 0, 0, 0, false⟩
      Runs .sssD g s → s.acqOut s.cur = false →
      (s.me.stream.isSome = true → exec (i g) u = .next s) ∧
      (s.me.stream = none →
        (∀ f, (s.core s.cur.core).streamChecks s.me n count src dst = some f →
          exec (i g) u = .next (s.fails 4 (State.slotOp.wordOf op g) f)) ∧
        ((s.core s.cur.core).streamChecks s.me n count src dst = none →
          exec (i g) u = .next ((s.onward.modCtx s.cur fun x => { x.mark (.s g.d) false with stream := some st }).modCore
            s.cur.core fun k => (k.lock s.me.node src (count * n)).lock s.me.node dst (count * n))))
  stream .smvH 0x20 .smv 2 ∧ stream .smvW 0x21 .smv 4 ∧ stream .smvD 0x22 .smv 8 ∧ stream .sdup 0x23 .sdup 2

/-- R84: `vtake` returns 256 bytes, which are then vacant. -/
def Obligations.Take : Prop :=
  let rs (g : G) (x : Ctx) : List (Nat × Nat) := [(operandAt g x 256, 256)]
  Slot4 .vtake 0x26 .ldV .take rs (fun g s => s.checks4 s.me .take 32 (operandAt g s.me 256) 256) fun g s t =>
    isCtl s.cur.core = false →
    let a := operandAt g s.me 256
    let vacant : Bool := (List.range 256).any fun i => !(s.core s.cur.core).mem.has (a + i)
    ∃ y : Vec, OnlyLocal s t ∧ (∀ b < 256, lane 8 y b = s.byteAt s.cur.core (a + b)) ∧
      t.ctx s.cur = ((s.me.onward s.cycle 0).orStatus (if vacant then stVac else 0)).await (.v g.d y) 0 (s.cycle + 7) ∧
      (∀ c b, t.byteAt c b = if c = s.cur.core ∧ a ≤ b ∧ b < a + 256 then 0xFF else s.byteAt c b) ∧
      (∀ b, (t.core s.cur.core).mem.has b = (!decide (a ≤ b ∧ b < a + 256) && (s.core s.cur.core).mem.has b)) ∧
      (∀ b, (t.core s.cur.core).mem.poisoned b = (s.core s.cur.core).mem.poisoned b)

/-- R85: `vac` vacates a range; nothing else changes but the poison of its sectors. With an uncorrectable word partly in the
range, that word is reported as well (R70). An empty range: log 43. -/
def Obligations.Vacate : Prop :=
  ∀ (g : G) (u : State),
    let s := u.reached .srcAB g .vac fun x => [((x.s g.a).toNat, (x.s g.b).toNat)]
    Runs .srcAB g s → s.acqOut s.cur = false → isCtl s.cur.core = false → s.LocalForm →
    let a := (s.me.s g.a).toNat
    let n := (s.me.s g.b).toNat
    let k := s.core s.cur.core
    (∀ f, k.vacChecks s.me a n = some f → exec (.vac g) u = .next (s.fails 4 (State.slotOp.wordOf 0x24 g) f)) ∧
    (n = 0 → a % 2 = 0 → exec (.vac g) u = .next s.onward) ∧
    (n ≠ 0 → k.vacChecks s.me a n = none → k.mem.foundWrite a n = [] → ∃ t, exec (.vac g) u = .next t ∧ OnlyLocal s t ∧
      t.ctx s.cur = s.me.onward s.cycle 0 ∧
      (∀ c b, t.byteAt c b = if c = s.cur.core ∧ a ≤ b ∧ b < a + n then 0xFF else s.byteAt c b) ∧
      (∀ b, (t.core s.cur.core).mem.has b = (!decide (a ≤ b ∧ b < a + n) && k.mem.has b)) ∧
      (∀ b, ¬(a / 32 ≤ b / 32 ∧ b / 32 ≤ (a + n - 1) / 32) → (t.core s.cur.core).mem.poisoned b = k.mem.poisoned b)) ∧
    (n ≠ 0 → k.vacChecks s.me a n = none → exec (.vac g) u = .next (s.did [.banks (banksOf [(a, n)]), .vacate a n]))

/-- R87: the state tests, five cycles after issue; they read state, whatever else the bytes hold, and change no status bit. -/
def Obligations.StateTests : Prop :=
  (∀ g : G, ((Instr.vtst g).wf = true → g.b = 0 ∧ (encode (.vtst g)).1.extractLsb' 20 8 = 0x25) ∧
    ((Instr.ptst g).wf = true → g.b = 0 ∧ (encode (.ptst g)).1.extractLsb' 20 8 = 0x38)) ∧
  let test (i : G → Instr) (op : BitVec 8) (n : Nat) (bit : Core → Nat → Nat → Bool) : Prop :=
    ∀ (g : G) (u : State),
      let s := u.reached .unaryS g .load fun x => [((x.s g.a).toNat, n)]
      Runs .unaryS g s → s.acqOut s.cur = false →
      let a := (s.me.s g.a).toNat
      (a % n ≠ 0 → exec (i g) u = .next (s.trapped 4 (State.slotOp.wordOf op g) (trap 0x05))) ∧
      (a % n = 0 → (0x800000 < a + n ∨ s.me.ownsRange a n = false) → exec (i g) u = .next (s.trapped 4 (State.slotOp.wordOf op g) (trap 0x06))) ∧
      (a % n = 0 → a + n ≤ 0x800000 → s.me.ownsRange a n = true →
        ∃ v : W64, exec (i g) u = .next (s.later 5 (.s g.d v) 0) ∧ ∀ j < 64, v.getLsbD j = bit (s.core s.cur.core) a j)
  test .vtst 0x25 128 (fun k a j => !k.mem.has (a + 2 * j) || k.pending (a + 2 * j)) ∧
  test .ptst 0x38 2048 (fun k a j => k.mem.poisoned (a + 32 * j))

/-- R73, R76: the order of the checks of one range of local memory, and what each finds, by the states of its bytes; R298: those of
control memory. The trap's code is named. -/
def Obligations.AccessChecks : Prop :=
  ∀ (s : State) (kind : Acc4) (align a n : Nat), s.LocalForm →
    let k := s.core s.cur.core
    let some_ (p : Nat → Bool) : Bool := (List.range n).any fun i => p (a + i)
    let code := (s.checks4 s.me kind align a n).map (·.code)
    let reads : Bool := kind == .load || kind == .take || kind == .atomic
    (isCtl s.cur.core = true → code =
      if a % align ≠ 0 then some 0x05
      else if 0x100000 < a + n ∨ (kind ≠ .load ∧ 0x80000 < a + n) then some 0x06 else none) ∧
    (isCtl s.cur.core = false → 0 < n → code =
      if a % align ≠ 0 then some 0x05
      else if 0x800000 < a + n then some 0x06
      else if s.me.ownsRange a n = false then some 0x06
      else if kind ≠ .vac ∧ (some_ k.mem.poisoned = true ∨
        (if reads then k.mem.foundRead a n ≠ [] else k.mem.foundWrite a n ≠ [])) then some 0x08
      else if some_ (fun b => match kind with
          | .load => false
          | .atomic => k.pending b || k.inTransit b || (k.locked b && k.mem.has b)
          | _ => k.pending b || k.inTransit b || k.locked b) = true then some 0x10
      else if kind ≠ .load ∧ some_ k.held = true then some 0x09
      else if (kind = .atomic ∨ (s.me.vtrap = true ∧ (kind = .load ∨ kind = .take))) ∧ some_ (fun b => !k.mem.has b) = true then some 0x07
      else none)

/-! Slot 0. -/

/-- A slot word of a form of its own issues alone: no bundle is open, its guard is full and enables it, the registers it names are
full (R16, R26). -/
structure Issues (n : Bool) (p : BitVec 3) (rs : List Reg) (s : State) : Prop where
  closed : s.issue = Issue.closed
  guard : s.me.isFull (.p p) = true
  on : s.me.p p ≠ n
  full : ∀ r ∈ rs, s.me.isFull r = true

/-- What the commit of a bundle without generator words does to its context but for choosing the next bundle (R65, R101). -/
def bundleOver (x : Ctx) (cycle : Nat) : Ctx :=
  { x with emul := 0, replayAt := if x.replay && x.replayAt.isNone then some cycle else x.replayAt }

/-- The bundle stands at the end address of the innermost loop. -/
def atEndOfLoop (x : Ctx) : Prop := ∃ e es, x.loops = e :: es ∧ e.stop = x.pc

/-- R54, R55: the four branches. The delay bundle is next and then the target; the link is the address after the delay bundle. ILLOP where RANGE applies too: log 58. -/
def Obligations.Branches : Prop :=
  let taken (s : State) (t : Nat) (link : List (BitVec 6)) : State := s.modCtx s.cur fun x =>
    link.foldl (fun y d => y.write (.s d ((x.pc + 2).zeroExtend 64))) { bundleOver x s.cycle with pc := x.pc + 1, npc := some (BitVec.ofNat 15 t) }
  let branch (s : State) (out : Out) (word : SlotWord) (t : Nat) (link : List (BitVec 6)) : Prop :=
    ((s.me.npc.isSome = true ∨ atEndOfLoop s.me) → out = .next (s.trapped 0 word (trap 0x01))) ∧
    (s.me.npc = none → ¬atEndOfLoop s.me →
      (topOf s.cur.core ≤ t → out = .next (s.trapped 0 word (trap 0x06))) ∧
      (t < topOf s.cur.core → out = .next (taken s t link)))
  let wordJ (op : BitVec 8) (j : J) : SlotWord := BitVec.ofBool j.n ++ j.p ++ op ++ j.t
  (∀ j s, Issues j.n j.p [] s → branch s (exec (.br j) s) (wordJ 0x01 j) j.t.toNat []) ∧
  (∀ j s, Issues j.n j.p [.s 62] s → branch s (exec (.brl j) s) (wordJ 0x02 j) j.t.toNat [62]) ∧
  (∀ g s, Runs .srcA g s → branch s (exec (.bri g) s) (State.slotOp.wordOf 0x03 g) (s.me.s g.a).toNat []) ∧
  (∀ g s, Runs .unaryS g s → branch s (exec (.bril g) s) (State.slotOp.wordOf 0x04 g) (s.me.s g.a).toNat [g.d])

/-- R57: the loop instructions. The model's readings: log 37. -/
def Obligations.Loops : Prop :=
  let loop (s : State) (out : Out) (word : SlotWord) (e n : Nat) : Prop :=
    (s.me.npc.isSome = true → out = .next (s.trapped 0 word (trap 0x01))) ∧
    (s.me.npc = none →
      (n = 0 → out = .next (s.modCtx s.cur fun x => { bundleOver x s.cycle with pc := BitVec.ofNat 15 (x.pc.toNat + e + 1) })) ∧
      (n ≠ 0 → (2 ^ 32 ≤ n ∨ 4 ≤ s.me.loops.length) → out = .next (s.trapped 0 word (trap 0x06))) ∧
      (n ≠ 0 → n < 2 ^ 32 → s.me.loops.length < 4 → out = .next (s.modCtx s.cur fun x =>
        { bundleOver x s.cycle with pc := x.pc + 1, loops := ⟨x.pc + 1, BitVec.ofNat 15 (x.pc.toNat + e), BitVec.ofNat 32 n⟩ :: x.loops })))
  (∀ l s, Issues l.n l.p [.s l.c] s →
    loop s (exec (.lp l) s) (BitVec.ofBool l.n ++ l.p ++ (0x05 : BitVec 8) ++ l.c ++ l.e) l.e.toNat (s.me.s l.c).toNat) ∧
  (∀ l s, Issues l.n l.p [] s →
    loop s (exec (.lpi l) s) (BitVec.ofBool l.n ++ l.p ++ (0x06 : BitVec 8) ++ l.c ++ l.e) l.e.toNat (if l.c = 0 then 1024 else l.c.toNat)) ∧
  (∀ g s, Runs .bare g s →
    (s.me.npc.isSome = true → exec (.lpx g) s = .next (s.trapped 0 (State.slotOp.wordOf 0x07 g) (trap 0x01))) ∧
    (s.me.npc = none → s.me.loops = [] → exec (.lpx g) s = .next (s.trapped 0 (State.slotOp.wordOf 0x07 g) (trap 0x06))) ∧
    (∀ e es, s.me.npc = none → s.me.loops = e :: es →
      exec (.lpx g) s = .next (s.modCtx s.cur fun x => bundleOver ({ x with loops := es } : Ctx).ahead s.cycle)))

/-- The special registers and the value each holds in a context of a state (R58 to R62, R43). -/
def specials (s : State) : List (Nat × W64) :=
  let x := s.me
  [(0x000, x.spec.status), (0x001, x.spec.fflags), (0x002, x.spec.trapinfo), (0x003, x.spec.trappc), (0x004, x.spec.trapvec),
   (0x005, x.spec.faultmask), (0x006, x.spec.trapopa), (0x007, x.spec.trapopb), (0x010, x.spec.vlive),
   (0x011, (s.core s.cur.core).segKind), (0x012, x.spec.segown.zeroExtend 64), (0x020, coreIdReg s.cur.core),
   (0x021, (if x.spec.il then 2 else 0) + (if s.cur.q then 1 else 0)), (0x022, x.spec.scope.zeroExtend 64),
   (0x023, x.spec.tenant.zeroExtend 64), (0x030, BitVec.ofNat 64 s.cycle),
   (0x031, match s.job x.job with | some j => j.frame | none => 0), (0x040, x.spec.rngseed), (0x041, x.spec.rngctr), (0x050, x.spec.arbw),
   (0xFF0, s.featLo s.cur.core), (0xFF1, 0)]

/-- R58, R60, R62: `mfs` reads every special register with latency 2; `mts` writes those with a writable field, in the order of
checks ILLOP, RANGE, PRIV. The model's readings: logs 39 and 59. -/
def Obligations.SpecialRegisters : Prop :=
  (∀ g s, Runs .dstImm12 g s → ∀ r ∈ specials s, g.imm12.toNat = r.1 → exec (.mfs g) s = .next (s.later 2 (.s g.d r.2) 0)) ∧
  ∀ g s, Runs .srcDImm12 g s →
    let v := s.me.s g.d
    let out := exec (.mts g) s
    let traps (code : BitVec 8) : Prop := out = .next (s.trapped 0 (State.slotOp.wordOf 0x10 g) (trap code))
    let sets (f : Ctx → Ctx) : Prop := out = .next (s.onward.modCtx s.cur f)
    (g.imm12.toNat ∈ [0x003, 0x005, 0x006, 0x007, 0x012, 0x020, 0x021, 0x022, 0x023, 0x030, 0x031, 0xFF0, 0xFF1] → traps 0x01) ∧
    (g.imm12 = 0x000 → sets fun x => { x with spec.status := (x.spec.status &&& ~~~ (7 : W64)) ||| (v &&& 7) }) ∧
    (g.imm12 = 0x001 → sets fun x => { x with
      spec.fflags := (v &&& 0x1F) ||| if x.flagsAt = s.cycle then x.flagsNow.zeroExtend 64 else 0 }) ∧
    (g.imm12 = 0x002 → sets fun x => { x with spec.trapinfo := (x.spec.trapinfo &&& ~~~ (0xFF0800 : W64)) ||| (v &&& 0xFF0800) }) ∧
    (g.imm12 = 0x004 → (topOf s.cur.core ≤ v.toNat → traps 0x06) ∧ (v.toNat < topOf s.cur.core → sets fun x => { x with spec.trapvec := v })) ∧
    (g.imm12 = 0x010 → sets fun x => { x with spec.vlive := v }) ∧
    (g.imm12 = 0x011 →
      let bad := ∃ j < 32, s.me.owns j = true ∧ v.getLsbD (2 * j) = true ∧ v.getLsbD (2 * j + 1) = true
      (bad → traps 0x06) ∧
      (¬bad → ∃ k : W64, (∀ j < 32, s.me.owns j = true → k.getLsbD (2 * j) = v.getLsbD (2 * j) ∧ k.getLsbD (2 * j + 1) = v.getLsbD (2 * j + 1)) ∧
        (∀ j < 32, s.me.owns j = false → k.getLsbD (2 * j) = (s.core s.cur.core).segKind.getLsbD (2 * j) ∧
          k.getLsbD (2 * j + 1) = (s.core s.cur.core).segKind.getLsbD (2 * j + 1)) ∧
        out = .next (s.onward.modCore s.cur.core fun c => { c with segKind := k }))) ∧
    (g.imm12 = 0x040 → sets fun x => { x with spec.rngseed := v }) ∧
    (g.imm12 = 0x041 → sets fun x => { x with spec.rngctr := v }) ∧
    (g.imm12 = 0x050 → (s.arbwAbove s.cur v = true → traps 0x13) ∧ (s.arbwAbove s.cur v = false → sets fun x => { x with spec.arbw := v &&& 0xFFFF }))

/-- R42, R45, R63: `nop` does nothing, a word that is no instruction raises ILLOP, an extension opcode EXTOP with its operands,
`trap` SWTRAP. The model's readings: log 35. -/
def Obligations.TrapsOfWords : Prop :=
  (∀ s : State, s.issue = Issue.closed → exec .nop s = .next s.onward) ∧
  (∀ w (s : State), s.issue = Issue.closed → exec (.illop w) s = .next (s.trapped 0 w (trap 0x01))) ∧
  (∀ op g s, Runs .srcAB g s →
    exec (.extensionOpcode op g) s = .next (s.trapped 0 (State.slotOp.wordOf (7#3 ++ op) g) ⟨0x02, s.me.s g.a, s.me.s g.b, []⟩)) ∧
  (∀ op g (s : State), s.issue.opened = true → s.issue.slot = 2 ∨ s.issue.slot = 3 → s.me.isFull (.k g.p) = true →
    s.me.isFull (.v g.a) = true → s.me.isFull (.v g.b) = true →
    exec (.extensionOpcode op g) s = .next { s with issue := { s.issue with recs := s.issue.recs ++
      [{ SlotRec.idle s.issue.slot (State.slotOp.wordOf (7#3 ++ op) g) with
        fault := some ⟨0x02, (s.me.v g.a).extractLsb' 0 64, (s.me.v g.b).extractLsb' 0 64, []⟩ }] } }) ∧
  (∀ g s, Runs .imm12 g s → exec (.trap g) s = .next (s.trapped 0 (State.slotOp.wordOf 0x0D g) (trap 0x30)))

/-- R65, R101: `rti`. What becomes of the snapshot buffer's tags is the model's choice (logs 17 and 34): an entry that the handler's own
re-execution has begun to count, by a first bundle issued in cycle r, keeps what is left of its cycles, r + tag − now; an entry of the
trapped context under it (`outer`) keeps its tag, and counts from the bundle that is issued next. -/
def Obligations.ReturnFromTrap : Prop :=
  ∀ (g : G) (s : State), Runs .bare g s →
    let word := State.slotOp.wordOf 0x0E g
    let skip := s.me.spec.trapinfo.getLsbD 11
    let dly := s.me.spec.trappc.getLsbD 63
    let pc : BAddr := s.me.spec.trappc.extractLsb' 0 15
    let npc : BAddr := s.me.spec.trappc.extractLsb' 32 15
    ((s.me.npc.isSome = true ∨ s.me.tmask = false) → exec (.rti g) s = .next (s.trapped 0 word (trap 0x01))) ∧
    (s.me.npc = none → s.me.tmask = true → exec (.rti g) s = .next (s.onward.modCtx s.cur fun x =>
      let y : Ctx := { x with
        spec := { x.spec with status := x.spec.status &&& ~~~ (0x208 : W64) }
        replay := true
        replayAt := none
        snap := x.snap.map fun e => { e with
          outer := false, tag := match x.replayAt with | some r => if e.outer then e.tag else r + e.tag - s.cycle | none => e.tag }
        stream := x.stream.map fun st => { st with stopped := false, next := max st.next (s.cycle + 1) } }
      if skip = true then
        if dly = true then { y with pc := npc, npc := none, emul := 0 }
        else { ({ y with pc := pc, npc := none } : Ctx).ahead with emul := 0 }
      else { y with pc := pc, npc := if dly = true then some npc else none, emul := s.me.spec.trapinfo.extractLsb' 16 8 }))

/-- R112, R141, R142, R145, R148, R149, R260, R261: fences and barriers. The model's readings: log 41. -/
def Obligations.FencesBarriers : Prop :=
  let fence (i : G → Instr) (rel acq : Bool) : Prop := ∀ g s, Runs .immB4 g s →
    let wide : Bool := g.b != 0
    ((rel = true ∧ s.writesOut s.cur g.b.toNat = true ∨ acq = true ∧ s.me.readsOut = true) → exec (i g) s = .next s) ∧
    (¬(rel = true ∧ s.writesOut s.cur g.b.toNat = true ∨ acq = true ∧ s.me.readsOut = true) →
      exec (i g) s = .next (s.did ((if acq && !wide && s.me.readFar then [.status stScx] else []) ++ [.fence wide rel])))
  fence .fenceRel true false ∧ fence .fenceAcq false true ∧ fence .fenceSc true true ∧
  (∀ g s, Runs .immB2 g s →
    (g.b ≠ 1 → s.writesOut s.cur 4 = true → exec (.xfence g) s = .next s) ∧
    ((g.b = 1 ∨ s.writesOut s.cur 4 = false) → exec (.xfence g) s = .next s.onward)) ∧
  (∀ g s, Runs .gbar g s →
    let a := (s.me.s g.a).toNat
    let word := State.slotOp.wordOf 0x15 g
    let member : Bool := a < 256 && grpHas ((s.tower (towerOf s.cur.core)).group a) s.cur.core.val
    (s.me.npc.isSome = true → exec (.gbar g) s = .next (s.trapped 0 word (trap 0x01))) ∧
    (s.me.npc = none → s.writesOut s.cur 4 = true → exec (.gbar g) s = .next s) ∧
    (s.me.npc = none → s.writesOut s.cur 4 = false → member = false → exec (.gbar g) s = .next (s.trapped 0 word (trap 0x06))) ∧
    (s.me.npc = none → s.writesOut s.cur 4 = false → member = true → exec (.gbar g) s = .next
      ((s.onward.modCtx s.cur fun x => { x with
        groups := setAdd x.groups a
        status := .parked (.gbar a g.pd (2 * s.cycle + if s.cur.q then 1 else 0)) }).gbarCheck (towerOf s.cur.core) a))) ∧
  (∀ g s, Runs .dstP g s →
    let word := State.slotOp.wordOf 0x16 g
    (s.me.npc.isSome = true → exec (.cbar g) s = .next (s.trapped 0 word (trap 0x01))) ∧
    (s.me.npc = none → s.writesOut s.cur 4 = true → exec (.cbar g) s = .next s) ∧
    (s.me.npc = none → s.writesOut s.cur 4 = false → s.me.atelier = none → exec (.cbar g) s = .next (s.trapped 0 word (trap 0x06))) ∧
    (∀ a, s.me.npc = none → s.writesOut s.cur 4 = false → s.me.atelier = some a → exec (.cbar g) s = .next
      ((s.onward.modCtx s.cur fun x => { x with status := .parked (.cbar g.pd (2 * s.cycle + if s.cur.q then 1 else 0)) }).cbarCheck (towerOf s.cur.core) a)))

/-- R66, R154, R253, R254, R256, R258, R264: what suspends, parks or ends a context. The model's readings and choices: log 38; that
`yield` and `retire` first let results land that a handler's snapshot buffer holds (`landsHeld`), log 34; that a member's ownership mirror
outlives its `retire`, log 51. -/
def Obligations.Suspension : Prop :=
  let parked (s : State) (p : Park) : State := s.modCtx s.cur fun x => { x with status := .parked p }
  let noDelay (s : State) (out : Out) (op : BitVec 8) (g : G) : Prop :=
    s.me.npc.isSome = true → out = .next (s.trapped 0 (State.slotOp.wordOf op g) (trap 0x01))
  (∀ g s, Runs .bare g s → noDelay s (exec (.yield g) s) 0x08 g ∧
    (s.me.npc = none → s.quiet s.cur = false → exec (.yield g) s = .next s) ∧
    (s.me.npc = none → s.quiet s.cur = true → s.me.landsHeld = true → exec (.yield g) s = .next (s.modCtx s.cur fun x => x.resumeAt s.cycle)) ∧
    (s.me.npc = none → s.quiet s.cur = true → s.me.landsHeld = false → ∃ t, exec (.yield g) s = .next t ∧ t = s.onward.yieldCtx s.cur ∧ t.ctx s.cur = Ctx.blank)) ∧
  (∀ g s, Runs .srcAB g s → isCtl s.cur.core = false →
    let a := (s.me.s g.a).toNat
    let k := s.core s.cur.core
    let word := State.slotOp.wordOf 0x09 g
    noDelay s (exec (.waitGe g) s) 0x09 g ∧
    (∀ f, s.me.npc = none → addrChecks s.me 8 a 8 = some f → exec (.waitGe g) s = .next (s.trapped 0 word f)) ∧
    (s.me.npc = none → addrChecks s.me 8 a 8 = none →
      (k.mem.foundRead a 8 ≠ [] ∨ k.mem.poisoned a = true →
        exec (.waitGe g) s = .next (s.fails 0 word { trap 0x08 with found := k.mem.foundRead a 8 })) ∧
      (k.mem.foundRead a 8 = [] → k.mem.poisoned a = false → k.counter a = none → exec (.waitGe g) s = .next (s.trapped 0 word (trap 0x07))) ∧
      (∀ v, k.mem.foundRead a 8 = [] → k.mem.poisoned a = false → k.counter a = some v →
        exec (.waitGe g) s = .next (if s.me.s g.b ≤ v then s.did [.touch a 8] else s.did [.touch a 8, .park (.waitGe a (s.me.s g.b))])))) ∧
  (∀ g s, Runs .srcAB g s → isCtl s.cur.core = true →
    let a := (s.me.s g.a).toNat
    let word := State.slotOp.wordOf 0x09 g
    let v := dwordOf (s.tower (towerOf s.cur.core)).ctlmem a
    noDelay s (exec (.waitGe g) s) 0x09 g ∧
    (s.me.npc = none → exec (.waitGe g) s = .next (
      if a % 8 ≠ 0 then s.trapped 0 word (trap 0x05)
      else if 0x100000 < a + 8 then s.trapped 0 word (trap 0x06)
      else if s.me.s g.b ≤ v then s.onward
      else parked s.onward (.waitGe a (s.me.s g.b))))) ∧
  (∀ g s, Runs .immB63 g s → noDelay s (exec (.waitF g) s) 0x0A g ∧
    (s.me.npc = none → s.me.flagFile.getLsbD g.b.toNat = true →
      exec (.waitF g) s = .next (s.onward.modCtx s.cur fun x => { x with flagFile := setBit x.flagFile g.b.toNat false })) ∧
    (s.me.npc = none → s.me.flagFile.getLsbD g.b.toNat = false → exec (.waitF g) s = .next (parked s (.waitF g.b)))) ∧
  (∀ g s, Runs .bare g s → noDelay s (exec (.retire g) s) 0x0B g ∧
    let waits := s.quiet s.cur = false ∨ s.me.refusals ≠ [] ∨ ∃ t ∈ s.me.asyncQ, t.code = 0x26
    (s.me.npc = none → waits → exec (.retire g) s = .next s) ∧
    (s.me.npc = none → ¬waits → s.me.landsHeld = true → exec (.retire g) s = .next (s.modCtx s.cur fun x => x.resumeAt s.cycle)) ∧
    (s.me.npc = none → ¬waits → s.me.landsHeld = false → s.me.atelier.isSome = true → s.me.cbarDone = false →
      exec (.retire g) s = .next (s.trapped 0 (State.slotOp.wordOf 0x0B g) (trap 0x0B))) ∧
    (s.me.npc = none → ¬waits → s.me.landsHeld = false → (s.me.atelier = none ∨ s.me.cbarDone = true) → exec (.retire g) s = .next (s.onward.retire s.cur))) ∧
  (∀ g s, Runs .srcA g s → noDelay s (exec (.tickw g) s) 0x1C g ∧
    let frame : W64 := match s.job s.me.job with | some j => j.frame | none => 0
    (s.me.npc = none → s.me.s g.a ≤ frame → exec (.tickw g) s = .next s.onward) ∧
    (s.me.npc = none → ¬s.me.s g.a ≤ frame → exec (.tickw g) s = .next (parked s (.tick (s.me.s g.a))))) ∧
  (∀ g s, Runs .bare g s →
    (s.me.dbg = false → exec (.brk g) s = .next s.onward) ∧
    (s.me.dbg = true → exec (.brk g) s = .next ((parked s.onward .brk).postJob s.me.job
      { type := 0x04, scope := s.me.spec.scope.toNat, pay := ofDws 256 [BitVec.ofNat 64 s.me.node, (s.onward.ctx s.cur).resumeWord,
          at_ 64 0 s.cur.core.val ||| at_ 64 9 (if s.cur.q then 1 else 0), 0] })))

/-- R28, R92, R93, R130, R245, R266 to R268: the graph's operations; `segacq` and `segrel` wait before they check. `segacq`: log 40. -/
def Obligations.GraphOperations : Prop :=
  let traps (s : State) (op : BitVec 8) (g : G) (code : BitVec 8) : Out := .next (s.trapped 0 (State.slotOp.wordOf op g) (trap code))
  (∀ g s, Runs .spawn g s →
    let a := (s.me.s g.a).toNat
    (∀ f, s.spawnCheck s.cur a = .error f → exec (.spawn g) s = .next (s.fails 0 (State.slotOp.wordOf 0x0C g) f)) ∧
    (∀ n, s.spawnCheck s.cur a = .ok n → exec (.spawn g) s =
      .next (s.did [.touch a 64, .empty (.s g.d), .empty (.p g.pb), .spawn g.d g.pb n]))) ∧
  (∀ g s, Runs .dstS g s → exec (.sopen g) s = .next ((s.onward.modCtx s.cur fun x => x.mark (.s g.d) false).sopen s.cur g.d)) ∧
  (∀ g s, Runs .srcA g s →
    let a := (s.me.s g.a).toNat
    (4096 ≤ a → exec (.sclose g) s = traps s 0x18 g 0x06) ∧
    (a < 4096 → s.scopeWithin s.cur a = false → exec (.sclose g) s = traps s 0x18 g 0x13) ∧
    (a < 4096 → s.scopeWithin s.cur a = true → exec (.sclose g) s = .next (s.onward.sclose (s.homeOf s.me.job) a))) ∧
  (∀ g s, Runs .srcAB g s →
    let a := (s.me.s g.a).toNat
    let b := (s.me.s g.b).toNat
    let allowed := a ≠ s.me.spec.scope.toNat ∧ s.scopeWithin s.cur a = true
    ((4096 ≤ a ∨ 0x7FFFF8 < b) → exec (.cancel g) s = traps s 0x19 g 0x06) ∧
    (a < 4096 → b ≤ 0x7FFFF8 → b % 8 ≠ 0 → exec (.cancel g) s = traps s 0x19 g 0x05) ∧
    (a < 4096 → b ≤ 0x7FFFF8 → b % 8 = 0 → ¬allowed → exec (.cancel g) s = traps s 0x19 g 0x13) ∧
    (a < 4096 → b ≤ 0x7FFFF8 → b % 8 = 0 → allowed → exec (.cancel g) s =
      .next (s.onward.killScope (s.homeOf s.me.job) s.me.job a s.cur.core b s.me.spec.tenant.toNat s.me.spec.scope.toNat))) ∧
  (∀ g s, Runs .srcA g s →
    let v := (s.me.s g.a).toNat
    let mask : BitVec 32 := BitVec.ofNat 32 v
    let inside := mask &&& ~~~ s.partition (towerOf s.cur.core) s.me.job = 0
    (mask &&& s.ownedByOthers s.cur ≠ 0 → exec (.segacq g) s = .next s) ∧
    (mask &&& s.ownedByOthers s.cur = 0 → 2 ^ 32 ≤ v → exec (.segacq g) s = traps s 0x1A g 0x06) ∧
    (mask &&& s.ownedByOthers s.cur = 0 → v < 2 ^ 32 → ¬inside → exec (.segacq g) s = traps s 0x1A g 0x13) ∧
    (mask &&& s.ownedByOthers s.cur = 0 → v < 2 ^ 32 → inside → exec (.segacq g) s = .next (s.onward.grant s.cur mask)) ∧
    (s.segBusy s.cur mask = true → exec (.segrel g) s = .next s) ∧
    (s.segBusy s.cur mask = false → 2 ^ 32 ≤ v → exec (.segrel g) s = traps s 0x1B g 0x06) ∧
    (s.segBusy s.cur mask = false → v < 2 ^ 32 →
      exec (.segrel g) s = .next (s.onward.modCtx s.cur fun x => { x with spec.segown := x.spec.segown &&& ~~~ mask })))

/-! Slots 5 and 6. -/

/-- A command of a slot, whenever it runs: it waits, fails a check, or commits with its effects. -/
def Command {α : Type} (i : G → Instr) (slot : Nat) (op : BitVec 8) (h : Shape) (waits : G → State → Prop)
    (check : G → State → Except SlotFault α) (effs : α → G → State → List Effect) : Prop :=
  ∀ (g : G) (s : State), Runs h g s →
    (waits g s → exec (i g) s = .next s) ∧
    (¬waits g s → (∀ f, check g s = .error f → exec (i g) s = .next (s.fails slot (State.slotOp.wordOf op g) f)) ∧
      (∀ c, check g s = .ok c → exec (i g) s = .next (s.did (effs c g s))))

/-- What a slot 5 operation waits for: an `acq` atomic, undelivered refusals, room among 16 (R129, R143). -/
def slot5Waits (_ : G) (s : State) : Prop := s.acqOut s.cur = true ∨ s.me.refusals ≠ [] ∨ 16 ≤ s.me.s5Count

/-- R109, R126, R129 to R133, R143, R351: remote loads, stores and tests set out in pieces of one sector; `rmv.h` asks for its locks.
`rmv.h`: log 42. -/
def Obligations.RemoteAccess : Prop :=
  let scope (s : State) : Nat := s.me.spec.scope.toNat
  let ld (i : G → Instr) (op : BitVec 8) (h : Shape) (n align : Nat) (dst : G → Reg) : Prop :=
    Command i 5 op h slot5Waits (fun g s => s.checks5 s.me (operandAt g s.me n) n align false false) fun c g s =>
      [.empty (dst g), s.send s.me .load (some (dst g)) c.1 (operandAt g s.me n) c.2 n (pieceRanges c.2 n) [] 0 (scope s)]
  let st (i : G → Instr) (op : BitVec 8) (h : Shape) (n align : Nat) (v : G → Ctx → Nat) : Prop :=
    Command i 5 op h slot5Waits (fun g s => s.checks5 s.me (operandAt g s.me n) n align false true) fun c g s =>
      [s.send s.me .store none c.1 (operandAt g s.me n) c.2 n (pieceRanges c.2 n) (leBytes n (v g s.me)) 0 (scope s)]
  let sD (g : G) (x : Ctx) : Nat := (x.s g.d).toNat
  let vD (g : G) (x : Ctx) : Nat := (x.v g.d).toNat
  ld .rldW 0x01 .ldS 4 4 (fun g => .s g.d) ∧ ld .rldD 0x02 .ldS 8 8 (fun g => .s g.d) ∧ ld .rldQ 0x03 .ldV 16 8 (fun g => .v g.d) ∧
  ld .rldO 0x04 .ldV 32 8 (fun g => .v g.d) ∧ ld .rvld 0x09 .ldV 256 32 (fun g => .v g.d) ∧
  st .rstW 0x05 .stS 4 4 sD ∧ st .rstD 0x06 .stS 8 8 sD ∧ st .rstQ 0x07 .stV 16 8 vD ∧ st .rstO 0x08 .stV 32 8 vD ∧ st .rvst 0x0A .stV 256 32 vD ∧
  Command .rtst 5 0x0C .unaryS slot5Waits (fun g s => s.checks5 s.me (s.me.s g.a).toNat 128 128 false false) (fun c g s =>
    [.empty (.s g.d), s.send s.me .test (some (.s g.d)) c.1 (s.me.s g.a).toNat c.2 128 (pieceRanges c.2 128) [] 0 (scope s)]) ∧
  Command .rmvH 5 0x0B .sssD (fun g s => slot5Waits g s ∨ s.me.stream.isSome = true)
    (fun g s => s.rmvChecks s.me (s.me.s g.d).toNat (s.me.s g.a).toNat (s.me.s g.b).toNat) fun c g s =>
    [.empty (.s g.d), .stream ⟨.rmv, 2, c.1.1, c.1.2, c.2.1, c.2.2, (s.me.s g.d).toNat, 0, g.d, 0, false, .requested, .requested,
      s.me.s5Seq, (s.me.s g.a).toNat, (s.me.s g.b).toNat, false⟩]

/-- R109, R126: the checks of a range of atelier addresses and the member it names. -/
def Obligations.AtelierAddresses : Prop :=
  ∀ (s : State) (a size align : Nat) (holds : Bool), let x := s.me
    (a % align ≠ 0 → s.checks5 x a size align false holds = .error (trap 0x05)) ∧
    (a % align = 0 → (x.atelier = none ∨ 2 ^ 27 ≤ a) → s.checks5 x a size align false holds = .error (trap 0x06)) ∧
    (∀ gr, a % align = 0 → x.atelier = some gr → a < 2 ^ 27 →
      let off := a % 2 ^ 23
      let owned (c : CoreRef) : Prop := ∀ seg, off / 0x40000 ≤ seg → seg ≤ (off + size - 1) / 0x40000 → (s.mirror x c).getLsbD seg = true
      ((s.members (towerOf s.cur.core) gr).length ≤ a / 2 ^ 23 → s.checks5 x a size align false holds = .error (trap 0x06)) ∧
      (∀ c, 0 < size → (s.members (towerOf s.cur.core) gr)[a / 2 ^ 23]? = some c →
        ((0x800000 < off + size ∨ ¬owned c) → s.checks5 x a size align false holds = .error (trap 0x06)) ∧
        (off + size ≤ 0x800000 → owned c →
          (s.layerOff c = true → s.checks5 x a size align false holds = .error (trap 0x0C)) ∧
          (s.layerOff c = false →
            (holds = true → (∃ i < size, (s.core c).held (off + i) = true) → s.checks5 x a size align false holds = .error (trap 0x09)) ∧
            ((holds = false ∨ ∀ i < size, (s.core c).held (off + i) = false) → s.checks5 x a size align false holds = .ok (c, off))))))

/-- R134, R143 to R145: remote atomics. The target is in sA[26:0], the scope in sA[34:32]. -/
def Obligations.RemoteAtomics : Prop :=
  let amo (i : G → Instr) (opc : BitVec 8) (h : Shape) (op : BitVec 2) (acq rel : Bool) : Prop :=
    let target (g : G) (s : State) : Nat := (s.me.s g.a).toNat % 2 ^ 27
    let scope (g : G) (s : State) : Nat := (s.me.s g.a).toNat / 2 ^ 32 % 8
    let bad (g : G) (s : State) : Bool :=
      (s.me.s g.a).toNat / 2 ^ 35 != 0 || (s.me.s g.a).toNat / 2 ^ 27 % 2 ^ 5 != 0 || decide (4 < scope g s)
    Command i 5 opc h slot5Waits (fun g s => s.checks5 s.me (target g s) 8 8 (bad g s) true) fun c g s =>
      let covered : Bool := scope g s != 0 || c.1 == s.cur.core
      (if !covered && (acq || rel) then [.status stScx] else []) ++
        [.empty (.s g.d), s.send s.me (.atomic op (acq && covered) (rel && covered)) (some (.s g.d)) c.1 (target g s) c.2 8 [(c.2, 8)]
          (leBytes 8 (s.me.s g.b).toNat) (s.me.s g.d) s.me.spec.scope.toNat]
  amo .ramoAddRlx 0x10 .sss 0 false false ∧ amo .ramoAddAcq 0x11 .sss 0 true false ∧ amo .ramoAddRel 0x12 .sss 0 false true ∧
  amo .ramoAddAr 0x13 .sss 0 true true ∧ amo .ramoMaxRlx 0x14 .sss 1 false false ∧ amo .ramoMaxAcq 0x15 .sss 1 true false ∧
  amo .ramoMaxRel 0x16 .sss 1 false true ∧ amo .ramoMaxAr 0x17 .sss 1 true true ∧ amo .ramoXchgRlx 0x18 .sss 2 false false ∧
  amo .ramoXchgAcq 0x19 .sss 2 true false ∧ amo .ramoXchgRel 0x1A .sss 2 false true ∧ amo .ramoXchgAr 0x1B .sss 2 true true ∧
  amo .ramoCasRlx 0x1C .sssD 3 false false ∧ amo .ramoCasAcq 0x1D .sssD 3 true false ∧ amo .ramoCasRel 0x1E .sssD 3 false true ∧
  amo .ramoCasAr 0x1F .sssD 3 true true

/-- R211, R214 to R216, R219, R221, R222, R227, R228, R279, R296: commands to the copy engine, collectives and messages.
The model's readings: logs 45 and 47. -/
def Obligations.EngineCommands : Prop :=
  let full (_ : G) (s : State) : Prop := s.engineRoom s.cur.core = false
  let ids (g : G) (s : State) : Nat × Nat := ((s.me.s g.a).toNat % 256, (s.me.s g.a).toNat / 256 % 256)
  let xfer (i : G → Instr) (op : BitVec 8) (c : CmdOp) : Prop :=
    Command i 6 op .srcAB full (fun g s => s.xferCheck s.me c.vacates (s.me.s g.a) (s.me.s g.b)) fun ctr g s =>
      [.cmd (s.newCmd s.me (Shape.issued .srcAB op s.me g) c (ids g s).1 (ids g s).2 ctr 0)]
  let settle (i : G → Instr) (op : BitVec 8) (c : CmdOp) : Prop :=
    Command i 6 op .srcAB full
      (fun g s => match counterOf s.me (s.me.s g.b) with
        | none => .error (trap 0x06)
        | some ctr =>
          if 256 ≤ (s.me.s g.a).toNat ∨ s.npInto (some s.cur) s.me.node s.nextId (s.me.s g.a).toNat = [] then .error (trap 0x06) else .ok ctr)
      fun ctr g s => [.cmd (s.newCmd s.me (Shape.issued .srcAB op s.me g) c (s.me.s g.a).toNat (s.me.s g.a).toNat ctr 0)]
  let held (i : G → Instr) (op : BitVec 8) (e : Nat → Effect) : Prop :=
    Command i 6 op .srcA (fun _ _ => False)
      (fun g s => if 4096 ≤ (s.me.s g.a).toNat ∨ s.heldCmd s.cur (s.me.s g.a).toNat = none then .error (trap 0x06) else .ok ())
      fun _ g s => [e (s.me.s g.a).toNat]
  xfer .cpy 0x30 .cpy ∧ xfer .engineMove 0x31 .mov ∧ xfer .movNp 0x32 .movNp ∧ xfer .cpyNp 0x33 .cpyNp ∧
  settle .pub 0x34 .pub ∧ settle .dsc 0x35 .dsc ∧
  Command .fill 6 0x36 .srcDAB full (fun g s => s.fillCheck s.me g.d (s.me.s g.a) (s.me.s g.b)) (fun ctr g s =>
    [.cmd (s.newCmd s.me (Shape.issued .srcDAB 0x36 s.me g) (.fill ((s.me.s g.a).getLsbD 8)) (ids g s).1 (ids g s).1 ctr (s.me.s g.d))]) ∧
  Command .ctradd 6 0x37 .srcAB full (fun g s => s.ctraddCheck (s.me.s g.a)) (fun ctr g s =>
    [.cmd (s.newCmd s.me (Shape.issued .srcAB 0x37 s.me g) (.ctradd (s.me.s g.b)) 0 0 ctr 0)]) ∧
  held .fretry 0x38 .fretry ∧ held .fskip 0x39 .fskip ∧
  Command .coll 6 0x48 .srcA (fun _ s => 16 ≤ (s.collsOf s.cur).length) (fun g s => s.collCheck s.me (s.me.s g.a)) (fun ring g s =>
    let d := s.me.entry (ids g s).1
    [.coll ⟨0, some s.cur, s.me.node, s.me.job, s.me.spec.scope.toNat, s.me.spec.tenant.toNat, s.cur.core, s.me.cmdSeq,
      Shape.issued .srcA 0x48 s.me g, d, (ids g s).1, s.me.entry (clBucket d), clBucket d, ring, s.me.spec.arbw, 0, 0, 0, false, 0, [], [], [],
      [], none, 0, none, false, false⟩]) ∧
  Command .qpush 6 0x50 .srcAB (fun _ s => 16 ≤ (s.msgsOf s.cur).length) (fun g s => s.qpushCheck s.me (s.me.s g.a).toNat (s.me.s g.b)) (fun m g s =>
    [.touch (s.me.s g.a).toNat 32,
     .qpush ⟨0, s.cur, s.me.node, s.me.job, s.me.spec.scope.toNat, s.me.spec.tenant.toNat, s.cur.core, s.me.cmdSeq,
       Shape.issued .srcAB 0x50 s.me g, m.1, m.2, false⟩])

/-- R44, R239 to R241: commands on Canvas names. -/
def Obligations.CanvasCommands : Prop :=
  let name (i : G → Instr) (op : BitVec 8) (h : Shape) (names : G → Ctx → List W64) (effs : G → State → List Effect) : Prop :=
    ∀ g s, Runs h g s →
      (s.hasCanvas = false →
        exec (i g) s = .next (s.trapped 6 (State.slotOp.wordOf op g) ⟨0x02, s.me.s g.a, if h.b = .s then s.me.s g.b else 0, []⟩)) ∧
      (s.hasCanvas = true → s.engineRoom s.cur.core = false → exec (i g) s = .next s) ∧
      (s.hasCanvas = true → s.engineRoom s.cur.core = true →
        ((∃ n ∈ names g s.me, 2 ^ 56 ≤ n.toNat) → exec (i g) s = .next (s.trapped 6 (State.slotOp.wordOf op g) (trap 0x06))) ∧
        ((∀ n ∈ names g s.me, n.toNat < 2 ^ 56) → exec (i g) s = .next (s.did (effs g s))))
  let cmd (s : State) (u : Issued) (op : CmdOp) : Effect := .cmd { s.newCmd s.me u op 0 0 .none 0 with src := 0, dst := 0 }
  name .kvshare 0x42 .srcAB (fun g x => [x.s g.a, x.s g.b]) (fun g s =>
    [cmd s (Shape.issued .srcAB 0x42 s.me g) (.kvshare (s.me.s g.a) (s.me.s g.b))]) ∧
  name .kvdrop 0x43 .srcA (fun g x => [x.s g.a]) (fun g s => [cmd s (Shape.issued .srcA 0x43 s.me g) (.kvdrop (s.me.s g.a))]) ∧
  name .kvstat 0x44 .unaryS (fun g x => [x.s g.a]) (fun g s =>
    [.empty (.s g.d), cmd s (Shape.issued .unaryS 0x44 s.me g) (.kvstat g.d (s.me.s g.a))])

/-- R44, R152, R153, R188 to R191, R199, R200, R205: the Palette and the matrix engine's commands. The model's readings: log 44. -/
def Obligations.MatrixCommands : Prop :=
  let busy (_ : G) (s : State) : Prop := s.mxForeign = true ∨ s.mxFull = true
  let a (g : G) (s : State) : Nat := (s.me.s g.a).toNat % 256
  let b (g : G) (s : State) : Nat := (s.me.s g.a).toNat / 256 % 256
  let mmq (i : G → Instr) (op : BitVec 8) (z rc ta tb : Bool) : Prop :=
    ∀ g s, Runs .rawSs g s →
      (rc = true → s.rcmb = false →
        exec (i g) s = .next (s.trapped 6 (State.slotOp.wordOf op g) ⟨0x02, s.me.s g.a, s.me.s g.b, []⟩)) ∧
      ((rc = false ∨ s.rcmb = true) →
        (busy g s → exec (i g) s = .next s) ∧
        (¬busy g s →
          (∀ f, s.mmqCheck s.me g.d (s.me.s g.a) (s.me.s g.b) rc ta tb = .error f →
            exec (i g) s = .next (s.fails 6 (State.slotOp.wordOf op g) f)) ∧
          (∀ c, s.mmqCheck s.me g.d (s.me.s g.a) (s.me.s g.b) rc ta tb = .ok c → exec (i g) s =
            .next (s.did [.bind, .mx (newMx s.me.cmdSeq (Shape.issued .rawSs op s.me g) (.mmq z rc ta tb) (g.d == 1) (s.me.entry (a g s))
              (s.me.entry (b g s)) (a g s) (b g s) c)]))))
  mmq .mmq 0x10 false false false false ∧ mmq .mmqZ 0x11 true false false false ∧ mmq .mmqRc 0x12 false true false false ∧
  mmq .mmqZRc 0x13 true true false false ∧ mmq .mmqTa 0x14 false false true false ∧ mmq .mmqZTa 0x15 true false true false ∧
  mmq .mmqRcTa 0x16 false true true false ∧ mmq .mmqZRcTa 0x17 true true true false ∧ mmq .mmqTb 0x18 false false false true ∧
  mmq .mmqZTb 0x19 true false false true ∧ mmq .mmqRcTb 0x1A false true false true ∧ mmq .mmqZRcTb 0x1B true true false true ∧
  mmq .mmqTaTb 0x1C false false true true ∧ mmq .mmqZTaTb 0x1D true false true true ∧ mmq .mmqRcTaTb 0x1E false true true true ∧
  mmq .mmqZRcTaTb 0x1F true true true true ∧
  (∀ g s, Runs .rawSs g s →
    let epi := s.me.entry (b g s)
    (busy g s → exec (.mdrain g) s = .next s) ∧
    (¬busy g s →
      (∀ f, s.mdrainCheck s.me g.d (s.me.s g.a) (s.me.s g.b) = .error f → exec (.mdrain g) s = .next (s.fails 6 (State.slotOp.wordOf 0x20 g) f)) ∧
      (∀ c, s.mdrainCheck s.me g.d (s.me.s g.a) (s.me.s g.b) = .ok c → exec (.mdrain g) s = .next (s.commit s.cur
        [.bind, .drain ⟨0, s.cur, s.me.node, s.me.job, s.me.spec.scope.toNat, s.me.spec.tenant.toNat, s.me.cmdSeq,
          Shape.issued .rawSs 0x20 s.me g, g.d == 1, s.me.entry (a g s), a g s, epi, if epBiasv epi then some (s.me.entry (epBias epi)) else none, epBias epi, c, s.me.spec.rngseed, s.me.spec.rngctr, [], none,
          [], false, none, false⟩] (if epMode epi = 1 then 4096 else 0))))) ∧
  Command .mzero 6 0x21 .rawD busy (fun g _ => if 1 < g.d.toNat then .error (trap 0x06) else .ok ()) (fun _ g s =>
    [.bind, .mx (newMx s.me.cmdSeq (Shape.issued .rawD 0x21 s.me g) .mzero (g.d == 1) 0 0 0 0 .none)]) ∧
  Command .mstat 6 0x22 .dstRawB busy (fun g _ => if 1 < g.b.toNat then .error (trap 0x06) else .ok ()) (fun _ g s =>
    [.bind, .launch (.s g.d ((s.core s.cur.core).mx.status s.me.node (g.b == 1) s.cycle)) 0 2]) ∧
  Command .pset 6 0x01 .srcAB (fun _ _ => False) (fun g s => s.psetCheck s.me (s.me.s g.a) (s.me.s g.b).toNat) (fun e g s =>
    [.touch (s.me.s g.b).toNat 64, .palette (s.me.s g.a).toNat e]) ∧
  Command .pget 6 0x02 .sImm7 (fun _ _ => False) (fun g s => if 256 ≤ (s.me.s g.a).toNat then .error (trap 0x06) else .ok ()) (fun _ g s =>
    [.launch (.s g.d ((s.me.entry (s.me.s g.a).toNat).extractLsb' (64 * g.b.toNat) 64)) 0 2]) ∧
  Command .pinv 6 0x03 .srcA (fun _ _ => False) (fun g s => if 256 ≤ (s.me.s g.a).toNat then .error (trap 0x06) else .ok ()) (fun _ g s =>
    [.palette (s.me.s g.a).toNat 0])

/-- R299 to R309: slot 6 of the control profile. The model's readings: log 46. -/
def Obligations.ControlOperations : Prop :=
  let w (s : State) : Tower := s.tower (towerOf s.cur.core)
  let never (_ : G) (_ : State) : Prop := False
  let a (g : G) (s : State) : Nat := (s.me.s g.a).toNat
  let lo (v : Nat) : Nat := v % 2 ^ 11
  let hi (v : Nat) : Nat := v / 2 ^ 32
  let reserved (v : Nat) : Prop := v / 2 ^ 11 % 2 ^ 21 ≠ 0
  let ctl (d : BitVec 6) (o : CtlOp) : List Effect := [.empty (.s d), .ctl o]
  let need (p : Prop) [Decidable p] (c : BitVec 8) : Except SlotFault Unit := if p then .error (trap c) else .ok ()
  Command .kscan 6 0x01 .unaryS never (fun g s => need (2048 ≤ a g s) 0x06) (fun _ g s => ctl g.d (.kscan g.d (a g s))) ∧
  Command .qread 6 0x02 .sss never (fun g s => do
      need (reserved (a g s) ∨ (w s).queueOn (lo (a g s)) = false ∨ 0xFFFC0 < (s.me.s g.b).toNat) 0x06
      need ((s.me.s g.b).toNat % 64 ≠ 0) 0x05)
    (fun _ g s => ctl g.d (.qread g.d (lo (a g s)) (hi (a g s)) (s.me.s g.b).toNat)) ∧
  Command .jappend 6 0x03 .sss never (fun _ s => need ((w s).japp - (w s).jcom = 16384) 0x06)
    (fun _ g s => ctl g.d (.jappend g.d (s.me.s g.a) (s.me.s g.b))) ∧
  Command .jcommit 6 0x04 .srcA (fun _ s => s.pushing = true) (fun g s => need (a g s < (w s).jcom.toNat ∨ (w s).japp.toNat < a g s) 0x06)
    (fun _ g s => [.ctl (.jcommit (a g s))]) ∧
  (∀ g s, Runs .sImm2 g s → exec (.jread g) s = .next (s.later 2 (.s g.d (
    if g.b.toNat = 0 then (w s).jcom else if g.b.toNat = 1 then (w s).japp
    else ((w s).lastseq (lo (a g s))).zeroExtend 64)) 0)) ∧
  Command .npush 6 0x06 .sss never (fun g s => do
      need (a g s % 64 ≠ 0) 0x05
      need (0xFFFC0 < a g s ∨ reserved (s.me.s g.b).toNat ∨ 4096 ≤ (w s).origins.length) 0x06)
    (fun _ g s => ctl g.d (.npush g.d (a g s) (lo (s.me.s g.b).toNat) (hi (s.me.s g.b).toNat))) ∧
  Command .cpost 6 0x07 .srcDAB never (fun g s =>
      let d := (s.me.s g.d).toNat
      need (reserved d ∨ (w s).hold = true ∧ 16384 ≤ (w s).holdCount) 0x06)
    (fun _ g s => [.ctl (.cpost (lo (s.me.s g.d).toNat) (hi (s.me.s g.d).toNat) (hi (a g s)) (s.me.s g.b))]) ∧
  Command .chold 6 0x08 .bare never (fun _ _ => .ok ()) (fun _ _ _ => [.ctl .chold]) ∧
  Command .crel 6 0x09 .bare never (fun _ s => need ((w s).holdTko = true ∧ (w s).takeover = true) 0x06) (fun _ _ _ => [.ctl .crel]) ∧
  Command .hbeat 6 0x0A .bare never (fun _ _ => .ok ()) (fun _ _ _ => [.ctl .hbeat]) ∧
  Command .tko 6 0x0B .dstS never (fun _ s => need (¬((w s).takeover = true ∧ s.isPrimary s.cur.core = false)) 0x06)
    (fun _ g _ => ctl g.d (.tko g.d)) ∧
  Command .tlbinv 6 0x0C .unaryS never (fun g s => do
      need (a g s % 32 ≠ 0) 0x05
      need (0xFFFE0 < a g s) 0x06)
    (fun _ g s => ctl g.d (.tlbinv g.d (a g s)))

/-! Events. -/

/-- A context holds a value in its register, which is full; s0, p0 and k0 keep theirs (R18, R25). -/
def Holds (x : Ctx) (v : RVal) : Prop := x.isFull v.reg = true ∧ match v with
  | .s i y => x.s i = if i = 0 then 0 else y
  | .v i y => x.v i = y
  | .p i y => x.p i = if i = 0 then true else y
  | .k i y => x.k i = if i = 0 then BitVec.allOnes 128 else y

/-- R25, R101: a result that lands, of those in flight or of the snapshot buffer; no other register changes. -/
def Landed (x y : Ctx) (v : RVal) (flags : BitVec 5) : Prop :=
  Holds y v ∧ y.spec.fflags = x.spec.fflags ||| flags.zeroExtend 64 ∧
    (∀ i, RVal.reg v ≠ .s i → y.s i = x.s i) ∧ (∀ i, RVal.reg v ≠ .v i → y.v i = x.v i) ∧
    (∀ i, RVal.reg v ≠ .p i → y.p i = x.p i) ∧ (∀ i, RVal.reg v ≠ .k i → y.k i = x.k i) ∧
    ∀ r, r ≠ v.reg → y.isFull r = x.isFull r

/-- R12, R25, R59, R96, R97, R101, R154, R256, R257, R264, R307: the events of a context by itself. The model's readings: logs 34 and 56. -/
def Obligations.ContextEvents : Prop :=
  (∀ s : State, topOf s.cur.core ≤ s.me.pc.toNat → s.me.tmask = false → ∃ t, exec .issuePastEnd s = .next t ∧
    let y := t.ctx s.cur
    y.pc = s.me.spec.trapvec.extractLsb' 0 15 ∧ y.tmask = true ∧ y.spec.trapinfo = 0x06 ∧ y.spec.trappc = s.me.pc.zeroExtend 64 ∧
      y.spec.faultmask = 0 ∧ y.spec.trapopa = 0 ∧ y.spec.trapopb = 0) ∧
  (∀ (s : State) r n e, (s.ctx r).inflight[n]? = some e → (∀ d, e.due = some d → d ≤ s.cycle) →
    ∃ t, exec (.resultLanding r n) s = .next t ∧ Landed (s.ctx r) (t.ctx r) e.val e.flags ∧
      (t.ctx r).inflight = (s.ctx r).inflight.eraseIdx n ∧
      (t.ctx r).spec.status = (if e.vac then (s.ctx r).spec.status ||| stVac else (s.ctx r).spec.status)) ∧
  (∀ (s : State) r n e c, (s.ctx r).snap[n]? = some e → (s.ctx r).replayAt = some c → c + e.tag ≤ s.cycle →
    ((s.ctx r).tmask = false ∨ e.outer = false) →
    ∃ t, exec (.snapshotLanding r n) s = .next t ∧ Landed (s.ctx r) (t.ctx r) e.val e.flags ∧ (t.ctx r).snap = (s.ctx r).snap.eraseIdx n) ∧
  (∀ (s : State) r a as, (s.ctx r).status = .running → (s.ctx r).tmask = false → (s.ctx r).asyncQ = a :: as →
    ∃ t, exec (.asyncTrapDelivery r) s = .next t ∧
      let x := s.ctx r
      let y := t.ctx r
      y.asyncQ = as ∧ y.pc = x.spec.trapvec.extractLsb' 0 15 ∧ y.tmask = true ∧ y.spec.trappc.extractLsb' 0 15 = x.pc ∧
        y.spec.trapinfo = (a.code.zeroExtend 64 ||| (1 : W64) <<< 12 ||| (x.emul.zeroExtend 64) <<< 16) ∧
        y.spec.faultmask = 0 ∧ y.spec.trapopa = a.opa ∧ y.spec.trapopb = a.opb ∧
        y.spec.status.getLsbD 9 = (x.spec.status.getLsbD 9 || !as.isEmpty)) ∧
  (∀ (s : State) r, (∃ n, (s.ctx r).status = .parked (.waitF n) ∧ (s.ctx r).flagFile.getLsbD n.toNat = true) ∨
      (∃ v j, (s.ctx r).status = .parked (.tick v) ∧ s.job (s.ctx r).job = some j ∧ v ≤ j.frame) →
    exec (.waitRetest r) s = .next (s.modCtx r fun x => { x with status := .running })) ∧
  (∀ (s : State) r a v y, (s.ctx r).status = .parked (.waitGe a v) → (s.apply r (.touch a 8)).counterAt r.core a = some y → v ≤ y →
    (isCtl r.core = true ∨ (s.core r.core).mem.foundRead a 8 = []) →
    exec (.waitRetest r) s = .next ((s.apply r (.touch a 8)).modCtx r fun x => { x with status := .running }))

/-- R6, R81, R82, R83, R127, R128, R131, R132, R134, R351: pieces, elements and lock events. The order of pieces is open: log 10. -/
def Obligations.PieceEvents : Prop :=
  (∀ (s : State) n p, s.pieces[n]? = some p → s.pieceReady n p = true → s.alive p.issuer p.node = true →
    let s1 : State := { s with pieces := s.pieces.eraseIdx n }
    s1.pieceFound p = s1 → exec (.piecePerformed n) s = .next (
      let k := s.core p.target
      match k.pieceCause p with
      | some c => s1.modCtx p.issuer fun x => (x.answer p (k.pieceBytes p true) false (s.pieceKind p != 2)).refuse c p.atl p.seq
      | none => (s1.pieceEffect p).modCtx p.issuer fun x => x.answer p (k.pieceBytes p false)
          (p.kind == .load && (List.range p.len).any fun i => !k.mem.has (p.off + i)) (s.pieceKind p != 2))) ∧
  (∀ (s : State) r st, (s.ctx r).stream = some st → st.stopped = false → st.ready = true → st.n ≤ st.moved → st.next ≤ s.cycle + 1 →
    ∃ t, exec (.streamElementStep r) s = .next t ∧ (t.ctx r).stream = none ∧ Holds (t.ctx r) (.s st.dreg (BitVec.ofNat 64 st.n))) ∧
  (∀ (s : State) r st, (s.ctx r).stream = some st → st.stopped = false → st.ready = true → st.moved < st.n → st.next ≤ s.cycle →
    (st.srcCore = r.core → (s.core r.core).bankBusy s.cycle (st.src + st.moved * st.esize) = false) →
    (st.dstCore = r.core → (s.core r.core).bankBusy s.cycle (st.dst + st.moved * st.esize) = false) →
    ∃ t, exec (.streamElementStep r) s = .next t ∧
      (if st.moved + 1 < st.n then (t.ctx r).stream = some { st with moved := st.moved + 1, next := s.cycle + 1, resumed := false }
       else (t.ctx r).stream = none ∧ Holds (t.ctx r) (.s st.dreg (BitVec.ofNat 64 st.n))) ∧
      let first := s.before r { ranges := [(st.srcCore, st.src + st.moved * st.esize, st.esize),
        (st.dstCore, st.dst + st.moved * st.esize, st.esize)], writes := true }
      ∀ c, (t.core c).mem = ((first.moveElem r st).core c).mem) ∧
  (∀ (s : State) r st, (s.ctx r).stream = some st → st.stopped = false → st.kind = .rmv → st.srcCore ≠ st.dstCore →
    st.srcLock = .requested → st.dstLock = .requested →
    let own := (s.ctx r).node
    let one (dst : Bool) (c : CoreRef) (a : Nat) : State := match (s.core c).lockFailure a st.n dst with
      | none => s.modCore c fun k => k.lock own a (2 * st.n)
      | some _ => s
    let now (dst : Bool) (c : CoreRef) (a : Nat) : LockState := match (s.core c).lockFailure a st.n dst with
      | none => .locked
      | some f => .failed f.1 f.2
    exec (.lockEvent r false) s = .next ((one false st.srcCore st.src).modCtx r fun x =>
      { x with stream := some { st with srcLock := now false st.srcCore st.src } }) ∧
    exec (.lockEvent r true) s = .next ((one true st.dstCore st.dst).modCtx r fun x =>
      { x with stream := some { st with dstLock := now true st.dstCore st.dst } }))

/-- R193, R196, R197, R199, R205 to R209: each of MATRIX_COMMAND_START, MATRIX_STEP, OPERANDS_CONSUMED, DRAIN_START and DRAIN_PUBLISH
completes, with the state that it leaves, in every state where the event is due. A start whose reading finds an uncorrectable word
completes where the context's trap queue has room (R96). Where the engine's owner is to be pre-empted nothing starts, and an `mmq` whose
operands are not consumed stops at its next step (R198, R314). The model's readings: log 44. -/
def Obligations.MatrixEvents : Prop :=
  (∀ (s : State) c, s.mxHalted c = true → exec (.matrixCommandStart c) s = .next s) ∧
  (∀ (s : State) c q qs, (s.core c).mx.queue = q :: qs → (s.core c).mx.startable s.cycle q = true → s.mxHalted c = false → q.op = .mzero →
    exec (.matrixCommandStart c) s = .next (s.modCore c fun k =>
      { k with mx := ({ k.mx with queue := { q with started := some s.cycle } :: qs } : Matrix).setAcc q.acc Acc.zero })) ∧
  (∀ (s : State) c q qs z rc ta tb, (s.core c).mx.queue = q :: qs → (s.core c).mx.startable s.cycle q = true → s.mxHalted c = false →
    q.op = .mmq z rc ta tb → (s.core c).finds (q.reads s.mx6) = false →
    exec (.matrixCommandStart c) s = .next (s.modCore c fun k0 =>
      let k := k0.readIn (q.reads s.mx6)
      let acc := if z && q.step == 0 then Acc.zero else k.mx.acc q.acc
      let pois := acc.pois || (!q.consumed && (q.sectors s.mx6).any fun sec => setHas k.mem.pois sec)
      let q1 : MxCmd := { q with
        started := some s.cycle, firstStep := q.step
        opA := if q.consumed then q.opA else k.viewBytes s.mx6 q.a, opB := if q.consumed then q.opB else k.viewBytes s.mx6 q.b }
      { k with mx := ({ k.mx with queue := q1 :: qs } : Matrix).setAcc q.acc { acc with pois := pois } })) ∧
  (∀ (s : State) c q qs z rc ta tb, (s.core c).mx.queue = q :: qs → (s.core c).mx.startable s.cycle q = true → s.mxHalted c = false →
    q.op = .mmq z rc ta tb → s.findsFull c (s.mxCtx c) (s.ctx (s.mxCtx c)).node (q.reads s.mx6) = false →
    ∃ t q1, exec (.matrixCommandStart c) s = .next t ∧ (t.core c).mx.queue = q1 :: qs ∧ q1.started = some s.cycle ∧ q1.firstStep = q.step ∧
      ((t.core c).mx.acc q.acc).cells = (if z && q.step == 0 then [] else ((s.core c).mx.acc q.acc).cells)) ∧
  (∀ (s : State) c q qs at0, (s.core c).mx.queue = q :: qs → q.started = some at0 → q.stepAt at0 ≤ s.cycle →
    (q.op = .mzero → exec (.matrixStep c) s = .next (s.modCore c fun k => { k with mx := { k.mx with queue := qs, readyAt := s.cycle } })) ∧
    (∀ z rc ta tb, q.op = .mmq z rc ta tb →
      let a := mmqStep s.mx6 q rc ta tb ((s.core c).mx.acc q.acc) q.step
      (q.step + 1 ≠ q.steps → exec (.matrixStep c) s = .next (s.modCore c fun k =>
        { k with mx := ({ k.mx with queue := { q with
            step := q.step + 1, started := if s.mxHalted c && !q.consumed then none else q.started } :: qs } : Matrix).setAcc q.acc a })) ∧
      (q.step + 1 = q.steps → q.consumed = true → exec (.matrixStep c) s = .next (s.modCore c fun k =>
        { k with mx := ({ k.mx with queue := qs, readyAt := s.cycle } : Matrix).setAcc q.acc (checksum s.mx6 q rc ta tb a) })))) ∧
  (∀ (s : State) c q qs z rc ta tb at0, (s.core c).mx.queue = q :: qs → q.op = .mmq z rc ta tb → q.started = some at0 → q.consumed = false →
    q.consumedAt at0 ≤ s.cycle → exec (.operandsConsumed c) s = .next (
      let r := s.mxCtx c
      let x := s.ctx r
      (s.modCore c fun k => { k with
        mx := { k.mx with queue := { q with consumed := true } :: qs }, holds := k.holds.filter fun h => h.2 != q.id }).ask
          ⟨c, some r, q.ctr, 1, .none, x.node, x.job, x.spec.scope.toNat, x.spec.tenant.toNat, none, false⟩)) ∧
  (∀ (s : State) c d ds, (s.core c).mx.drains = d :: ds → d.started = none → (s.core c).finds d.reads = false →
    (∀ q ∈ (s.core c).mx.queue, q.id ∉ d.after) →
    (∀ sec ∈ runSectors (viewRuns s.mx6 d.dst), ∀ h ∈ (s.core c).holds, h.1 = sec → h.2 = d.id) →
    exec (.drainStart c) s = .next (s.modCore c fun k0 =>
      let k := k0.readIn d.reads
      let a := k.mx.acc d.acc
      let pois : Bool := match d.bias with
        | some v => a.pois || (runSectors (biasRuns v)).any fun sec => setHas k.mem.pois sec
        | none => a.pois
      let bias (j : Nat) : Option Nat := match d.bias with
        | some v => if j < 128 then some (k.biasOf v j) else none
        | none => none
      { k with
        mx := { k.mx with drains := { d with
          started := some s.cycle, outPois := pois, failCol := if pois then none else a.failing
          out := (d.rows (coreIdReg c) a bias).flatMap fun r => r.2.zipIdx.map fun b => (r.1 + b.2, b.1) } :: ds }
        holds := k.holds.filter fun h => h.2 != d.id })) ∧
  (∀ (s : State) c d ds at0, (s.core c).mx.drains = d :: ds → d.started = some at0 →
    (at0 + 150 ≤ s.cycle → d.discard = true → exec (.drainPublish c) s = .next (s.modCore c fun k => k.endDrain d ds)) ∧
    (∀ j t, at0 + 150 ≤ s.cycle → d.discard = false → d.failCol = some j →
      ((((s.modCore c fun k => k.endDrain d ds).setChkf c d true).modJob d.job fun j => { j with counts.mxchk := j.counts.mxchk + 1 }).deliver
        d.ctx d.node ⟨0x22, faultA 0x10 d.dstId (vwBase d.dst + fmtSize (palFmt d.dst) * j),
          faultB d.seq 0 (vwRow0 d.dst) (vwCol0 d.dst + j)⟩ = .done t) → exec (.drainPublish c) s = .next t) ∧
    (at0 + 152 ≤ s.cycle → d.discard = false → d.failCol = none → exec (.drainPublish c) s = .next (
      let s1 := s.modCore c fun k => k.publishDrain s.mx6 d ds
      let s2 := if d.outPois then s1 else s1.setChkf c d false
      (s2.cmdBump (some d.ctx) d.node d.dstId).ask ⟨c, some d.ctx, d.ctr, 1, .none, d.node, d.job, d.scope, d.tenant, none, false⟩))) ∧
  (∀ (k : Core) mx6 d ds, k.mem.wf = true →
    let secs := runSectors (viewRuns mx6 d.dst)
    ∃ (m : Scratch) (down : BitVec 32), k.publishDrain mx6 d ds = { k.endDrain d ds with mem := m, segDown := down } ∧
      (∀ g, down.getLsbD g = true → k.segDown.getLsbD g = true) ∧
      (∀ a, a / 32 ∈ secs → m.has a = true) ∧
      (∀ b ∈ d.out, (∀ b' ∈ d.out, b'.1 = b.1 → b'.2 = b.2) → m.load b.1 = b.2) ∧
      (∀ a, (∀ b ∈ d.out, b.1 ≠ a) → m.load a = if a / 32 ∈ secs then 0 else k.mem.load a))

/-- R98, R209, R212, R214, R216, R219, R221, R227, R228, R239 to R242, R293, R296, R328, R348: the copy engines, their counters, completions.
The model's readings: logs 10 and 45. -/
def Obligations.EngineEvents : Prop :=
  let first (s : State) (c : Cmd) : Prop := s.cmd c.id = some c ∧ c.state = .queued ∧ s.inOrder c = true
  (∀ (s : State) c, first s c → ((s.engineOf c.core).filter Cmd.running).length < 16 → c.op.transfers = true →
    s.unreachable c.core = false → s.underHold c = false →
    exec (.commandStart c.id) s = .next ((s.setCmd { c with state := .running }).markSectors c)) ∧
  (∀ (s : State) c v, first s c → ((s.engineOf c.core).filter Cmd.running).length < 16 → c.op = .ctradd v →
    s.ctraddReady c.ctx c.node c.id c.core = true → c.ctr ≠ .none → s.unreachable c.core = false →
    exec (.commandStart c.id) s = .next { s.setCmd { c with state := .running } with
      adds := s.adds ++ [⟨c.core, c.ctx, c.ctr, v, .none, c.node, c.job, c.scope, c.tenant, some c.id, true⟩] }) ∧
  (∀ (s : State) c, s.cmd c.id = some c → c.state = .running → c.killed = false → s.outside c = false → c.op.transfers = true →
    s.unreachable c.core = true → exec (.transferCompletion c.id) s = .next (s.unreachCmd c)) ∧
  (∀ (s : State) c, s.cmd c.id = some c → c.state = .running → c.killed = false → s.outside c = false → c.op.transfers = true →
    s.unreachable c.core = false → ∀ c1 s1, s.elemLoop c ((c.elems s.mx6).drop c.pos) = (none, c1, s1) → c1.found = none →
    exec (.transferCompletion c.id) s = .next ((if c1.op.np then s1.setCmd { c1 with state := .complete } else s1.publishCmd c1).cmdAdd c1)) ∧
  (∀ (s : State) c, s.cmd c.id = some c → c.state = .running → c.killed = false → c.op.transfers = true →
    s.unreachable c.core = false → ∀ f e c1 s1 r s2, s.elemLoop c ((c.elems s.mx6).drop c.pos) = (some (f, e), c1, s1) → (f.code ≠ 0x21 ∨ f.cause ≠ 0x05) →
    c1.ctx = some r → s1.deliver r c1.node ⟨f.code, (c1.record f e).1, (c1.record f e).2⟩ = .done s2 →
    exec (.commandHeld c.id) s = .next (s2.setCmd { c1 with state := .held f.code (c1.record f e).1 (c1.record f e).2 })) ∧
  (∀ (s : State) c, first s c → c.op = .pub → (∀ d ∈ s.npInto c.ctx c.node c.id c.dstId, d.state = .complete) →
    exec (.publish c.id) s = .next (
      let ts := s.npInto c.ctx c.node c.id c.dstId
      let s1 := ts.foldl (fun (a : State) d => a.publishData ((a.cmd d.id).getD d)) s
      ((if ts = [] then s1 else s1.cmdBump c.ctx c.node c.dstId).endCmd c.id).cmdAdd c)) ∧
  (∀ (s : State) c, first s c → c.op = .dsc → (∀ d ∈ s.npInto c.ctx c.node c.id c.dstId, d.settled = true) →
    exec (.discard c.id) s = .next ((((s.npInto c.ctx c.node c.id c.dstId).foldl State.discardCmd s).endCmd c.id).cmdAdd c)) ∧
  (∀ (s : State) c a b n, s.cmd c.id = some c → c.state = .running → s.namesWait c = false → c.op = .kvshare a b →
    (s.tower (towerOf c.core)).block c.tenant a.toNat = some n → (s.tower (towerOf c.core)).block c.tenant b.toNat = none →
    (s.tower (towerOf c.core)).namesOf n < 255 → (s.tower (towerOf c.core)).canvNames.length < 131072 →
    exec (.canvasNameUpdate c.id) s = .next ((s.modTower (towerOf c.core) fun w =>
      { w with canvNames := w.canvNames ++ [(c.tenant, b.toNat, n)] }).endCmd c.id)) ∧
  (∀ (s : State) n a off, s.adds[n]? = some a → a.ctr = .mem off → s.makeable a = true → (s.core a.core).mem.foundRead off 8 = [] →
    (s.core a.core).mem.poisoned off = false → a.andThen = .none →
    exec (.engineCounterAdd n) s = .next (
      let s1 := ({ s with adds := s.adds.eraseIdx n } : State).modCore a.core fun k => { k.powerUp off 8 with mem := k.mem.correct off 8 }
      let s2 := (s1.modCore a.core fun k => { k with mem := k.mem.put off (leBytes 8 (if (List.range 8).all fun i => k.mem.has (off + i) then
        BitVec.ofNat 64 (leNat (k.mem.loads off 8)) + a.amount else a.amount).toNat) }).retestCore a.core
      if a.ends = false then s2 else ({ s2 with cmds := s2.cmds.filter fun c => some c.id != a.src } : State).testColls a.core)) ∧
  (∀ (s : State) t n c u, (s.tower t).completions[n]? = some c → c.held = false → s.queue c.queue = some u → u.en = true →
    (∀ d ∈ (s.tower t).completions.take n, d.held = true) → u.cqwrite - u.cqhead ≠ BitVec.ofNat 32 (2 ^ u.cqn) → c.ctx = none →
    exec (.completionWrite t n) s = .next (({ s.modTower t fun w => { w with completions := w.completions.eraseIdx n } with
      hostmem := putBytes s.hostmem (u.cqbase + 64 * (u.cqwrite.toNat % 2 ^ u.cqn))
        (leBytes 64 (c.entry ||| at_ 512 63 (if u.cqwrite.getLsbD u.cqn then 0 else 1)).toNat) } : State).modQueue c.queue fun u =>
          { u with cqwrite := u.cqwrite + 1 })) ∧
  (∀ (s : State) t n, (∃ d ∈ (s.tower t).completions.take n, d.held = false) → exec (.completionWrite t n) s = .next s)

/-- R212, R277 to R288, R294, R296, R330: collectives, links and the clock. The model's readings and choices: logs 22, 23 and 64; that a
lost link stays up, log 49; SHAKE256, log 67; which half of the 64 bytes keys which direction, the order of the public keys, and which
flits out of sequence are old, log 75. -/
def Obligations.LinkEvents : Prop :=
  (∀ (s : State) c e, s.coll c.id = some c → c.started = false → c.killed = false → c.ready ≠ 0 → s.firstReady c = true →
    s.freeEngine (towerOf c.core) = some e → s.collAdding c = false → s.unreachable c.core = false → s.collWaits c = false → c.P = 1 →
    exec (.collectiveStart c.id) s = .next (
      let s1 := s.bucketFound c
      (s1.modCore c.core fun k =>
        { k with transit := k.transit ++ (runSectors (viewRuns s1.mx6 c.bucket)).map fun sec => (sec, c.id) }).setColl
          { c with started := true, engine := e, work := s1.bucketElems c, workPois := s1.bucketPois c })) ∧
  (∀ (s : State) c, s.coll c.id = some c → c.finished = true → c.P = 1 → s.unreachable c.core = false →
    exec (.collectivePublish c.id) s = .next (
      let s1 := (((s.endColl c).mergeFoundAt c.core c.cause c.job c.tenant c.scope c.bucketId
        ((c.written ++ c.vacated).map c.bytesOf)).modCore c.core fun k => { k with mem := k.mem.publishColl c }).cmdBump c.ctx c.node c.bucketId
      (s1.collCounters c (if clKind c.desc = 4 then 0 else s1.countNonFinite c)).testColls c.core)) ∧
  (∀ (s : State) c, s.coll c.id = some c → exec (.rctrRetest c.id) s = .next (s.testColls c.core)) ∧
  (∀ (s : State) m j, s.msgs.find? (fun x => x.id == m.id) = some m → s.job m.job = some j → m.posted = false → s.qpushReady m = true →
    exec (.qpushPost m.id) s = .next (({ s with msgs := s.msgs.map fun x => if x.id == m.id then { x with posted := true } else x } : State).modTower
      (queueTower j.cq) fun w => w.accept
        ⟨j.cq, ({ type := 0x03, job := m.job, tenant := m.tenant, scope := m.scope, pay := m.data } : Answer).entry j.cq s.time, false,
          m.ctr, some m.ctx, m.id⟩)) ∧
  (∀ (w : Tower) c, w.accept c = if w.hold = true ∧ 16384 ≤ w.holdCount then { w with postWait := w.postWait ++ [c] }
    else { w with completions := w.completions ++ [{ c with held := w.hold }] }) ∧
  (∀ (s : State) port (dw0 dw1 : W64) bytes, (s.link port).takes = true →
    let f : Flit := ⟨dw0, dw1, bytes⟩
    (f.seq = (s.link port).rxSeq → s.collOf port f.stream = none → exec (.dataFlit port dw0 dw1 bytes true) s = .next (s.take port)) ∧
    (∀ c, f.seq = (s.link port).rxSeq → s.collOf port f.stream = some c → c.killed = false → dw1.toNat = c.rx.length →
      bytes.length = dw0.toNat / 2 ^ 20 % 512 → c.rx.length + bytes.length ≤ c.due c.step * c.wire c.step →
      exec (.dataFlit port dw0 dw1 bytes true) s = .next (s.takeData port c (dw0.toNat / 2 ^ 29 % 128) bytes)) ∧
    (f.seq ≠ (s.link port).rxSeq → exec (.dataFlit port dw0 dw1 bytes true) s = .next (s.modLink port fun l =>
      if (f.seq - l.rxSeq).toNat < 2048 then l.control 3 l.rxSeq else if s.withheld port then l else l.control 2 (l.rxSeq - 1)))) ∧
  (∀ (s : State) port seq, let s1 := s.modLink port fun l => l.ack seq
    (∃ t, exec (.ackFlit port seq) s = .next t ∧ t.colls.map (·.id) = s.colls.map (·.id)) ∧
    ((∀ c ∈ s.colls, ringTx c.ring = port → c.sentOut (s1.link port) = false) → exec (.ackFlit port seq) s = .next s1)) ∧
  (∀ (s : State) port seq, exec (.retryRequest port seq) s = .next (s.modLink port fun l => l.goBack seq s.time s.stamp)) ∧
  (∀ (s : State) port c, (s.link port).takes = true → s.coll c.id = some c → c.started = true → c.finished = false → port ∈ c.ports →
    exec (.abortFlit port c.id) s = .next ((s.take port).failColl { c with aborted := true } 0x1B)) ∧
  (∀ (s : State) port from_ stamp, (s.link port).takes = true → from_ ≠ BitVec.allOnes 64 →
    (s.grandmaster = some from_ → exec (.timeFlit port (some (from_, stamp))) s = .next ((s.take port).steer (((s.stamp : Int) - stamp.toNat) * 95 / 8))) ∧
    (s.grandmaster ≠ some from_ → exec (.timeFlit port (some (from_, stamp))) s = .next (s.take port))) ∧
  (∀ (s : State) port, (s.link port).queue = [] → (s.link port).canSend = true → (s.link port).unacked.length < 1024 →
    exec (.timeFlit port none) s = .next (s.modLink port fun l => l.push [(flitHead 5 0 0 0, BitVec.ofNat 64 s.stamp, [])])) ∧
  (∀ (s : State) ns, s.grandmaster = some (BitVec.allOnes 64) →
    exec (.precisionTimeMeasurement ns) s = .next (s.steer ((s.time19 : Int) - 19 * ns))) ∧
  (∀ (s : State) port c stream device ringid, s.coll c.id = some c → (s.link port).takes = true → c.started = true → c.killed = false →
    c.finished = false → c.failing = none → clKind c.desc ≠ 4 → ringRx c.ring = port → c.peer = none →
    let named := (s.vread c.job (ringList c.ring + 8 * ((c.pos + c.P - 1) % c.P)) 8).map fun b => BitVec.ofNat 64 (leNat b)
    (named = some device → ringid = ringId c.ring → exec (.helloFlit port c.id stream device ringid true) s = .next (
      let d := { c with peer := some stream }.enter (c.steps + 1)
      ((s.take port).setColl d.1).modLink (ringTx c.ring) fun l => l.push d.2)) ∧
    (∀ ok, (named ≠ some device ∨ ringid ≠ ringId c.ring ∨ ok = false) → exec (.helloFlit port c.id stream device ringid ok) s =
      .next ((s.take port).failColl c 0x1A))) ∧
  (∀ (s : State) port since, (s.link port).retrySince = some since → since + 10000 ≤ s.time →
    exec (.linkLoss port) s = .next ((s.colls.filter fun c => c.started && !c.finished && c.uses.contains port).foldl (fun a c => a.failColl c 0x18) s)) ∧
  (∀ (s : State) port peer secret signed, (s.link port).up = true → (signed = false ∨ peer ∉ s.peers) →
    exec (.linkRekey port peer secret signed) s = .next (s.modLink port fun l => { l with up := false, listed := false })) ∧
  (∀ (s : State) port peer secret, (s.link port).up = true → peer ∈ s.peers →
    let lower : Bool := s.idKey.toNat ≤ peer.toNat
    let lo := leBytes 57 (min s.idKey.toNat peer.toNat)
    let hi := leBytes 57 (max s.idKey.toNat peer.toNat)
    let out := shake256 (leBytes 56 secret.toNat ++ lo ++ hi) 64
    let k0 := BitVec.ofNat 256 (leNat (out.take 32))
    let k1 := BitVec.ofNat 256 (leNat (out.drop 32))
    exec (.linkRekey port peer secret true) s = .next (s.modLink port fun l =>
      let l1 := { l with listed := true, txKey := if lower then k0 else k1, rxKey := if lower then k1 else k0, txCtr := 0, rxCtr := 0 }
      l1.pump l1.queue))

/-- R94, R198, R248 to R250, R262, R263, R269, R275, R314, R320, R321: dispatch, pre-emption, cancels, ticks, slices, segments.
The model's readings: logs 31 and 47. -/
def Obligations.SuspensionEvents : Prop :=
  (∀ (s : State) t n j r, s.node n.id = some n → s.job n.job = some j → s.nextNode t = some n.id → n.tower = t → recKind n.nrec = 0 →
    s.isAtelierNode n = false → s.matchesCore n r.core = true → s.freeFor n r.core = some r →
    exec (.dispatch t [(n.id, r)]) s = .next ((s.modTower t fun w => { w with dispatches := w.dispatches + 1 }).place n j r none)) ∧
  (∀ (s : State) r, (s.ctx r).preempt = true → (s.ctx r).status ≠ .free → s.preemptWaits r = false → s.inSlice (towerOf r.core) (s.ctx r).job = true →
    (s.ctx r).ptag = 0 → exec (.preemption r) s = .next ((((s.takeCmds r (s.imageOf r)).modNode (s.ctx r).node fun n =>
      { n with image := some (s.imageOf r), state := .ready }).freeCtx r).requeue (s.ctx r).node)) ∧
  (∀ (s : State) k core, s.cancels.find? (fun c => c.id == k.id) = some k → core ∈ k.left → core < 512 →
    exec (.cancelArrival k.id core) s = .next (s.cancelArrive k (coreOfId core))) ∧
  (∀ (s : State) k, s.cancels.find? (fun c => c.id == k.id) = some k → s.quietCancel k = true → k.ctr = 0 →
    (∀ n ∈ s.nodes, n.state ≠ .checking) →
    exec (.subtreeQuiet k.id) s = .next { s with
      scopes := s.scopes.map fun c => if c.home == k.home && k.scopes.contains c.id && c.job == k.job then { c with state := .dead } else c
      cancels := s.cancels.filter (·.id != k.id) }) ∧
  (∀ (s : State) j, s.job j.num = some j → j.start + (j.ticks + 1) * j.interval ≤ s.time →
    (∀ n ∈ s.nodes, n.job = j.num → n.deadline ≠ some (j.ticks + 1)) →
    exec (.frameTick j.num) s = .next (
      let s1 := s.modJob j.num fun j => { j with ticks := j.ticks + 1 }
      if j.slipping = [] then s1.frameUp j.num else s1)) ∧
  (∀ (s : State) t i, i < (s.tower t).slices.length → exec (.sliceBoundary t i) s = .next (s.sliceTo t i) ∧
    ((s.sliceTo t i).tower t).slice = some i) ∧
  (∀ (s : State) c seg, (c.val, seg) ∈ (s.tower (towerOf c)).saving → seg < 32 → s.segEngaged c seg = false → (s.tower (towerOf c)).slices ≠ [] →
    (∀ j ∈ s.jobs, j.num ≠ (s.tower (towerOf c)).sliceJob (s.tower (towerOf c)).slice → s.jobOwns j.num c seg = false) →
    (∀ x ∈ (s.tower (towerOf c)).savedSegs, x.core = c → x.seg = seg → x.job ≠ (s.tower (towerOf c)).sliceJob (s.tower (towerOf c)).slice) →
    ∃ t, exec (.segmentSave c seg) s = .next t ∧ (t.core c).mem = (s.core c).mem.clearSeg seg ∧
      (c.val, seg) ∉ (t.tower (towerOf c)).saving) ∧
  (∀ (s : State) c seg, isCtl c = false → seg < 32 → (s.ctx ⟨c, false⟩).owns seg = false → (s.ctx ⟨c, true⟩).owns seg = false →
    (∀ n ∈ s.nodes, ∀ im, n.image = some im → im.core = c → im.ctx.owns seg = false) → (∀ h ∈ (s.core c).mem.pres, h / 0x20000 ≠ seg) →
    (∀ p ∈ (s.core c).pend, p.1 / 0x2000 ≠ seg) →
    exec (.segmentPowerDown c seg) s = .next (s.modCore c fun k =>
      { k with segDown := setBit k.segDown seg true, mem := k.mem.clearSeg seg }))

/-- The queue as Easel's taking of its next entry leaves it (R291): where every entry below the tail of its last claim has been read and
KICK is set, Easel claims it first: KICK is cleared and the tail read. -/
def afterClaim (s : State) (q : Nat) (t : State) : State := match s.queue q with
  | none => t
  | some u =>
    if newer u.claim (u.lastseq + 1) = false ∧ q % 2048 ∈ (s.tower (queueTower q)).kick then
      (t.modQueue q fun v => { v with claim := u.sqtail }).modTower (queueTower q) fun w => { w with kick := setDel w.kick (q % 2048) }
    else t

/-- Easel takes an entry: its queue is enabled and has no entry unanswered, the entry stands in the queue's ring below the tail that
Easel has read, the hold has room, its SEQ is the next (R289, R291, R292, R304). -/
structure Taken (s : State) (q : Nat) (e : Rec64) (opc : Nat) : Prop where
  queue : ∃ u, s.queue q = some u ∧ u.en = true ∧ u.busy = none ∧ s.offers q u e = true ∧ subSeq e = u.lastseq + 1
  op : subOpc e = opc
  room : (s.tower (queueTower q)).holdFull = false

/-- Such an entry of a running job, its fields that must be 0 from doubleword i on (R292). -/
structure OfJob (s : State) (q : Nat) (e : Rec64) (opc : Nat) (j : Job) (i : Nat) : Prop extends Taken s q e opc where
  ok : subOk e = true
  job : s.job (subJob e) = some j
  zero : ∀ k < 8, i ≤ k → dw e k = 0

/-- R66, R233, R234, R259, R265, R276, R291 to R295, R314, R327, R347, R350: the host's submission entries. The model's readings and
choices: logs 12 and 33. -/
def Obligations.HostEntries : Prop :=
  let did (s t : State) (q : Nat) (e : Rec64) (pay : BitVec 256) : Out := .next (afterClaim s q (t.answer q (subSeq e) e (.done pay)))
  let later (s t : State) (q : Nat) (e : Rec64) : Out := .next (afterClaim s q (t.answer q (subSeq e) e .later))
  let failed (s : State) (q : Nat) (e : Rec64) (status : Nat) : Out := .next (afterClaim s q (s.answer q (subSeq e) e (.failed status)))
  let d (e : Rec64) (i : Nat) : Nat := (dw e i).toNat
  (∀ s q e, Taken s q e 0x01 →
    (∀ n t, s.launch q (subSeq e) e = .done n t → exec (.launch q e) s = did s t q e (BitVec.ofNat 256 n)) ∧
    (∀ t, s.launch q (subSeq e) e = .later t → exec (.launch q e) s = later s t q e)) ∧
  (∀ s q e job r, Taken s q e 0x02 → s.nodeEntry e = .ok (job, r) → s.poolRoom (recTower r) = true →
    exec (.node q e) s = did s (s.insertNode job r).2 q e (BitVec.ofNat 256 (s.insertNode job r).1)) ∧
  (∀ s q e j bs, OfJob s q e 0x03 j 4 → d e 2 < 512 → s.vreadClean j.num (d e 3) 64 = some bs → groupOk (recOfBytes bs) = true →
    s.groupRefused (bit (dw e 2) 8) (d e 2 % 256) (recOfBytes bs) = false →
    exec (.group q e) s = did s (s.modTower (bit (dw e 2) 8) fun w => { w with
      groups := tabSet 0 w.groups (d e 2 % 256) (recOfBytes bs)
      instances := if grpType (recOfBytes bs) = 2 then w.instances.filter fun k => k.1 / 4 != d e 2 % 256 else w.instances }) q e 0) ∧
  (∀ s q e j, OfJob s q e 0x04 j 4 → canonical (d e 2) = true → d e 2 + d e 3 ≤ (if d e 2 < 2 ^ 48 then 2 ^ 48 else 2 ^ 64) →
    exec (.inval q e) s = later s { s with
      invals := s.invals ++ [⟨s.nextId, j.num, d e 2, d e 3, 3, none, 0, some (q, subSeq e)⟩], nextId := s.nextId + 1 } q e) ∧
  (∀ s q e j ps, OfJob s q e 0x05 j 5 → d e 4 = 0 → canonical (d e 2) = true → d e 2 + d e 3 ≤ halfEnd (d e 2) →
    s.pagesOf j.num (d e 2) (d e 3) = some ps →
    exec (.pin q e) s = did s ((ps.foldl (fun (a : State) p => a.publishPte p.2.at_ (BitVec.ofNat 64
      (p.2.entry.toNat - if ptePin p.2.entry then 2 ^ 61 else 0))) s).retryNoFrame) q e 0) ∧
  (∀ s q e j c, OfJob s q e 0x06 j 3 → d e 2 < 4096 → s.jobScope j (d e 2) = some c →
    exec (.hostCancel q e) s = did s (s.killScope j.home j.num c.id 0 0 j.tenant.toNat) q e 0) ∧
  (∀ s q e j, OfJob s q e 0x07 j 4 → d e 2 < 512 → d e 3 < 2 → (s.ctx (entryCtx e)).status = .parked .brk → (s.ctx (entryCtx e)).job = j.num →
    exec (.release q e) s = did s (s.modCtx (entryCtx e) fun x => { x with status := .running }) q e 0) ∧
  (∀ s q e j c, OfJob s q e 0x08 j 6 → d e 2 < 4096 → 4 ≤ d e 4 → d e 4 ≤ 16 → s.jobScope j (d e 2) = some c →
    exec (.scopering q e) s = did s (s.modScope j.home c.id fun c =>
      { c with ring := some (d e 3, d e 4), notify := if dw e 5 = 0 then none else some (d e 5) }) q e 0) ∧
  (∀ s q e, Taken s q e 0x09 → s.namesDone e = true → exec (.preempt q e) s = failed s q e 4) ∧
  (∀ s q e, Taken s q e 0x0A → s.namesDone e = true → exec (.layerpwr q e) s = failed s q e 4) ∧
  (∀ s q e, Taken s q e 0x09 → subOk e = true → s.namesDone e = false → d e 2 < 512 → d e 3 < 2 → (∀ k < 8, 4 ≤ k → dw e k = 0) → (s.ctx (entryCtx e)).status ≠ .free →
    (s.ctx (entryCtx e)).ptag = 0 →
    exec (.preempt q e) s = later s (s.askPreempt (entryCtx e) (1 + q * 2 ^ 32 + (subSeq e).toNat)) q e) ∧
  (∀ s q e, Taken s q e 0x0A → subOk e = true → s.namesDone e = false → d e 2 < 8 → (∀ k < 8, 4 ≤ k → dw e k = 0) →
    let t := bit (dw e 2) 2
    let layer := d e 2 % 4
    (d e 3 = 0 → s.layerUsed t layer = false → (∀ p ∈ (s.tower t).powering, p.2.2 ≠ layer) → exec (.layerpwr q e) s = did s ((s.wipeLayer t layer).modTower t fun w =>
      { w with layersOff := setBit w.layersOff layer true }) q e 0) ∧
    (d e 3 = 1 → (s.tower t).layersOff.getLsbD layer = true → exec (.layerpwr q e) s =
      later s (s.modTower t fun w => { w with powering := w.powering ++ [(q, subSeq e, layer)] }) q e)) ∧
  (∀ s q e j, OfJob s q e 0x0B j 5 → d e 2 < 512 → d e 2 % 256 = 1 → 4 ≤ d e 4 → d e 4 ≤ 16 →
    exec (.sliplog q e) s = did s (s.modJob j.num fun j =>
      { j with sliplogs := (bit (dw e 2) 8, d e 3, d e 4) :: j.sliplogs.filter fun x => x.1 != bit (dw e 2) 8 }) q e 0) ∧
  (∀ s q e j, OfJob s q e 0x0B j 4 → d e 2 < 512 → d e 2 % 256 = 2 → d e 3 < 2 ^ 32 →
    exec (.arbw q e) s = did s (s.modJob j.num fun j =>
      { j with arbwDef := (dw e 3).extractLsb' 0 16, arbwLim := (dw e 3).extractLsb' 16 16 }) q e 0) ∧
  (∀ s q e j, OfJob s q e 0x0B j 4 → d e 2 < 512 → d e 2 % 256 = 3 →
    exec (.clock q e) s = did s { s with grandmaster := some (dw e 3) } q e 0) ∧
  (∀ s q e j c, OfJob s q e 0x0C j 3 → d e 2 < 4096 → s.jobScope j (d e 2) = some c →
    exec (.seal q e) s = did s (s.sclose j.home c.id) q e 0) ∧
  (∀ s q e j t, OfJob s q e 0x0D j 5 → injectOk e = true → s.injection j e = .placed t → exec (.inject q e) s = did s t q e 0) ∧
  (∀ s q e, Taken s q e (subOpc e) → (subOpc e = 0 ∨ 0x0D < subOpc e) → exec (.badOpcode q e) s = failed s q e 1)

/-- R235, R289 to R291, R293, R320, R327, R329, R332: the host's registers and memory accesses.
The model's choices of addresses and registers: logs 24, 32 and 68. -/
def Obligations.HostAccesses : Prop :=
  (∀ (s : State) q cfg, bit cfg 63 = true → queueOk cfg = true → (∀ u, s.queue q = some u → u.en = false) →
    exec (.queueCreate q cfg) s = .next (s.modTower (queueTower q) fun w => { w with
      qcfg := tabSet 0 w.qcfg (q % 2048) cfg
      queues := (w.queues.filter fun u => u.index != q % 2048) ++ [{
        index := q % 2048, en := true, sqm := cfg.toNat / 2 ^ 32 % 16, sqbase := cfg.toNat % 2 ^ 32, cqbase := cfg.toNat / 2 ^ 64 % 2 ^ 64
        cqn := cfg.toNat / 2 ^ 128 % 32, sqtail := 0, cqhead := 0, cqwrite := 0, claim := 0, lastseq := 0xFFFFFFFF, busy := none, busyJob := 0 }]
      kick := setDel w.kick (q % 2048) })) ∧
  (∀ (s : State) q cfg, (∀ u, s.queue q = some u → u.en = false) → (bit cfg 63 = false ∨ queueOk cfg = false) →
    exec (.queueCreate q cfg) s = .next (s.modTower (queueTower q) fun w => { w with qcfg := tabSet 0 w.qcfg (q % 2048) (withoutEn cfg) })) ∧
  (∀ (s : State) q, exec (.queueDisable q) s = .next ((s.modQueue q fun u => { u with en := false, busy := none }).modTower (queueTower q) fun w =>
    Tower.takeIn { w with
      qcfg := tabSet 0 w.qcfg (q % 2048) (withoutEn (tabGet 0 w.qcfg (q % 2048)))
      origins := w.origins.filter fun o => o.queue != q % 2048
      completions := w.completions.filter fun c => c.queue != q
      postWait := w.postWait.filter fun c => c.queue != q })) ∧
  (∀ (s : State) q tail, exec (.sqtail q tail) s = .next ((s.modQueue q fun u => { u with sqtail := tail }).modTower (queueTower q) fun w =>
    { w with kick := setAdd w.kick (q % 2048) })) ∧
  (∀ (s : State) q head, exec (.cqhead q head) s = .next (s.modQueue q fun u => { u with cqhead := head })) ∧
  (∀ (s : State) t (x : W64),
    exec (.registerWrite t 0xC0100 x) s = .next (s.setSlices t x) ∧
    (slicesAt (s.tower t).qmem x.toNat ≠ [] → s.setSlices t x = s.modTower t fun w =>
      { w with slicetab := x, slices := slicesAt w.qmem x.toNat, slice := none }) ∧
    exec (.registerWrite t 0xC0110 x) s = .next (s.modTower t fun w => { w with rcptring := x }) ∧
    exec (.registerWrite t 0xC0118 x) s = .next (s.modTower t fun w => { w with rcptM := x }) ∧
    ∀ k i, k < 64 → i < 8 → ∃ u, exec (.registerWrite false (0xD0000 + 64 * k + 8 * i) x) s = .next u ∧
      (∀ i' < 8, dw (u.key k) i' = if i' = i then x else dw (s.key k) i') ∧ ∀ k' < 64, k' ≠ k → u.key k' = s.key k') ∧
  (∀ (s : State) job addr bytes,
    (s.hostOutside job addr bytes.length = false → exec (.hostCxlMemWrite job addr bytes) s = .next (s.hostWrite job addr bytes)) ∧
    (s.hostOutside job addr bytes.length = true → exec (.hostCxlMemWrite job addr bytes) s = .fault .noSuchMemory)) ∧
  (∀ (s : State) job addr len,
    (s.hostOutside job addr len = false →
      exec (.hostCxlMemRead job addr len) s = .next { s with hostData := (List.range len).map fun i => s.hostReadByte job (addr + i) }) ∧
    (s.hostOutside job addr len = true → exec (.hostCxlMemRead job addr len) s = .fault .noSuchMemory)) ∧
  (∀ (s : State) q seq t (layer : BitVec 2), (q, seq, layer.toNat) ∈ (s.tower t).powering →
    exec (.layerPowerOn q seq t layer) s = .next (((if (s.tower t).layersOff.getLsbD layer.toNat then
      (s.wipeLayer t layer.toNat).modTower t fun w => { w with layersOff := setBit w.layersOff layer.toNat false } else s).modTower t fun w =>
        { w with powering := w.powering.filter (· != (q, seq, layer.toNat)) }).answerBusy q seq 1 0))

/-- What a device-level error that begins in state s leaves (R325): no node is dispatched and no LAUNCH taken any more (`faulted`); every
job's launch completion queue has got a TYPE 0x08 entry with the cause, the tower and the column; every job's root scope is dying, and a
cancel of its subtree has set out for every core. -/
def FaultFollows (s u : State) (cause : Nat) (t : Bool) (column : Nat) : Prop :=
  u.faulted = true ∧ ∀ j : Job, s.job j.num = some j →
    (let a : Answer := { type := 0x08, job := j.num, tenant := j.tenant.toNat, scope := j.root,
                         pay := ofDws 256 [BitVec.ofNat 64 cause, BitVec.ofNat 64 (256 * towerNat t + column % 64), 0, 0] }
     ∃ c, (c ∈ (u.tower (queueTower j.cq)).completions ∨ c ∈ (u.tower (queueTower j.cq)).postWait) ∧
       c.queue = j.cq ∧ c.entry = a.entry j.cq s.time) ∧
    ((s.scope j.home j.root).isSome = true →
      (∃ d, u.scope j.home j.root = some d ∧ (d.state = .dying ∨ d.state = .dead)) ∧
      ∃ k ∈ u.cancels, k.job = j.num ∧ k.home = j.home ∧ j.root ∈ k.scopes ∧ k.left = List.range 512)

/-- R70, R108, R207, R233, R297, R305, R309, R313, R322, R323, R325, R326, R331 to R335: failures, clocks, bring-up, resets. A
device-level error that is in force already changes nothing. The model's choices and readings: logs 11, 13, 15, 27, 28, 62 and 63. -/
def Obligations.Reliability : Prop :=
  (∀ (s : State) t, s.beatOut t = true → (s.tower t).standbyOk = true → ∃ u, exec (.takeOver t) s = .next u ∧
    (u.tower t).hold = true ∧ (u.tower t).holdTko = true ∧ (u.tower t).japp = (s.tower t).jcom ∧ (u.tower t).beat = none ∧
      (∀ v ∈ (s.tower t).queues, v.en = true → v.index ∈ (u.tower t).kick) ∧
      (u.tower t).standbyOk = false ∧ (u.tower t).takeover = true ∧ (∀ c ∈ (u.tower t).completions, c.held = true) ∧
      (u.ctx ⟨s.controlCore t true, false⟩).status = .stopped ∧ (u.ctx ⟨s.controlCore t false, false⟩).status = .running ∧
      (u.ctx ⟨s.controlCore t false, false⟩).pc = (match s.firmware t with | some f => f.standby | none => 0)) ∧
  (∀ (s : State) t, s.beatOut t = true → (s.tower t).standbyOk = false → ∃ u, exec (.takeOver t) s = .next u ∧
    (u.tower t).hold = false ∧ (u.tower t).japp = (s.tower t).jcom ∧ (u.tower t).beat = none ∧
      (∀ v ∈ (s.tower t).queues, v.en = true → v.index ∈ (u.tower t).kick) ∧
      (u.ctx ⟨s.controlCore t true, false⟩).status = .stopped ∧ u.faulted = true ∧ (s.faulted = false → FaultFollows s u 5 t 0)) ∧
  (∀ (s : State) t agree f, s.firmware t = some f → (s.tower t).reloadDue = true → (s.tower t).standbyOk = false → (s.tower t).takeover = false → s.owed ⟨s.controlCore t false, false⟩ = false →
    exec (.standbyReload t agree) s = .next ((s.modCore (s.controlCore t false) fun _ => Core.blank.loaded f).modTower t fun w =>
      { w with reloadDue := false, standbyOk := agree && measureOf (Core.blank.loaded f).imem f.memory == w.fwDigest })) ∧
  (∀ (s : State) t agree, (s.tower t).reloadDue = false → exec (.standbyReload t agree) s = .next s) ∧
  (∀ (s : State) v t, s.invals.find? (fun w => w.id == v.id) = some v → v.left.getLsbD (towerNat t) = true → s.usesOld v t = false →
    ∃ u, exec (.invalidationAck v.id t) s = .next u ∧ (u.tower t).tlb.map (fun e => (e.root, e.vpn, e.big)) =
      ((s.tower t).tlb.filter fun e => !(e.root == s.rootOf v.job && v.coversPage e)).map fun e => (e.root, e.vpn, e.big)) ∧
  (∀ (s : State) t line, s.lineClaimed .gddr line = false → s.lineBad .gddr line = false →
    s.dev.symsIn line = [] → line ≠ 0 → exec (.scrub false t line) s = .next (s.modDmem .gddr fun m =>
      { m with syms := m.syms.filter fun y => y / 72 != line, told := setDel m.told line })) ∧
  (∀ (s : State) t line, s.dev.wf = true → s.lineClaimed .gddr line = false → s.lineBad .gddr line = true → ∃ u, exec (.scrub false t line) s = .next u ∧
    u.dev.symsIn line = [] ∧ u.dev.poisoned (64 * line) = true ∧ u.dev.poisoned (64 * line + 32) = true ∧
    (setHas s.dev.told line = false → setHas u.dev.silent line = true)) ∧
  (∀ (s : State) cause t column, ∃ u, exec (.deviceFault cause t column) s = .next u ∧ (s.faulted = true → u = s) ∧
    (s.faulted = false → FaultFollows s u cause t column)) ∧
  (∀ (s : State) t n, (s.tower t).speed = .bin n → n < s.lowestBin t → ∃ u, exec (.thermalLimit t) s = .next u ∧
    (u.tower t).retrain = some (.bin (n + 1)) ∧ (u.tower t).coolSince = some s.time) ∧
  (∀ (s : State) t, ((s.tower t).speed = .slow ∨ ∃ n, (s.tower t).speed = .bin n ∧ s.lowestBin t ≤ n) →
    ∃ u, exec (.thermalLimit t) s = .next u ∧ (s.faulted = true → u = s) ∧ (s.faulted = false → FaultFollows s u 5 t 0)) ∧
  (∀ (s : State) t since, (s.tower t).coolSince = some since → since + 10 ^ 10 ≤ s.time → (s.tower t).retrain = none →
    ∃ u, exec (.clockRestore t) s = .next u ∧ (u.tower t).retrain = some (s.tower t).baseSpeed ∧ (u.tower t).coolSince = none) ∧
  (∀ (s : State) outs, s.service = .off → s.toFull = none → ∃ u, exec (.bringUp outs) s = .next u ∧ u.bootNo = s.bootNo + 1 ∧
    ((∃ o ∈ outs, o.1 = 1) → s.bootJournal.length < u.bootJournal.length)) ∧
  (∀ s : State, ∃ t, exec .warmReset s = .next t ∧ t.service = .off ∧ t.jobs = [] ∧ t.nodes = [] ∧ t.cmds = [] ∧
    t.dev = (s.cmds.foldl State.discardCmd s).dev ∧ ∀ c, (t.core c).p = Ctx.blank ∧ (t.core c).q = Ctx.blank ∧ (t.core c).mem = (s.core c).mem ∧
      (t.core c).segTenant = (s.core c).segTenant) ∧
  (∀ (s : State) r, (s.ctx r).status = .running → (s.ctx r).pc.toNat ∈ (s.core r.core).imemBad → isCtl r.core = false →
    exec (.imemue r) s = .next (
      let x := s.ctx r
      let note : Report := { core := r.core.val, code := 0x40, cause := 0x10, space := 4, tenant := x.spec.tenant.toNat, scope := x.spec.scope.toNat, base := x.pc.toNat }
      ((s.modCtx r fun x => { x with status := .stopped }).report x.job note).killScope (s.homeOf x.job) x.job x.spec.scope.toNat 0 0 x.spec.tenant.toNat)) ∧
  (∀ (s : State) r, (s.ctx r).status = .running → (s.ctx r).pc.toNat ∈ (s.core r.core).imemBad → isCtl r.core = true →
    s.isPrimary r.core = true → exec (.imemue r) s = .next (
      (s.modCtx r fun x => x.halt s.cycle).modTower (towerOf r.core) fun w => { w with beat := some (nextEdge s.cycle) })) ∧
  (∀ (s : State) unit a b, (s.core (coreOfId unit)).mem.wf = true → a < 2 ^ 20 → b < 77 → ∃ t, exec (.softError 0 unit a b) s = .next t ∧
    ((77 * a + b) ∈ (t.core (coreOfId unit)).mem.flips ↔ (77 * a + b) ∉ (s.core (coreOfId unit)).mem.flips)) ∧
  (∀ s : State, ∀ passed, s.service = .reduced → s.selfTest.isSome = true →
    (∀ w, (s.tower w).excluded = false → (s.tower w).trained = true) → ∃ t, exec (.fullService passed) s = .next t ∧ t.toFull = some passed ∧
    ∀ w, (s.tower w).excluded = false → (t.tower w).retrain = some (s.tower w).baseSpeed) ∧
  (∀ s : State, ∃ t, exec .powerLoss s = .next t ∧ t.cores = State.reset.cores ∧ t.tower0 = State.reset.tower0 ∧ t.tower1 = State.reset.tower1 ∧
    t.dev = State.reset.dev ∧ t.service = .off ∧ t.idKey = State.reset.idKey ∧ t.keys = State.reset.keys ∧ t.bootJournal = s.bootJournal ∧
    t.fwFile = s.fwFile ∧ t.repairs = s.repairs)

/-! The machine as a whole. -/

/-- Words that follow from the manual's encoding tables (R19 to R21, R47, R49, R50, R52, R63, R78, R114, R121, R215, R222, R309), one or
more a slot map. -/
def Obligations.DecodedWords : Prop :=
  let g (d a b : Nat) : G := ⟨false, 0, false, false, BitVec.ofNat 6 d, BitVec.ofNat 6 a, BitVec.ofNat 6 b⟩
  decodeWord .c 0x00100120 0 = .br ⟨false, 0, 0x120⟩ ∧
  decodeWord .c 0x00619005 0 = .lpi ⟨false, 0, 100, 5⟩ ∧
  decodeWord .c 0x0052400C 0 = .lp ⟨false, 0, 9, 12⟩ ∧
  decodeWord .c 0x00D0002A 0 = .trap (g 0 0 0x2A) ∧
  decodeWord .s 0x0060824A 0 = .mulhn (g 8 9 10) ∧
  decodeWord .s 0x03507FFB 0 = .movi (g 7 0x3F 0x3B) ∧
  decodeWord .s 0x02A02105 0 = .cmpLt (g 2 4 5) ∧
  decodeWord .s 0x04000284 0 = .chkEq (g 0 10 4) ∧
  decodeWord .v 0x20103042 0 = .vadd { g 3 1 2 with p := 2 } ∧
  decodeWord .v 0x0B103042 0 = .kor (g 3 1 2) ∧
  decodeWord .l 0x0040E0C2 0 = .ldD (g 14 3 2) ∧
  decodeWord .l 0x01006200 0 = .vld (g 6 8 0) ∧
  decodeWord .t 0x03607515 0 = .fill (g 7 20 21) ∧
  decodeWord .k 0x00C08240 0 = .tlbinv (g 8 9 0) ∧
  decodeWord .n 0x00C08240 0 = .rtst (g 8 9 0) ∧
  decodeWord .n 0x00B0A083 0 = .rmvH (g 10 2 3) ∧
  decodeWord .n 0x01D07209 0 = .ramoCasAcq (g 7 8 9)

/-- R15 to R22, R42: a well-formed instruction is what its map reads from the word that the encoding tables give it, every field at
every value; an extension opcode is itself in every map; 0 is `nop`; a word that breaks a field rule is no instruction. -/
def Obligations.DecodeEncode : Prop :=
  (∀ i : Instr, i.wf = true → mapOf i ≠ .any → mapOf i ≠ .ev → decodeWord (mapOf i) (encode i).1 (encode i).2 = i) ∧
  (∀ m op g imm, (m = .v ∨ guardOk g.n g.p = true) → decodeWord m (encode (.extensionOpcode op g)).1 imm = .extensionOpcode op g) ∧
  (∀ m imm, decodeWord m 0 imm = .nop) ∧
  (∀ m w imm, (∃ v, decodeWord m w imm = .illop v) ∨ (decodeWord m w imm).wf = true ∨ ∃ op g, decodeWord m w imm = .extensionOpcode op g)

/-- R28, R30: what every slot word does at issue is one record for its slot, formed in the state before the bundle: a word of an
open bundle joins its records and changes nothing, a word alone is closed at once. Slot 4 is stated where no piece of a remote
operation is waiting; it performs earlier ones first (R136). -/
def Obligations.OneRecord : Prop :=
  ∀ (i : Instr) (s : State) (k : Nat), mapOf i ≠ .ev → (mapOf i = .l → s.pieces = []) →
    ∃ a : SlotRec, a.slot = k ∧
      ∀ u : Issue, (u = Issue.closed ∧ k = (mapOf i).slot ∨ u.opened = true ∧ u.slot = k ∧ (u.recs.map (·.draws)).sum = 0) →
      let t : State := { s with issue := u }
      exec i t = .next (if u.opened then { t with issue := { u with recs := u.recs ++ [a] } }
        else ({ t with issue := ⟨false, 0, [a]⟩ } : State).closeBundle)

/-- What an outcome and Q's part of the cycle after it come to (R33, R34), the slots of P's bundle being taken. -/
noncomputable def thenSecondary (c : CoreRef) (taken : List Nat) : Out → Out
  | .next t => settled (t.secondary c taken)
  | .fault f => .fault f
  | .refused r => .refused r

/-- R12, R28, R33: in a core's cycle a step runs the bundle at P's pc, its slots in order, and closes it; a bundle of one
instruction is that instruction. Then comes Q's part: nothing where Q offers no bundle, but that it has waited 0 cycles.
The order of moves is the model's: log 31. -/
def Obligations.StepRunsDecodedInstruction : Prop :=
  (∀ (s : State) c rest, CoreNext c rest s →
    let u : State := { s with turn := rest, cur := ⟨c, false⟩, issue := Issue.closed }
    (∀ t, runSlots (s.bundleAt ⟨c, false⟩) { u with issue := ⟨true, 0, []⟩ } = .next t → t.atEnd t.cur = false →
      ∃ taken, step s = thenSecondary c taken (.next t.closeBundle)) ∧
    (∀ i : Instr, mapOf i ≠ .ev → (mapOf i = .l → s.pieces = []) → s.bundleAt ⟨c, false⟩ = bundleOf i →
      ∃ taken, step s = thenSecondary c taken (exec i u))) ∧
  (∀ (t : State) c taken, (t.ctx ⟨c, true⟩).offers t.cycle = false → t.secondary c taken = .next (t.setQWait c 0))

/-- R28, R29: no bundle is open between steps. The invariant is of the model's own state. -/
def Obligations.StepKeepsInv : Prop := ∀ s t : State, s.Inv → step s = .next t → t.Inv

/-- R58 to R62, R93, R155, R196, R327, R331, R333 (and, where they give no value, logs 1 to 9): the machine right after power-good. No
bundle is open, every memory is in canonical form and vacant, nothing runs or waits, every register is full and the special
registers hold their reset values. -/
def Obligations.ResetState : Prop :=
  State.reset.Inv ∧ Memory.wf State.reset = true ∧ State.reset.cycle = 0 ∧ State.reset.service = .off ∧
  (∀ r : CtxRef, (State.reset.ctx r).status = .free ∧ (∀ g : Reg, (State.reset.ctx r).isFull g = true) ∧ (State.reset.ctx r).loops = [] ∧
    (State.reset.ctx r).npc = none ∧ (State.reset.ctx r).pc = 0 ∧ (∀ i, (State.reset.ctx r).s i = 0) ∧ (∀ i, (State.reset.ctx r).v i = 0) ∧
    (∀ i, i ≠ 0 → (State.reset.ctx r).p i = false) ∧ (∀ i, i ≠ 0 → (State.reset.ctx r).k i = 0) ∧
    (State.reset.ctx r).spec.status = 0 ∧ (State.reset.ctx r).spec.fflags = 0 ∧ (State.reset.ctx r).spec.trapinfo = 0 ∧
    (State.reset.ctx r).spec.trappc = 0 ∧ (State.reset.ctx r).spec.trapvec = 0 ∧ (State.reset.ctx r).spec.rngctr = 0) ∧
  (∀ c a, (State.reset.core c).mem.has a = false ∧ (State.reset.core c).mem.poisoned a = false ∧ (State.reset.core c).mem.load a = 0xFF) ∧
  (∀ c i, ((State.reset.core c).mx.acc i).cells = []) ∧
  State.reset.jobs = [] ∧ State.reset.nodes = [] ∧ State.reset.cmds = [] ∧ ∀ t, (State.reset.tower t).queues = [] ∧ (State.reset.tower t).completions = []

/-- No instruction is refused, and only three events fault: a transfer and a host access that reach a page or an address outside every
memory of the device (R4, R231). The fault is the model's: log 48. -/
def Obligations.NothingStops : Prop :=
  (∀ i s r, exec i s ≠ .refused r) ∧
  (∀ i s f, exec i s = .fault f → f = .noSuchMemory ∧
    ((∃ id, i = .transferCompletion id) ∨ (∃ j a b, i = .hostCxlMemWrite j a b) ∨ ∃ j a n, i = .hostCxlMemRead j a n)) ∧
  (∀ s r, step s ≠ .refused r) ∧ ∀ s f, step s = .fault f → f = .noSuchMemory

/-- R16, R17, R29: an operation that its guard disables waits on nothing else, has no effect and raises no trap; the bundle goes on. -/
def Obligations.DisabledOperation : Prop :=
  (∀ (i : Instr) (h : Shape) (s : State), shapeOf i = some h → mapOf i ≠ .any → (mapOf i = .l → s.pieces = []) → s.issue = Issue.closed →
    (∀ r, h.guard.reg (fieldsOf i).p = some r → s.me.isFull r = true) → h.guard.enabled s.me (fieldsOf i).n (fieldsOf i).p = false →
    exec i s = .next s.onward) ∧
  (∀ (s : State) (n : Bool) (p : BitVec 3), s.issue = Issue.closed → s.me.isFull (.p p) = true → s.me.p p = n →
    (∀ t, exec (.br ⟨n, p, t⟩) s = .next s.onward) ∧ (∀ t, exec (.brl ⟨n, p, t⟩) s = .next s.onward) ∧
    (∀ c e, exec (.lp ⟨n, p, c, e⟩) s = .next s.onward) ∧ ∀ c e, exec (.lpi ⟨n, p, c, e⟩) s = .next s.onward)

/-- R61, R64, R95, R96, R100: entering the handler. The trap registers are written, TMASK is set, the pc is TRAPVEC's, no bundle issues
for 4 cycles, the fixed-latency results in flight go to the snapshot buffer and a stream operation stops; every register, the
loop stack, segment ownership, the Palette and the flag file stay. With TMASK set a control core's context stops instead. A control core: log 34. -/
def Obligations.TrapEntry : Prop :=
  (∀ (s : State) r (t : TrapWords), (s.ctx r).tmask = false →
    let x := s.ctx r
    let y := (s.takeTrap r t).ctx r
    y.tmask = true ∧ y.pc = x.spec.trapvec.extractLsb' 0 15 ∧ y.npc = none ∧ y.emul = 0 ∧ y.notBefore = s.cycle + 4 ∧
    y.spec = { x.spec with status := y.spec.status, trapinfo := y.spec.trapinfo, trappc := y.spec.trappc, faultmask := t.mask, trapopa := t.opa, trapopb := t.opb } ∧
    (∀ b, b ≠ 3 → b ≠ 9 → y.spec.status.getLsbD b = x.spec.status.getLsbD b) ∧
    y.spec.status.getLsbD 9 = (x.spec.status.getLsbD 9 || !x.asyncQ.isEmpty) ∧
    y.spec.trapinfo.extractLsb' 0 8 = t.code ∧ y.spec.trapinfo.extractLsb' 8 3 = BitVec.ofNat 3 t.slot ∧ y.spec.trapinfo.getLsbD 11 = t.skip ∧
    y.spec.trapinfo.getLsbD 12 = t.async ∧ y.spec.trapinfo.extractLsb' 13 3 = 0 ∧ y.spec.trapinfo.extractLsb' 16 8 = t.emul ∧
    y.spec.trapinfo.extractLsb' 24 8 = 0 ∧ y.spec.trapinfo.extractLsb' 32 32 = t.sword ∧
    y.spec.trappc.extractLsb' 0 15 = x.pc ∧ y.spec.trappc.getLsbD 63 = x.npc.isSome ∧ y.spec.trappc.extractLsb' 32 15 = x.npc.getD 0 ∧
    y.sregs = x.sregs ∧ y.vregs = x.vregs ∧ y.pregs = x.pregs ∧ y.kregs = x.kregs ∧ y.full = x.full ∧ y.loops = x.loops ∧
    y.palette = x.palette ∧ y.flagFile = x.flagFile ∧ y.asyncQ = x.asyncQ ∧ y.stream = x.stream.map (fun st => { st with stopped := true }) ∧
    (∀ e ∈ y.inflight, e ∈ x.inflight ∧ e.due = none) ∧
    (∀ e ∈ x.inflight, ∀ d, e.due = some d → (⟨e.val, e.flags, d - s.cycle, true, e.copyTo, e.copy⟩ : SnapEntry) ∈ y.snap) ∧
    ∀ q, q ≠ r → (s.takeTrap r t).ctx q = s.ctx q) ∧
  (∀ (s : State) r (t : TrapWords), (s.ctx r).tmask = true → isCtl r.core = true →
    s.takeTrap r t = s.modCtx r fun x => { x with status := .stopped })

/-- R18, R25: what a register's result changes. A one-cycle result is in the register after the bundle, another one leaves the register
empty and in flight; s0, p0 and k0 discard it, stay full and read 0, true and all ones. No other register changes, no special register
but RNGCTR, no other context, and no core, memory, tower or queue at all. -/
def Obligations.ResultFrame : Prop :=
  (∀ x : Ctx, x.s 0 = 0 ∧ x.p 0 = true ∧ x.k 0 = BitVec.allOnes 128 ∧ x.isFull (.s 0) = true ∧ x.isFull (.p 0) = true ∧ x.isFull (.k 0) = true) ∧
  (∀ (s : State) (v : RVal) lat fl draws,
    let x := s.me
    let now := (s.now v).me
    let later := (s.later lat v fl draws).me
    (match v with
      | .s i y => now.s i = if i = 0 then 0 else y
      | .v i y => now.v i = y
      | .p i y => now.p i = if i = 0 then true else y
      | .k i y => now.k i = if i = 0 then BitVec.allOnes 128 else y) ∧
    later.isFull v.reg = v.reg.zero ∧ (∀ r, r ≠ v.reg → later.isFull r = x.isFull r) ∧ (∀ r, now.isFull r = x.isFull r) ∧
    later.inflight = x.inflight ++ [⟨v, fl, some (s.cycle + lat), false, 0, []⟩] ∧ now.inflight = x.inflight ∧
    (∀ i, later.s i = x.s i ∧ (v.reg ≠ .s i → now.s i = x.s i)) ∧ (∀ i, later.v i = x.v i ∧ (v.reg ≠ .v i → now.v i = x.v i)) ∧
    (∀ i, later.p i = x.p i ∧ (v.reg ≠ .p i → now.p i = x.p i)) ∧ (∀ i, later.k i = x.k i ∧ (v.reg ≠ .k i → now.k i = x.k i)) ∧
    now.spec = x.spec ∧ later.spec = { x.spec with rngctr := x.spec.rngctr + BitVec.ofNat 64 draws } ∧
    now.palette = x.palette ∧ later.palette = x.palette ∧ now.asyncQ = x.asyncQ ∧ later.asyncQ = x.asyncQ ∧
    (∀ t, t = s.now v ∨ t = s.later lat v fl draws →
      t = { s with cores := t.cores } ∧ (∀ c, t.core c = { s.core c with p := (t.core c).p, q := (t.core c).q }) ∧
      ∀ q, q ≠ s.cur → t.ctx q = s.ctx q))
end

