-- ==== Sys2Proof/Laws/Dispatch.lean ====
section
/-! SUPPORT. The arm of `exec` of every instruction. -/

namespace Sys2Proof.Machine

@[simp] theorem exec_nop (s : State) : exec (.nop) s = execNop s := rfl
@[simp] theorem exec_br (j) (s : State) : exec (.br j) s = execBr j s := rfl
@[simp] theorem exec_brl (j) (s : State) : exec (.brl j) s = execBrl j s := rfl
@[simp] theorem exec_bri (g) (s : State) : exec (.bri g) s = execBri g s := rfl
@[simp] theorem exec_bril (g) (s : State) : exec (.bril g) s = execBril g s := rfl
@[simp] theorem exec_lp (l) (s : State) : exec (.lp l) s = execLp l s := rfl
@[simp] theorem exec_lpi (l) (s : State) : exec (.lpi l) s = execLpi l s := rfl
@[simp] theorem exec_lpx (g) (s : State) : exec (.lpx g) s = execLpx g s := rfl
@[simp] theorem exec_yield (g) (s : State) : exec (.yield g) s = execYield g s := rfl
@[simp] theorem exec_waitGe (g) (s : State) : exec (.waitGe g) s = execWaitGe g s := rfl
@[simp] theorem exec_waitF (g) (s : State) : exec (.waitF g) s = execWaitF g s := rfl
@[simp] theorem exec_retire (g) (s : State) : exec (.retire g) s = execRetire g s := rfl
@[simp] theorem exec_spawn (g) (s : State) : exec (.spawn g) s = execSpawn g s := rfl
@[simp] theorem exec_trap (g) (s : State) : exec (.trap g) s = execTrap g s := rfl
@[simp] theorem exec_rti (g) (s : State) : exec (.rti g) s = execRti g s := rfl
@[simp] theorem exec_mfs (g) (s : State) : exec (.mfs g) s = execMfs g s := rfl
@[simp] theorem exec_mts (g) (s : State) : exec (.mts g) s = execMts g s := rfl
@[simp] theorem exec_fenceRel (g) (s : State) : exec (.fenceRel g) s = execFenceRel g s := rfl
@[simp] theorem exec_fenceAcq (g) (s : State) : exec (.fenceAcq g) s = execFenceAcq g s := rfl
@[simp] theorem exec_fenceSc (g) (s : State) : exec (.fenceSc g) s = execFenceSc g s := rfl
@[simp] theorem exec_xfence (g) (s : State) : exec (.xfence g) s = execXfence g s := rfl
@[simp] theorem exec_gbar (g) (s : State) : exec (.gbar g) s = execGbar g s := rfl
@[simp] theorem exec_cbar (g) (s : State) : exec (.cbar g) s = execCbar g s := rfl
@[simp] theorem exec_sopen (g) (s : State) : exec (.sopen g) s = execSopen g s := rfl
@[simp] theorem exec_sclose (g) (s : State) : exec (.sclose g) s = execSclose g s := rfl
@[simp] theorem exec_cancel (g) (s : State) : exec (.cancel g) s = execCancel g s := rfl
@[simp] theorem exec_segacq (g) (s : State) : exec (.segacq g) s = execSegacq g s := rfl
@[simp] theorem exec_segrel (g) (s : State) : exec (.segrel g) s = execSegrel g s := rfl
@[simp] theorem exec_tickw (g) (s : State) : exec (.tickw g) s = execTickw g s := rfl
@[simp] theorem exec_brk (g) (s : State) : exec (.brk g) s = execBrk g s := rfl
@[simp] theorem exec_add (g) (s : State) : exec (.add g) s = execAdd g s := rfl
@[simp] theorem exec_sub (g) (s : State) : exec (.sub g) s = execSub g s := rfl
@[simp] theorem exec_addi (g) (s : State) : exec (.addi g) s = execAddi g s := rfl
@[simp] theorem exec_mul (g) (s : State) : exec (.mul g) s = execMul g s := rfl
@[simp] theorem exec_mulh (g) (s : State) : exec (.mulh g) s = execMulh g s := rfl
@[simp] theorem exec_mulhn (g) (s : State) : exec (.mulhn g) s = execMulhn g s := rfl
@[simp] theorem exec_div (g) (s : State) : exec (.div g) s = execDiv g s := rfl
@[simp] theorem exec_divn (g) (s : State) : exec (.divn g) s = execDivn g s := rfl
@[simp] theorem exec_rem (g) (s : State) : exec (.rem g) s = execRem g s := rfl
@[simp] theorem exec_remn (g) (s : State) : exec (.remn g) s = execRemn g s := rfl
@[simp] theorem exec_min (g) (s : State) : exec (.min g) s = execMin g s := rfl
@[simp] theorem exec_max (g) (s : State) : exec (.max g) s = execMax g s := rfl
@[simp] theorem exec_minn (g) (s : State) : exec (.minn g) s = execMinn g s := rfl
@[simp] theorem exec_maxn (g) (s : State) : exec (.maxn g) s = execMaxn g s := rfl
@[simp] theorem exec_abs (g) (s : State) : exec (.abs g) s = execAbs g s := rfl
@[simp] theorem exec_and (g) (s : State) : exec (.and g) s = execAnd g s := rfl
@[simp] theorem exec_or (g) (s : State) : exec (.or g) s = execOr g s := rfl
@[simp] theorem exec_xor (g) (s : State) : exec (.xor g) s = execXor g s := rfl
@[simp] theorem exec_andn (g) (s : State) : exec (.andn g) s = execAndn g s := rfl
@[simp] theorem exec_andi (g) (s : State) : exec (.andi g) s = execAndi g s := rfl
@[simp] theorem exec_ori (g) (s : State) : exec (.ori g) s = execOri g s := rfl
@[simp] theorem exec_xori (g) (s : State) : exec (.xori g) s = execXori g s := rfl
@[simp] theorem exec_shl (g) (s : State) : exec (.shl g) s = execShl g s := rfl
@[simp] theorem exec_shr (g) (s : State) : exec (.shr g) s = execShr g s := rfl
@[simp] theorem exec_sra (g) (s : State) : exec (.sra g) s = execSra g s := rfl
@[simp] theorem exec_rotl (g) (s : State) : exec (.rotl g) s = execRotl g s := rfl
@[simp] theorem exec_shli (g) (s : State) : exec (.shli g) s = execShli g s := rfl
@[simp] theorem exec_shri (g) (s : State) : exec (.shri g) s = execShri g s := rfl
@[simp] theorem exec_srai (g) (s : State) : exec (.srai g) s = execSrai g s := rfl
@[simp] theorem exec_clz (g) (s : State) : exec (.clz g) s = execClz g s := rfl
@[simp] theorem exec_ctz (g) (s : State) : exec (.ctz g) s = execCtz g s := rfl
@[simp] theorem exec_popc (g) (s : State) : exec (.popc g) s = execPopc g s := rfl
@[simp] theorem exec_bext (g) (s : State) : exec (.bext g) s = execBext g s := rfl
@[simp] theorem exec_bdep (g) (s : State) : exec (.bdep g) s = execBdep g s := rfl
@[simp] theorem exec_brev (g) (s : State) : exec (.brev g) s = execBrev g s := rfl
@[simp] theorem exec_cmpEq (g) (s : State) : exec (.cmpEq g) s = execCmpEq g s := rfl
@[simp] theorem exec_cmpNe (g) (s : State) : exec (.cmpNe g) s = execCmpNe g s := rfl
@[simp] theorem exec_cmpLt (g) (s : State) : exec (.cmpLt g) s = execCmpLt g s := rfl
@[simp] theorem exec_cmpLe (g) (s : State) : exec (.cmpLe g) s = execCmpLe g s := rfl
@[simp] theorem exec_cmpLtn (g) (s : State) : exec (.cmpLtn g) s = execCmpLtn g s := rfl
@[simp] theorem exec_cmpLen (g) (s : State) : exec (.cmpLen g) s = execCmpLen g s := rfl
@[simp] theorem exec_cmpiEq (g) (s : State) : exec (.cmpiEq g) s = execCmpiEq g s := rfl
@[simp] theorem exec_cmpiLt (g) (s : State) : exec (.cmpiLt g) s = execCmpiLt g s := rfl
@[simp] theorem exec_pand (g) (s : State) : exec (.pand g) s = execPand g s := rfl
@[simp] theorem exec_por (g) (s : State) : exec (.por g) s = execPor g s := rfl
@[simp] theorem exec_pxor (g) (s : State) : exec (.pxor g) s = execPxor g s := rfl
@[simp] theorem exec_pnot (g) (s : State) : exec (.pnot g) s = execPnot g s := rfl
@[simp] theorem exec_mov (g) (s : State) : exec (.mov g) s = execMov g s := rfl
@[simp] theorem exec_movi (g) (s : State) : exec (.movi g) s = execMovi g s := rfl
@[simp] theorem exec_limm (g) (imm) (s : State) : exec (.limm g imm) s = execLimm g imm s := rfl
@[simp] theorem exec_limmh (g) (imm) (s : State) : exec (.limmh g imm) s = execLimmh g imm s := rfl
@[simp] theorem exec_lea1 (g) (s : State) : exec (.lea1 g) s = execLea1 g s := rfl
@[simp] theorem exec_lea2 (g) (s : State) : exec (.lea2 g) s = execLea2 g s := rfl
@[simp] theorem exec_lea4 (g) (s : State) : exec (.lea4 g) s = execLea4 g s := rfl
@[simp] theorem exec_lea8 (g) (s : State) : exec (.lea8 g) s = execLea8 g s := rfl
@[simp] theorem exec_chkEq (g) (s : State) : exec (.chkEq g) s = execChkEq g s := rfl
@[simp] theorem exec_chkP (g) (s : State) : exec (.chkP g) s = execChkP g s := rfl
@[simp] theorem exec_rng (g) (s : State) : exec (.rng g) s = execRng g s := rfl
@[simp] theorem exec_faddF32 (g) (s : State) : exec (.faddF32 g) s = execFaddF32 g s := rfl
@[simp] theorem exec_fsubF32 (g) (s : State) : exec (.fsubF32 g) s = execFsubF32 g s := rfl
@[simp] theorem exec_fmulF32 (g) (s : State) : exec (.fmulF32 g) s = execFmulF32 g s := rfl
@[simp] theorem exec_fmaF32 (g) (s : State) : exec (.fmaF32 g) s = execFmaF32 g s := rfl
@[simp] theorem exec_fcmpLt (g) (s : State) : exec (.fcmpLt g) s = execFcmpLt g s := rfl
@[simp] theorem exec_fcmpEq (g) (s : State) : exec (.fcmpEq g) s = execFcmpEq g s := rfl
@[simp] theorem exec_cvtF32I64 (g) (s : State) : exec (.cvtF32I64 g) s = execCvtF32I64 g s := rfl
@[simp] theorem exec_cvtI64F32 (g) (s : State) : exec (.cvtI64F32 g) s = execCvtI64F32 g s := rfl
@[simp] theorem exec_cvtI64F32Rz (g) (s : State) : exec (.cvtI64F32Rz g) s = execCvtI64F32Rz g s := rfl
@[simp] theorem exec_vadd (g) (s : State) : exec (.vadd g) s = execVadd g s := rfl
@[simp] theorem exec_vsub (g) (s : State) : exec (.vsub g) s = execVsub g s := rfl
@[simp] theorem exec_vmul (g) (s : State) : exec (.vmul g) s = execVmul g s := rfl
@[simp] theorem exec_vmulh (g) (s : State) : exec (.vmulh g) s = execVmulh g s := rfl
@[simp] theorem exec_vmin (g) (s : State) : exec (.vmin g) s = execVmin g s := rfl
@[simp] theorem exec_vmax (g) (s : State) : exec (.vmax g) s = execVmax g s := rfl
@[simp] theorem exec_vminN32 (g) (s : State) : exec (.vminN32 g) s = execVminN32 g s := rfl
@[simp] theorem exec_vmaxN32 (g) (s : State) : exec (.vmaxN32 g) s = execVmaxN32 g s := rfl
@[simp] theorem exec_vabs (g) (s : State) : exec (.vabs g) s = execVabs g s := rfl
@[simp] theorem exec_vcmpEq (g) (s : State) : exec (.vcmpEq g) s = execVcmpEq g s := rfl
@[simp] theorem exec_vcmpLt (g) (s : State) : exec (.vcmpLt g) s = execVcmpLt g s := rfl
@[simp] theorem exec_vcmpLtN32 (g) (s : State) : exec (.vcmpLtN32 g) s = execVcmpLtN32 g s := rfl
@[simp] theorem exec_vaddH (g) (s : State) : exec (.vaddH g) s = execVaddH g s := rfl
@[simp] theorem exec_vsubH (g) (s : State) : exec (.vsubH g) s = execVsubH g s := rfl
@[simp] theorem exec_vmulH (g) (s : State) : exec (.vmulH g) s = execVmulH g s := rfl
@[simp] theorem exec_vmulhH (g) (s : State) : exec (.vmulhH g) s = execVmulhH g s := rfl
@[simp] theorem exec_vminH (g) (s : State) : exec (.vminH g) s = execVminH g s := rfl
@[simp] theorem exec_vmaxH (g) (s : State) : exec (.vmaxH g) s = execVmaxH g s := rfl
@[simp] theorem exec_vminN16 (g) (s : State) : exec (.vminN16 g) s = execVminN16 g s := rfl
@[simp] theorem exec_vmaxN16 (g) (s : State) : exec (.vmaxN16 g) s = execVmaxN16 g s := rfl
@[simp] theorem exec_vabsH (g) (s : State) : exec (.vabsH g) s = execVabsH g s := rfl
@[simp] theorem exec_vcmpEqH (g) (s : State) : exec (.vcmpEqH g) s = execVcmpEqH g s := rfl
@[simp] theorem exec_vcmpLtH (g) (s : State) : exec (.vcmpLtH g) s = execVcmpLtH g s := rfl
@[simp] theorem exec_vcmpLtN16 (g) (s : State) : exec (.vcmpLtN16 g) s = execVcmpLtN16 g s := rfl
@[simp] theorem exec_vaddB (g) (s : State) : exec (.vaddB g) s = execVaddB g s := rfl
@[simp] theorem exec_vsubB (g) (s : State) : exec (.vsubB g) s = execVsubB g s := rfl
@[simp] theorem exec_vmulB (g) (s : State) : exec (.vmulB g) s = execVmulB g s := rfl
@[simp] theorem exec_vmulhB (g) (s : State) : exec (.vmulhB g) s = execVmulhB g s := rfl
@[simp] theorem exec_vminB (g) (s : State) : exec (.vminB g) s = execVminB g s := rfl
@[simp] theorem exec_vmaxB (g) (s : State) : exec (.vmaxB g) s = execVmaxB g s := rfl
@[simp] theorem exec_vminN8 (g) (s : State) : exec (.vminN8 g) s = execVminN8 g s := rfl
@[simp] theorem exec_vmaxN8 (g) (s : State) : exec (.vmaxN8 g) s = execVmaxN8 g s := rfl
@[simp] theorem exec_vabsB (g) (s : State) : exec (.vabsB g) s = execVabsB g s := rfl
@[simp] theorem exec_vcmpEqB (g) (s : State) : exec (.vcmpEqB g) s = execVcmpEqB g s := rfl
@[simp] theorem exec_vcmpLtB (g) (s : State) : exec (.vcmpLtB g) s = execVcmpLtB g s := rfl
@[simp] theorem exec_vcmpLtN8 (g) (s : State) : exec (.vcmpLtN8 g) s = execVcmpLtN8 g s := rfl
@[simp] theorem exec_vand (g) (s : State) : exec (.vand g) s = execVand g s := rfl
@[simp] theorem exec_vor (g) (s : State) : exec (.vor g) s = execVor g s := rfl
@[simp] theorem exec_vxor (g) (s : State) : exec (.vxor g) s = execVxor g s := rfl
@[simp] theorem exec_vnot (g) (s : State) : exec (.vnot g) s = execVnot g s := rfl
@[simp] theorem exec_vshl (g) (s : State) : exec (.vshl g) s = execVshl g s := rfl
@[simp] theorem exec_vshr (g) (s : State) : exec (.vshr g) s = execVshr g s := rfl
@[simp] theorem exec_vsra (g) (s : State) : exec (.vsra g) s = execVsra g s := rfl
@[simp] theorem exec_vshli (g) (s : State) : exec (.vshli g) s = execVshli g s := rfl
@[simp] theorem exec_vshri (g) (s : State) : exec (.vshri g) s = execVshri g s := rfl
@[simp] theorem exec_vsrai (g) (s : State) : exec (.vsrai g) s = execVsrai g s := rfl
@[simp] theorem exec_vfadd (g) (s : State) : exec (.vfadd g) s = execVfadd g s := rfl
@[simp] theorem exec_vfsub (g) (s : State) : exec (.vfsub g) s = execVfsub g s := rfl
@[simp] theorem exec_vfmul (g) (s : State) : exec (.vfmul g) s = execVfmul g s := rfl
@[simp] theorem exec_vfma (g) (s : State) : exec (.vfma g) s = execVfma g s := rfl
@[simp] theorem exec_vfms (g) (s : State) : exec (.vfms g) s = execVfms g s := rfl
@[simp] theorem exec_vfmin (g) (s : State) : exec (.vfmin g) s = execVfmin g s := rfl
@[simp] theorem exec_vfmax (g) (s : State) : exec (.vfmax g) s = execVfmax g s := rfl
@[simp] theorem exec_vfabs (g) (s : State) : exec (.vfabs g) s = execVfabs g s := rfl
@[simp] theorem exec_vfneg (g) (s : State) : exec (.vfneg g) s = execVfneg g s := rfl
@[simp] theorem exec_vfcmpEq (g) (s : State) : exec (.vfcmpEq g) s = execVfcmpEq g s := rfl
@[simp] theorem exec_vfcmpLt (g) (s : State) : exec (.vfcmpLt g) s = execVfcmpLt g s := rfl
@[simp] theorem exec_vfcmpLe (g) (s : State) : exec (.vfcmpLe g) s = execVfcmpLe g s := rfl
@[simp] theorem exec_vrcp (g) (s : State) : exec (.vrcp g) s = execVrcp g s := rfl
@[simp] theorem exec_vrsqrt (g) (s : State) : exec (.vrsqrt g) s = execVrsqrt g s := rfl
@[simp] theorem exec_vexp2 (g) (s : State) : exec (.vexp2 g) s = execVexp2 g s := rfl
@[simp] theorem exec_vlog2 (g) (s : State) : exec (.vlog2 g) s = execVlog2 g s := rfl
@[simp] theorem exec_vfaddF16 (g) (s : State) : exec (.vfaddF16 g) s = execVfaddF16 g s := rfl
@[simp] theorem exec_vfsubF16 (g) (s : State) : exec (.vfsubF16 g) s = execVfsubF16 g s := rfl
@[simp] theorem exec_vfmulF16 (g) (s : State) : exec (.vfmulF16 g) s = execVfmulF16 g s := rfl
@[simp] theorem exec_vfmaF16 (g) (s : State) : exec (.vfmaF16 g) s = execVfmaF16 g s := rfl
@[simp] theorem exec_vfmsF16 (g) (s : State) : exec (.vfmsF16 g) s = execVfmsF16 g s := rfl
@[simp] theorem exec_vfminF16 (g) (s : State) : exec (.vfminF16 g) s = execVfminF16 g s := rfl
@[simp] theorem exec_vfmaxF16 (g) (s : State) : exec (.vfmaxF16 g) s = execVfmaxF16 g s := rfl
@[simp] theorem exec_vfabsF16 (g) (s : State) : exec (.vfabsF16 g) s = execVfabsF16 g s := rfl
@[simp] theorem exec_vfnegF16 (g) (s : State) : exec (.vfnegF16 g) s = execVfnegF16 g s := rfl
@[simp] theorem exec_vfcmpEqF16 (g) (s : State) : exec (.vfcmpEqF16 g) s = execVfcmpEqF16 g s := rfl
@[simp] theorem exec_vfcmpLtF16 (g) (s : State) : exec (.vfcmpLtF16 g) s = execVfcmpLtF16 g s := rfl
@[simp] theorem exec_vfcmpLeF16 (g) (s : State) : exec (.vfcmpLeF16 g) s = execVfcmpLeF16 g s := rfl
@[simp] theorem exec_vfaddBf16 (g) (s : State) : exec (.vfaddBf16 g) s = execVfaddBf16 g s := rfl
@[simp] theorem exec_vfsubBf16 (g) (s : State) : exec (.vfsubBf16 g) s = execVfsubBf16 g s := rfl
@[simp] theorem exec_vfmulBf16 (g) (s : State) : exec (.vfmulBf16 g) s = execVfmulBf16 g s := rfl
@[simp] theorem exec_vfmaBf16 (g) (s : State) : exec (.vfmaBf16 g) s = execVfmaBf16 g s := rfl
@[simp] theorem exec_vfmsBf16 (g) (s : State) : exec (.vfmsBf16 g) s = execVfmsBf16 g s := rfl
@[simp] theorem exec_vfminBf16 (g) (s : State) : exec (.vfminBf16 g) s = execVfminBf16 g s := rfl
@[simp] theorem exec_vfmaxBf16 (g) (s : State) : exec (.vfmaxBf16 g) s = execVfmaxBf16 g s := rfl
@[simp] theorem exec_vfabsBf16 (g) (s : State) : exec (.vfabsBf16 g) s = execVfabsBf16 g s := rfl
@[simp] theorem exec_vfnegBf16 (g) (s : State) : exec (.vfnegBf16 g) s = execVfnegBf16 g s := rfl
@[simp] theorem exec_vfcmpEqBf16 (g) (s : State) : exec (.vfcmpEqBf16 g) s = execVfcmpEqBf16 g s := rfl
@[simp] theorem exec_vfcmpLtBf16 (g) (s : State) : exec (.vfcmpLtBf16 g) s = execVfcmpLtBf16 g s := rfl
@[simp] theorem exec_vfcmpLeBf16 (g) (s : State) : exec (.vfcmpLeBf16 g) s = execVfcmpLeBf16 g s := rfl
@[simp] theorem exec_vcvtF16F32 (g) (s : State) : exec (.vcvtF16F32 g) s = execVcvtF16F32 g s := rfl
@[simp] theorem exec_vcvtBf16F32 (g) (s : State) : exec (.vcvtBf16F32 g) s = execVcvtBf16F32 g s := rfl
@[simp] theorem exec_vcvtF32F16 (g) (s : State) : exec (.vcvtF32F16 g) s = execVcvtF32F16 g s := rfl
@[simp] theorem exec_vcvtF32Bf16 (g) (s : State) : exec (.vcvtF32Bf16 g) s = execVcvtF32Bf16 g s := rfl
@[simp] theorem exec_vcvtI32F32 (g) (s : State) : exec (.vcvtI32F32 g) s = execVcvtI32F32 g s := rfl
@[simp] theorem exec_vcvtI32F32Rz (g) (s : State) : exec (.vcvtI32F32Rz g) s = execVcvtI32F32Rz g s := rfl
@[simp] theorem exec_vcvtF32I32 (g) (s : State) : exec (.vcvtF32I32 g) s = execVcvtF32I32 g s := rfl
@[simp] theorem exec_vsrBf16F32 (g) (s : State) : exec (.vsrBf16F32 g) s = execVsrBf16F32 g s := rfl
@[simp] theorem exec_vsrF16F32 (g) (s : State) : exec (.vsrF16F32 g) s = execVsrF16F32 g s := rfl
@[simp] theorem exec_vqmxE4m3 (g) (s : State) : exec (.vqmxE4m3 g) s = execVqmxE4m3 g s := rfl
@[simp] theorem exec_vqmxE5m2 (g) (s : State) : exec (.vqmxE5m2 g) s = execVqmxE5m2 g s := rfl
@[simp] theorem exec_vqmxE3m2 (g) (s : State) : exec (.vqmxE3m2 g) s = execVqmxE3m2 g s := rfl
@[simp] theorem exec_vqmxE2m3 (g) (s : State) : exec (.vqmxE2m3 g) s = execVqmxE2m3 g s := rfl
@[simp] theorem exec_vqmxE2m1 (g) (s : State) : exec (.vqmxE2m1 g) s = execVqmxE2m1 g s := rfl
@[simp] theorem exec_vqmxMxi8 (g) (s : State) : exec (.vqmxMxi8 g) s = execVqmxMxi8 g s := rfl
@[simp] theorem exec_vqmxSrE4m3 (g) (s : State) : exec (.vqmxSrE4m3 g) s = execVqmxSrE4m3 g s := rfl
@[simp] theorem exec_vqmxSrE5m2 (g) (s : State) : exec (.vqmxSrE5m2 g) s = execVqmxSrE5m2 g s := rfl
@[simp] theorem exec_vqmxSrE3m2 (g) (s : State) : exec (.vqmxSrE3m2 g) s = execVqmxSrE3m2 g s := rfl
@[simp] theorem exec_vqmxSrE2m3 (g) (s : State) : exec (.vqmxSrE2m3 g) s = execVqmxSrE2m3 g s := rfl
@[simp] theorem exec_vqmxSrE2m1 (g) (s : State) : exec (.vqmxSrE2m1 g) s = execVqmxSrE2m1 g s := rfl
@[simp] theorem exec_vqmxSrMxi8 (g) (s : State) : exec (.vqmxSrMxi8 g) s = execVqmxSrMxi8 g s := rfl
@[simp] theorem exec_vdqmxE4m3 (g) (s : State) : exec (.vdqmxE4m3 g) s = execVdqmxE4m3 g s := rfl
@[simp] theorem exec_vdqmxE5m2 (g) (s : State) : exec (.vdqmxE5m2 g) s = execVdqmxE5m2 g s := rfl
@[simp] theorem exec_vdqmxE3m2 (g) (s : State) : exec (.vdqmxE3m2 g) s = execVdqmxE3m2 g s := rfl
@[simp] theorem exec_vdqmxE2m3 (g) (s : State) : exec (.vdqmxE2m3 g) s = execVdqmxE2m3 g s := rfl
@[simp] theorem exec_vdqmxE2m1 (g) (s : State) : exec (.vdqmxE2m1 g) s = execVdqmxE2m1 g s := rfl
@[simp] theorem exec_vdqmxMxi8 (g) (s : State) : exec (.vdqmxMxi8 g) s = execVdqmxMxi8 g s := rfl
@[simp] theorem exec_vbcastW (g) (s : State) : exec (.vbcastW g) s = execVbcastW g s := rfl
@[simp] theorem exec_vbcastH (g) (s : State) : exec (.vbcastH g) s = execVbcastH g s := rfl
@[simp] theorem exec_vbcastB (g) (s : State) : exec (.vbcastB g) s = execVbcastB g s := rfl
@[simp] theorem exec_vmov (g) (s : State) : exec (.vmov g) s = execVmov g s := rfl
@[simp] theorem exec_vsel (g) (s : State) : exec (.vsel g) s = execVsel g s := rfl
@[simp] theorem exec_vpermW (g) (s : State) : exec (.vpermW g) s = execVpermW g s := rfl
@[simp] theorem exec_vpermH (g) (s : State) : exec (.vpermH g) s = execVpermH g s := rfl
@[simp] theorem exec_vrot (g) (s : State) : exec (.vrot g) s = execVrot g s := rfl
@[simp] theorem exec_vextW (g) (s : State) : exec (.vextW g) s = execVextW g s := rfl
@[simp] theorem exec_vinsW (g) (s : State) : exec (.vinsW g) s = execVinsW g s := rfl
@[simp] theorem exec_viotaW (g) (s : State) : exec (.viotaW g) s = execViotaW g s := rfl
@[simp] theorem exec_vlane (g) (s : State) : exec (.vlane g) s = execVlane g s := rfl
@[simp] theorem exec_vunlane (g) (s : State) : exec (.vunlane g) s = execVunlane g s := rfl
@[simp] theorem exec_vredAddF32 (g) (s : State) : exec (.vredAddF32 g) s = execVredAddF32 g s := rfl
@[simp] theorem exec_vredMaxF32 (g) (s : State) : exec (.vredMaxF32 g) s = execVredMaxF32 g s := rfl
@[simp] theorem exec_vredMinF32 (g) (s : State) : exec (.vredMinF32 g) s = execVredMinF32 g s := rfl
@[simp] theorem exec_vredAddI32 (g) (s : State) : exec (.vredAddI32 g) s = execVredAddI32 g s := rfl
@[simp] theorem exec_vscanAddF32 (g) (s : State) : exec (.vscanAddF32 g) s = execVscanAddF32 g s := rfl
@[simp] theorem exec_vscanMaxI32 (g) (s : State) : exec (.vscanMaxI32 g) s = execVscanMaxI32 g s := rfl
@[simp] theorem exec_vscanAddI32 (g) (s : State) : exec (.vscanAddI32 g) s = execVscanAddI32 g s := rfl
@[simp] theorem exec_kand (g) (s : State) : exec (.kand g) s = execKand g s := rfl
@[simp] theorem exec_kor (g) (s : State) : exec (.kor g) s = execKor g s := rfl
@[simp] theorem exec_kxor (g) (s : State) : exec (.kxor g) s = execKxor g s := rfl
@[simp] theorem exec_knot (g) (s : State) : exec (.knot g) s = execKnot g s := rfl
@[simp] theorem exec_kpop (g) (s : State) : exec (.kpop g) s = execKpop g s := rfl
@[simp] theorem exec_kset (g) (s : State) : exec (.kset g) s = execKset g s := rfl
@[simp] theorem exec_kget (g) (s : State) : exec (.kget g) s = execKget g s := rfl
@[simp] theorem exec_vrng (g) (s : State) : exec (.vrng g) s = execVrng g s := rfl
@[simp] theorem exec_vchk (g) (s : State) : exec (.vchk g) s = execVchk g s := rfl
@[simp] theorem exec_ldB (g) (s : State) : exec (.ldB g) s = execLdB g s := rfl
@[simp] theorem exec_ldH (g) (s : State) : exec (.ldH g) s = execLdH g s := rfl
@[simp] theorem exec_ldW (g) (s : State) : exec (.ldW g) s = execLdW g s := rfl
@[simp] theorem exec_ldD (g) (s : State) : exec (.ldD g) s = execLdD g s := rfl
@[simp] theorem exec_ldBz (g) (s : State) : exec (.ldBz g) s = execLdBz g s := rfl
@[simp] theorem exec_ldHz (g) (s : State) : exec (.ldHz g) s = execLdHz g s := rfl
@[simp] theorem exec_ldWz (g) (s : State) : exec (.ldWz g) s = execLdWz g s := rfl
@[simp] theorem exec_stB (g) (s : State) : exec (.stB g) s = execStB g s := rfl
@[simp] theorem exec_stH (g) (s : State) : exec (.stH g) s = execStH g s := rfl
@[simp] theorem exec_stW (g) (s : State) : exec (.stW g) s = execStW g s := rfl
@[simp] theorem exec_stD (g) (s : State) : exec (.stD g) s = execStD g s := rfl
@[simp] theorem exec_vld (g) (s : State) : exec (.vld g) s = execVld g s := rfl
@[simp] theorem exec_vldO (g) (s : State) : exec (.vldO g) s = execVldO g s := rfl
@[simp] theorem exec_vldQ (g) (s : State) : exec (.vldQ g) s = execVldQ g s := rfl
@[simp] theorem exec_vst (g) (s : State) : exec (.vst g) s = execVst g s := rfl
@[simp] theorem exec_vstO (g) (s : State) : exec (.vstO g) s = execVstO g s := rfl
@[simp] theorem exec_vstQ (g) (s : State) : exec (.vstQ g) s = execVstQ g s := rfl
@[simp] theorem exec_vldsW (g) (s : State) : exec (.vldsW g) s = execVldsW g s := rfl
@[simp] theorem exec_vldsH (g) (s : State) : exec (.vldsH g) s = execVldsH g s := rfl
@[simp] theorem exec_vldxW (g) (s : State) : exec (.vldxW g) s = execVldxW g s := rfl
@[simp] theorem exec_vstxW (g) (s : State) : exec (.vstxW g) s = execVstxW g s := rfl
@[simp] theorem exec_smvH (g) (s : State) : exec (.smvH g) s = execSmvH g s := rfl
@[simp] theorem exec_smvW (g) (s : State) : exec (.smvW g) s = execSmvW g s := rfl
@[simp] theorem exec_smvD (g) (s : State) : exec (.smvD g) s = execSmvD g s := rfl
@[simp] theorem exec_sdup (g) (s : State) : exec (.sdup g) s = execSdup g s := rfl
@[simp] theorem exec_vac (g) (s : State) : exec (.vac g) s = execVac g s := rfl
@[simp] theorem exec_vtst (g) (s : State) : exec (.vtst g) s = execVtst g s := rfl
@[simp] theorem exec_vtake (g) (s : State) : exec (.vtake g) s = execVtake g s := rfl
@[simp] theorem exec_amoAddW (g) (s : State) : exec (.amoAddW g) s = execAmoAddW g s := rfl
@[simp] theorem exec_amoAddD (g) (s : State) : exec (.amoAddD g) s = execAmoAddD g s := rfl
@[simp] theorem exec_amoMaxD (g) (s : State) : exec (.amoMaxD g) s = execAmoMaxD g s := rfl
@[simp] theorem exec_amoXchgD (g) (s : State) : exec (.amoXchgD g) s = execAmoXchgD g s := rfl
@[simp] theorem exec_amoCasD (g) (s : State) : exec (.amoCasD g) s = execAmoCasD g s := rfl
@[simp] theorem exec_ptst (g) (s : State) : exec (.ptst g) s = execPtst g s := rfl
@[simp] theorem exec_rldW (g) (s : State) : exec (.rldW g) s = execRldW g s := rfl
@[simp] theorem exec_rldD (g) (s : State) : exec (.rldD g) s = execRldD g s := rfl
@[simp] theorem exec_rldQ (g) (s : State) : exec (.rldQ g) s = execRldQ g s := rfl
@[simp] theorem exec_rldO (g) (s : State) : exec (.rldO g) s = execRldO g s := rfl
@[simp] theorem exec_rstW (g) (s : State) : exec (.rstW g) s = execRstW g s := rfl
@[simp] theorem exec_rstD (g) (s : State) : exec (.rstD g) s = execRstD g s := rfl
@[simp] theorem exec_rstQ (g) (s : State) : exec (.rstQ g) s = execRstQ g s := rfl
@[simp] theorem exec_rstO (g) (s : State) : exec (.rstO g) s = execRstO g s := rfl
@[simp] theorem exec_rvld (g) (s : State) : exec (.rvld g) s = execRvld g s := rfl
@[simp] theorem exec_rvst (g) (s : State) : exec (.rvst g) s = execRvst g s := rfl
@[simp] theorem exec_rmvH (g) (s : State) : exec (.rmvH g) s = execRmvH g s := rfl
@[simp] theorem exec_rtst (g) (s : State) : exec (.rtst g) s = execRtst g s := rfl
@[simp] theorem exec_ramoAddRlx (g) (s : State) : exec (.ramoAddRlx g) s = execRamoAddRlx g s := rfl
@[simp] theorem exec_ramoAddAcq (g) (s : State) : exec (.ramoAddAcq g) s = execRamoAddAcq g s := rfl
@[simp] theorem exec_ramoAddRel (g) (s : State) : exec (.ramoAddRel g) s = execRamoAddRel g s := rfl
@[simp] theorem exec_ramoAddAr (g) (s : State) : exec (.ramoAddAr g) s = execRamoAddAr g s := rfl
@[simp] theorem exec_ramoMaxRlx (g) (s : State) : exec (.ramoMaxRlx g) s = execRamoMaxRlx g s := rfl
@[simp] theorem exec_ramoMaxAcq (g) (s : State) : exec (.ramoMaxAcq g) s = execRamoMaxAcq g s := rfl
@[simp] theorem exec_ramoMaxRel (g) (s : State) : exec (.ramoMaxRel g) s = execRamoMaxRel g s := rfl
@[simp] theorem exec_ramoMaxAr (g) (s : State) : exec (.ramoMaxAr g) s = execRamoMaxAr g s := rfl
@[simp] theorem exec_ramoXchgRlx (g) (s : State) : exec (.ramoXchgRlx g) s = execRamoXchgRlx g s := rfl
@[simp] theorem exec_ramoXchgAcq (g) (s : State) : exec (.ramoXchgAcq g) s = execRamoXchgAcq g s := rfl
@[simp] theorem exec_ramoXchgRel (g) (s : State) : exec (.ramoXchgRel g) s = execRamoXchgRel g s := rfl
@[simp] theorem exec_ramoXchgAr (g) (s : State) : exec (.ramoXchgAr g) s = execRamoXchgAr g s := rfl
@[simp] theorem exec_ramoCasRlx (g) (s : State) : exec (.ramoCasRlx g) s = execRamoCasRlx g s := rfl
@[simp] theorem exec_ramoCasAcq (g) (s : State) : exec (.ramoCasAcq g) s = execRamoCasAcq g s := rfl
@[simp] theorem exec_ramoCasRel (g) (s : State) : exec (.ramoCasRel g) s = execRamoCasRel g s := rfl
@[simp] theorem exec_ramoCasAr (g) (s : State) : exec (.ramoCasAr g) s = execRamoCasAr g s := rfl
@[simp] theorem exec_pset (g) (s : State) : exec (.pset g) s = execPset g s := rfl
@[simp] theorem exec_pget (g) (s : State) : exec (.pget g) s = execPget g s := rfl
@[simp] theorem exec_pinv (g) (s : State) : exec (.pinv g) s = execPinv g s := rfl
@[simp] theorem exec_mmq (g) (s : State) : exec (.mmq g) s = execMmq g s := rfl
@[simp] theorem exec_mmqZ (g) (s : State) : exec (.mmqZ g) s = execMmqZ g s := rfl
@[simp] theorem exec_mmqRc (g) (s : State) : exec (.mmqRc g) s = execMmqRc g s := rfl
@[simp] theorem exec_mmqZRc (g) (s : State) : exec (.mmqZRc g) s = execMmqZRc g s := rfl
@[simp] theorem exec_mmqTa (g) (s : State) : exec (.mmqTa g) s = execMmqTa g s := rfl
@[simp] theorem exec_mmqZTa (g) (s : State) : exec (.mmqZTa g) s = execMmqZTa g s := rfl
@[simp] theorem exec_mmqRcTa (g) (s : State) : exec (.mmqRcTa g) s = execMmqRcTa g s := rfl
@[simp] theorem exec_mmqZRcTa (g) (s : State) : exec (.mmqZRcTa g) s = execMmqZRcTa g s := rfl
@[simp] theorem exec_mmqTb (g) (s : State) : exec (.mmqTb g) s = execMmqTb g s := rfl
@[simp] theorem exec_mmqZTb (g) (s : State) : exec (.mmqZTb g) s = execMmqZTb g s := rfl
@[simp] theorem exec_mmqRcTb (g) (s : State) : exec (.mmqRcTb g) s = execMmqRcTb g s := rfl
@[simp] theorem exec_mmqZRcTb (g) (s : State) : exec (.mmqZRcTb g) s = execMmqZRcTb g s := rfl
@[simp] theorem exec_mmqTaTb (g) (s : State) : exec (.mmqTaTb g) s = execMmqTaTb g s := rfl
@[simp] theorem exec_mmqZTaTb (g) (s : State) : exec (.mmqZTaTb g) s = execMmqZTaTb g s := rfl
@[simp] theorem exec_mmqRcTaTb (g) (s : State) : exec (.mmqRcTaTb g) s = execMmqRcTaTb g s := rfl
@[simp] theorem exec_mmqZRcTaTb (g) (s : State) : exec (.mmqZRcTaTb g) s = execMmqZRcTaTb g s := rfl
@[simp] theorem exec_mdrain (g) (s : State) : exec (.mdrain g) s = execMdrain g s := rfl
@[simp] theorem exec_mzero (g) (s : State) : exec (.mzero g) s = execMzero g s := rfl
@[simp] theorem exec_mstat (g) (s : State) : exec (.mstat g) s = execMstat g s := rfl
@[simp] theorem exec_cpy (g) (s : State) : exec (.cpy g) s = execCpy g s := rfl
@[simp] theorem exec_engineMove (g) (s : State) : exec (.engineMove g) s = execEngineMove g s := rfl
@[simp] theorem exec_movNp (g) (s : State) : exec (.movNp g) s = execMovNp g s := rfl
@[simp] theorem exec_cpyNp (g) (s : State) : exec (.cpyNp g) s = execCpyNp g s := rfl
@[simp] theorem exec_pub (g) (s : State) : exec (.pub g) s = execPub g s := rfl
@[simp] theorem exec_dsc (g) (s : State) : exec (.dsc g) s = execDsc g s := rfl
@[simp] theorem exec_fill (g) (s : State) : exec (.fill g) s = execFill g s := rfl
@[simp] theorem exec_ctradd (g) (s : State) : exec (.ctradd g) s = execCtradd g s := rfl
@[simp] theorem exec_fretry (g) (s : State) : exec (.fretry g) s = execFretry g s := rfl
@[simp] theorem exec_fskip (g) (s : State) : exec (.fskip g) s = execFskip g s := rfl
@[simp] theorem exec_kvshare (g) (s : State) : exec (.kvshare g) s = execKvshare g s := rfl
@[simp] theorem exec_kvdrop (g) (s : State) : exec (.kvdrop g) s = execKvdrop g s := rfl
@[simp] theorem exec_kvstat (g) (s : State) : exec (.kvstat g) s = execKvstat g s := rfl
@[simp] theorem exec_coll (g) (s : State) : exec (.coll g) s = execColl g s := rfl
@[simp] theorem exec_qpush (g) (s : State) : exec (.qpush g) s = execQpush g s := rfl
@[simp] theorem exec_kscan (g) (s : State) : exec (.kscan g) s = execKscan g s := rfl
@[simp] theorem exec_qread (g) (s : State) : exec (.qread g) s = execQread g s := rfl
@[simp] theorem exec_jappend (g) (s : State) : exec (.jappend g) s = execJappend g s := rfl
@[simp] theorem exec_jcommit (g) (s : State) : exec (.jcommit g) s = execJcommit g s := rfl
@[simp] theorem exec_jread (g) (s : State) : exec (.jread g) s = execJread g s := rfl
@[simp] theorem exec_npush (g) (s : State) : exec (.npush g) s = execNpush g s := rfl
@[simp] theorem exec_cpost (g) (s : State) : exec (.cpost g) s = execCpost g s := rfl
@[simp] theorem exec_chold (g) (s : State) : exec (.chold g) s = execChold g s := rfl
@[simp] theorem exec_crel (g) (s : State) : exec (.crel g) s = execCrel g s := rfl
@[simp] theorem exec_hbeat (g) (s : State) : exec (.hbeat g) s = execHbeat g s := rfl
@[simp] theorem exec_tko (g) (s : State) : exec (.tko g) s = execTko g s := rfl
@[simp] theorem exec_tlbinv (g) (s : State) : exec (.tlbinv g) s = execTlbinv g s := rfl
@[simp] theorem exec_extensionOpcode (op) (g) (s : State) : exec (.extensionOpcode op g) s = execExtensionOpcode op g s := rfl
@[simp] theorem exec_issuePastEnd (s : State) : exec (.issuePastEnd) s = execIssuePastEnd s := rfl
@[simp] theorem exec_resultLanding (c) (n) (s : State) : exec (.resultLanding c n) s = execResultLanding c n s := rfl
@[simp] theorem exec_snapshotLanding (c) (n) (s : State) : exec (.snapshotLanding c n) s = execSnapshotLanding c n s := rfl
@[simp] theorem exec_asyncTrapDelivery (c) (s : State) : exec (.asyncTrapDelivery c) s = execAsyncTrapDelivery c s := rfl
@[simp] theorem exec_streamElementStep (c) (s : State) : exec (.streamElementStep c) s = execStreamElementStep c s := rfl
@[simp] theorem exec_lockEvent (c) (dst) (s : State) : exec (.lockEvent c dst) s = execLockEvent c dst s := rfl
@[simp] theorem exec_piecePerformed (n) (s : State) : exec (.piecePerformed n) s = execPiecePerformed n s := rfl
@[simp] theorem exec_commandStart (id) (s : State) : exec (.commandStart id) s = execCommandStart id s := rfl
@[simp] theorem exec_transferCompletion (id) (s : State) : exec (.transferCompletion id) s = execTransferCompletion id s := rfl
@[simp] theorem exec_publish (id) (s : State) : exec (.publish id) s = execPublish id s := rfl
@[simp] theorem exec_discard (id) (s : State) : exec (.discard id) s = execDiscard id s := rfl
@[simp] theorem exec_engineCounterAdd (n) (s : State) : exec (.engineCounterAdd n) s = execEngineCounterAdd n s := rfl
@[simp] theorem exec_matrixCommandStart (c) (s : State) : exec (.matrixCommandStart c) s = execMatrixCommandStart c s := rfl
@[simp] theorem exec_matrixStep (c) (s : State) : exec (.matrixStep c) s = execMatrixStep c s := rfl
@[simp] theorem exec_operandsConsumed (c) (s : State) : exec (.operandsConsumed c) s = execOperandsConsumed c s := rfl
@[simp] theorem exec_drainStart (c) (s : State) : exec (.drainStart c) s = execDrainStart c s := rfl
@[simp] theorem exec_drainPublish (c) (s : State) : exec (.drainPublish c) s = execDrainPublish c s := rfl
@[simp] theorem exec_canvasNameUpdate (id) (s : State) : exec (.canvasNameUpdate id) s = execCanvasNameUpdate id s := rfl
@[simp] theorem exec_collectiveStart (id) (s : State) : exec (.collectiveStart id) s = execCollectiveStart id s := rfl
@[simp] theorem exec_collectivePublish (id) (s : State) : exec (.collectivePublish id) s = execCollectivePublish id s := rfl
@[simp] theorem exec_rctrRetest (id) (s : State) : exec (.rctrRetest id) s = execRctrRetest id s := rfl
@[simp] theorem exec_waitRetest (c) (s : State) : exec (.waitRetest c) s = execWaitRetest c s := rfl
@[simp] theorem exec_qpushPost (id) (s : State) : exec (.qpushPost id) s = execQpushPost id s := rfl
@[simp] theorem exec_completionWrite (tower) (n) (s : State) : exec (.completionWrite tower n) s = execCompletionWrite tower n s := rfl
@[simp] theorem exec_cancelArrival (id) (core) (s : State) : exec (.cancelArrival id core) s = execCancelArrival id core s := rfl
@[simp] theorem exec_subtreeQuiet (id) (s : State) : exec (.subtreeQuiet id) s = execSubtreeQuiet id s := rfl
@[simp] theorem exec_dispatch (tower) (nodes) (s : State) : exec (.dispatch tower nodes) s = execDispatch tower nodes s := rfl
@[simp] theorem exec_frameTick (job) (s : State) : exec (.frameTick job) s = execFrameTick job s := rfl
@[simp] theorem exec_preemption (c) (s : State) : exec (.preemption c) s = execPreemption c s := rfl
@[simp] theorem exec_sliceBoundary (tower) (slice) (s : State) : exec (.sliceBoundary tower slice) s = execSliceBoundary tower slice s := rfl
@[simp] theorem exec_segmentSave (c) (seg) (s : State) : exec (.segmentSave c seg) s = execSegmentSave c seg s := rfl
@[simp] theorem exec_segmentPowerDown (c) (seg) (s : State) : exec (.segmentPowerDown c seg) s = execSegmentPowerDown c seg s := rfl
@[simp] theorem exec_takeOver (tower) (s : State) : exec (.takeOver tower) s = execTakeOver tower s := rfl
@[simp] theorem exec_standbyReload (tower) (agree) (s : State) : exec (.standbyReload tower agree) s = execStandbyReload tower agree s := rfl
@[simp] theorem exec_invalidationAck (id) (tower) (s : State) : exec (.invalidationAck id tower) s = execInvalidationAck id tower s := rfl
@[simp] theorem exec_scrub (space) (tower) (line) (s : State) : exec (.scrub space tower line) s = execScrub space tower line s := rfl
@[simp] theorem exec_deviceFault (cause) (tower) (column) (s : State) : exec (.deviceFault cause tower column) s = execDeviceFault cause tower column s := rfl
@[simp] theorem exec_thermalLimit (tower) (s : State) : exec (.thermalLimit tower) s = execThermalLimit tower s := rfl
@[simp] theorem exec_clockRestore (tower) (s : State) : exec (.clockRestore tower) s = execClockRestore tower s := rfl
@[simp] theorem exec_bringUp (outs) (s : State) : exec (.bringUp outs) s = execBringUp outs s := rfl
@[simp] theorem exec_warmReset (s : State) : exec (.warmReset) s = execWarmReset s := rfl
@[simp] theorem exec_dataFlit (port) (dw0) (dw1) (payload) (tagOk) (s : State) : exec (.dataFlit port dw0 dw1 payload tagOk) s = execDataFlit port dw0 dw1 payload tagOk s := rfl
@[simp] theorem exec_ackFlit (port) (seq) (s : State) : exec (.ackFlit port seq) s = execAckFlit port seq s := rfl
@[simp] theorem exec_retryRequest (port) (seq) (s : State) : exec (.retryRequest port seq) s = execRetryRequest port seq s := rfl
@[simp] theorem exec_abortFlit (port) (id) (s : State) : exec (.abortFlit port id) s = execAbortFlit port id s := rfl
@[simp] theorem exec_timeFlit (port) (offset) (s : State) : exec (.timeFlit port offset) s = execTimeFlit port offset s := rfl
@[simp] theorem exec_helloFlit (port) (id) (stream) (device) (ringid) (agrees) (s : State) : exec (.helloFlit port id stream device ringid agrees) s = execHelloFlit port id stream device ringid agrees s := rfl
@[simp] theorem exec_linkLoss (port) (s : State) : exec (.linkLoss port) s = execLinkLoss port s := rfl
@[simp] theorem exec_linkRekey (port) (peer) (secret) (signed) (s : State) : exec (.linkRekey port peer secret signed) s = execLinkRekey port peer secret signed s := rfl
@[simp] theorem exec_queueCreate (q) (cfg) (s : State) : exec (.queueCreate q cfg) s = execQueueCreate q cfg s := rfl
@[simp] theorem exec_queueDisable (q) (s : State) : exec (.queueDisable q) s = execQueueDisable q s := rfl
@[simp] theorem exec_sqtail (q) (tail) (s : State) : exec (.sqtail q tail) s = execSqtail q tail s := rfl
@[simp] theorem exec_cqhead (q) (head) (s : State) : exec (.cqhead q head) s = execCqhead q head s := rfl
@[simp] theorem exec_registerWrite (tower) (off) (x) (s : State) : exec (.registerWrite tower off x) s = execRegisterWrite tower off x s := rfl
@[simp] theorem exec_hostCxlMemWrite (job) (addr) (bytes) (s : State) : exec (.hostCxlMemWrite job addr bytes) s = execHostCxlMemWrite job addr bytes s := rfl
@[simp] theorem exec_hostCxlMemRead (job) (addr) (len) (s : State) : exec (.hostCxlMemRead job addr len) s = execHostCxlMemRead job addr len s := rfl
@[simp] theorem exec_launch (q) (e) (s : State) : exec (.launch q e) s = execLaunch q e s := rfl
@[simp] theorem exec_node (q) (e) (s : State) : exec (.node q e) s = execNode q e s := rfl
@[simp] theorem exec_group (q) (e) (s : State) : exec (.group q e) s = execGroup q e s := rfl
@[simp] theorem exec_inval (q) (e) (s : State) : exec (.inval q e) s = execInval q e s := rfl
@[simp] theorem exec_pin (q) (e) (s : State) : exec (.pin q e) s = execPin q e s := rfl
@[simp] theorem exec_hostCancel (q) (e) (s : State) : exec (.hostCancel q e) s = execHostCancel q e s := rfl
@[simp] theorem exec_release (q) (e) (s : State) : exec (.release q e) s = execRelease q e s := rfl
@[simp] theorem exec_scopering (q) (e) (s : State) : exec (.scopering q e) s = execScopering q e s := rfl
@[simp] theorem exec_preempt (q) (e) (s : State) : exec (.preempt q e) s = execPreempt q e s := rfl
@[simp] theorem exec_layerpwr (q) (e) (s : State) : exec (.layerpwr q e) s = execLayerpwr q e s := rfl
@[simp] theorem exec_sliplog (q) (e) (s : State) : exec (.sliplog q e) s = execSliplog q e s := rfl
@[simp] theorem exec_arbw (q) (e) (s : State) : exec (.arbw q e) s = execArbw q e s := rfl
@[simp] theorem exec_clock (q) (e) (s : State) : exec (.clock q e) s = execClock q e s := rfl
@[simp] theorem exec_seal (q) (e) (s : State) : exec (.seal q e) s = execSeal q e s := rfl
@[simp] theorem exec_inject (q) (e) (s : State) : exec (.inject q e) s = execInject q e s := rfl
@[simp] theorem exec_illop (w) (s : State) : exec (.illop w) s = execIllop w s := rfl
@[simp] theorem exec_imemue (c) (s : State) : exec (.imemue c) s = execImemue c s := rfl
@[simp] theorem exec_softError (space) (unit) (addr) (bit) (s : State) : exec (.softError space unit addr bit) s = execSoftError space unit addr bit s := rfl
@[simp] theorem exec_commandHeld (id) (s : State) : exec (.commandHeld id) s = execCommandHeld id s := rfl
@[simp] theorem exec_layerPowerOn (q) (seq) (tower) (layer) (s : State) : exec (.layerPowerOn q seq tower layer) s = execLayerPowerOn q seq tower layer s := rfl
@[simp] theorem exec_fullService (passed) (s : State) : exec (.fullService passed) s = execFullService passed s := rfl
@[simp] theorem exec_powerLoss (s : State) : exec (.powerLoss) s = execPowerLoss s := rfl
@[simp] theorem exec_precisionTimeMeasurement (time) (s : State) : exec (.precisionTimeMeasurement time) s = execPrecisionTimeMeasurement time s := rfl
@[simp] theorem exec_badOpcode (q) (e) (s : State) : exec (.badOpcode q e) s = execBadOpcode q e s := rfl

end Sys2Proof.Machine
end

