-- ==== Sys2Proof/Laws/Encoding.lean ====
section
/-!
SUPPORT. What packing and unpacking the fields of a slot word come to: the opcode and the fields read back are those packed.
-/

namespace Sys2Proof

/-- Two words are equal if their bits are, by the bits of what is appended. -/
theorem bits_ext {w : Nat} {x y : BitVec w} (h : ∀ i < w, x.getLsbD i = y.getLsbD i) : x = y :=
  BitVec.eq_of_getLsbD_eq fun i hi => h i hi

theorem opcode_packG (op : BitVec 8) (g : G) : (packG op g).extractLsb' 20 8 = op := by
  obtain ⟨n, p, ea, eb, d, a, b⟩ := g
  refine bits_ext fun i hi => ?_
  simp only [packG, BitVec.getLsbD_extractLsb', BitVec.getLsbD_append]
  interval_cases i <;> simp

theorem opcode_packJ (op : BitVec 8) (j : J) : (packJ op j).extractLsb' 20 8 = op := by
  obtain ⟨n, p, t⟩ := j
  refine bits_ext fun i hi => ?_
  simp only [packJ, BitVec.getLsbD_extractLsb', BitVec.getLsbD_append]
  interval_cases i <;> simp

theorem opcode_packLp (op : BitVec 8) (l : LpReg) : (packLp op l).extractLsb' 20 8 = op := by
  obtain ⟨n, p, c, e⟩ := l
  refine bits_ext fun i hi => ?_
  simp only [packLp, BitVec.getLsbD_extractLsb', BitVec.getLsbD_append]
  interval_cases i <;> simp

theorem opcode_packLpi (op : BitVec 8) (l : LpImm) : (packLpi op l).extractLsb' 20 8 = op := by
  obtain ⟨n, p, c, e⟩ := l
  refine bits_ext fun i hi => ?_
  simp only [packLpi, BitVec.getLsbD_extractLsb', BitVec.getLsbD_append]
  interval_cases i <;> simp

theorem unpackG_packG (op : BitVec 8) (g : G) : unpackG (packG op g) = g := by
  obtain ⟨n, p, ea, eb, d, a, b⟩ := g
  simp only [unpackG, packG, G.mk.injEq]
  refine ⟨?_, ?_, ?_, ?_, ?_, ?_, ?_⟩
  any_goals (simp only [BitVec.getLsbD_append]; simp; done)
  all_goals
    refine bits_ext fun i hi => ?_
    simp only [BitVec.getLsbD_extractLsb', BitVec.getLsbD_append]
    interval_cases i <;> simp

theorem unpackJ_packJ (op : BitVec 8) (j : J) : unpackJ (packJ op j) = j := by
  obtain ⟨n, p, t⟩ := j
  simp only [unpackJ, packJ, J.mk.injEq]
  refine ⟨?_, ?_, ?_⟩
  any_goals (simp only [BitVec.getLsbD_append]; simp; done)
  all_goals
    refine bits_ext fun i hi => ?_
    simp only [BitVec.getLsbD_extractLsb', BitVec.getLsbD_append]
    interval_cases i <;> simp

theorem unpackLp_packLp (op : BitVec 8) (l : LpReg) : unpackLp (packLp op l) = l := by
  obtain ⟨n, p, c, e⟩ := l
  simp only [unpackLp, packLp, LpReg.mk.injEq]
  refine ⟨?_, ?_, ?_, ?_⟩
  any_goals (simp only [BitVec.getLsbD_append]; simp; done)
  all_goals
    refine bits_ext fun i hi => ?_
    simp only [BitVec.getLsbD_extractLsb', BitVec.getLsbD_append]
    interval_cases i <;> simp

theorem unpackLpi_packLpi (op : BitVec 8) (l : LpImm) : unpackLpi (packLpi op l) = l := by
  obtain ⟨n, p, c, e⟩ := l
  simp only [unpackLpi, packLpi, LpImm.mk.injEq]
  refine ⟨?_, ?_, ?_, ?_⟩
  any_goals (simp only [BitVec.getLsbD_append]; simp; done)
  all_goals
    refine bits_ext fun i hi => ?_
    simp only [BitVec.getLsbD_extractLsb', BitVec.getLsbD_append]
    interval_cases i <;> simp

end Sys2Proof
end

