-- ==== Sys2Proof/Laws/Lanes.lean ====
section
/-! SUPPORT. Lanes of a vector and bits of a mask built lane by lane (R113, R114, R116), flags of lanes (R171), bytes of a number. -/

namespace Sys2Proof.Machine

theorem lanesNat_lt (w : Nat) (f : Nat → BitVec w) (n : Nat) : lanesNat w f n < 2 ^ (w * n) := by
  induction n with
  | zero => simp [lanesNat]
  | succ n ih =>
    have := (f n).isLt
    rw [lanesNat, Nat.mul_succ, Nat.pow_add]
    calc lanesNat w f n + (f n).toNat * 2 ^ (w * n) < 2 ^ (w * n) + (f n).toNat * 2 ^ (w * n) := by omega
      _ = ((f n).toNat + 1) * 2 ^ (w * n) := by ring
      _ ≤ 2 ^ w * 2 ^ (w * n) := Nat.mul_le_mul_right _ this
      _ = _ := by ring

theorem lanesNat_lane (w : Nat) (f : Nat → BitVec w) {n i : Nat} (h : i < n) :
    lanesNat w f n / 2 ^ (w * i) % 2 ^ w = (f i).toNat := by
  induction n with
  | zero => omega
  | succ n ih =>
    rw [lanesNat]
    by_cases hi : i = n
    · subst hi
      rw [Nat.add_mul_div_right _ _ (Nat.two_pow_pos _), Nat.div_eq_of_lt (lanesNat_lt w f i), Nat.zero_add,
        Nat.mod_eq_of_lt (f i).isLt]
    · have hlt : i < n := by omega
      have hs : 2 ^ (w * n) = 2 ^ w * 2 ^ (w * (n - i - 1)) * 2 ^ (w * i) := by
        obtain ⟨k, rfl⟩ : ∃ k, n = i + 1 + k := ⟨n - (i + 1), by omega⟩
        rw [← Nat.pow_add, ← Nat.pow_add, show i + 1 + k - i - 1 = k by omega]
        congr 1
        ring
      rw [hs, ← Nat.mul_assoc, Nat.add_mul_div_right _ _ (Nat.two_pow_pos _)]
      rw [show (f n).toNat * (2 ^ w * 2 ^ (w * (n - i - 1))) = 2 ^ w * ((f n).toNat * 2 ^ (w * (n - i - 1))) by ring,
        Nat.add_mul_mod_self_left]
      exact ih hlt

/-- A lane of a vector built lane by lane. -/
theorem lane_ofLanes {w n : Nat} (hw : w * n = 2048) (f : Nat → BitVec w) {i : Nat} (h : i < n) : lane w (ofLanes w n f) i = f i := by
  apply BitVec.eq_of_toNat_eq
  have hl := lanesNat_lt w f n
  rw [hw] at hl
  rw [lane, ofLanes, BitVec.extractLsb'_toNat, BitVec.toNat_ofNat, Nat.mod_eq_of_lt hl, Nat.shiftRight_eq_div_pow]
  exact lanesNat_lane w f h

theorem width_mul {w : Nat} (h : w = 8 ∨ w = 16 ∨ w = 32) : w * (2048 / w) = 2048 := by
  rcases h with rfl | rfl | rfl <;> rfl

/-- A lane of a register of which the governed lanes have been replaced (R114). -/
theorem lane_mergeLanes {w : Nat} (hw : w = 8 ∨ w = 16 ∨ w = 32) (m : KMask) (old : Vec) (f : Nat → BitVec w) {i : Nat}
    (h : i < 2048 / w) : lane w (mergeLanes w m old f) i = if maskBit m w i then f i else lane w old i :=
  lane_ofLanes (width_mul hw) _ h

/-- A bit of a mask given bit by bit. -/
theorem maskOf_bit (f : Nat → Bool) {j : Nat} (h : j < 128) : (maskOf f).getLsbD j = f j := by
  have hl := lanesNat_lt 1 (fun i => BitVec.ofBool (f i)) 128
  have := lanesNat_lane 1 (fun i => BitVec.ofBool (f i)) h
  rw [maskOf, BitVec.getLsbD, BitVec.toNat_ofNat, Nat.mod_eq_of_lt (by simpa using hl), Nat.testBit_eq_decide_div_mod_eq]
  rw [Nat.one_mul, Nat.pow_one] at this
  rw [this]
  cases f j <;> rfl

theorem cmpMask32_bit (m : KMask) (c : Nat → Bool) {j : Nat} (h : j < 128) :
    (cmpMask 32 m c).getLsbD j = (m.getLsbD (2 * (j / 2)) && c (j / 2)) := maskOf_bit _ h

theorem cmpMask16_bit (m : KMask) (c : Nat → Bool) {j : Nat} (h : j < 128) :
    (cmpMask 16 m c).getLsbD j = (m.getLsbD j && c j) := maskOf_bit _ h

theorem cmpMask8_bit (m : KMask) (c : Nat → Bool) {j : Nat} (h : j < 128) :
    (cmpMask 8 m c).getLsbD j = (m.getLsbD j && c (2 * j) && c (2 * j + 1)) := maskOf_bit _ h

/-- A flag of an instruction is raised by some governed lane (R171). -/
theorem laneFlags_bit (w n : Nat) (m : KMask) (f : Nat → Flags) (b : Nat) :
    (laneFlags w n m f).getLsbD b = true ↔ ∃ i < n, maskBit m w i = true ∧ (f i).getLsbD b = true := by
  have h (l : List Nat) (acc : Flags) : (l.foldl (fun acc i => if maskBit m w i then acc ||| f i else acc) acc).getLsbD b = true ↔
      acc.getLsbD b = true ∨ ∃ i ∈ l, maskBit m w i = true ∧ (f i).getLsbD b = true := by
    induction l generalizing acc with
    | nil => simp
    | cons a l ih =>
      rw [List.foldl_cons, ih]
      by_cases hm : maskBit m w a = true
      · simp [hm, or_assoc]
      · simp [hm]
  rw [laneFlags, h]
  simp

/-! Bytes of a number. -/

@[simp] theorem leBytes_length (n v : Nat) : (leBytes n v).length = n := by
  induction n generalizing v with
  | zero => rfl
  | succ n ih => simp [leBytes, ih]

theorem leBytes_get {n v i : Nat} (h : i < n) : (leBytes n v)[i]? = some (BitVec.ofNat 8 (v / 2 ^ (8 * i))) := by
  induction n generalizing v i with
  | zero => omega
  | succ n ih =>
    cases i with
    | zero => simp [leBytes]
    | succ i =>
      rw [leBytes, List.getElem?_cons_succ, ih (by omega)]
      congr 2
      rw [Nat.div_div_eq_div_mul, show 8 * (i + 1) = 8 + 8 * i by ring, Nat.pow_add]

/-! Lane order (R162, R181). -/

/-- The element that stands j-th in an order of a block. -/
def laneAt (w : Nat) (laneOrder : Bool) (j : Nat) : Nat :=
  if !laneOrder then j else match w with
  | 6 => j / 4 + 8 * (j % 4)
  | 4 => j / 2 + 16 * (j % 2)
  | _ => j

theorem lanePos_laneAt {w : Nat} (hw : w = 8 ∨ w = 6 ∨ w = 4) (t : Bool) {j : Nat} (hj : j < 32) : lanePos w t (laneAt w t j) = w * j := by
  rcases hw with rfl | rfl | rfl <;> cases t <;> simp only [lanePos, laneAt, Bool.not_true, Bool.not_false, if_true, Bool.false_eq_true, if_false]
  · omega
  · rcases Nat.mod_two_eq_zero_or_one j with h | h <;> rw [h]
    · rw [if_pos (by omega)]; omega
    · rw [if_neg (by omega)]; omega

theorem sum_perm {w : Nat} (hw : w = 8 ∨ w = 6 ∨ w = 4) (t : Bool) (f : Nat → Nat) :
    (List.range 32).foldl (fun acc e => acc + f e) 0 = (List.range 32).foldl (fun acc j => acc + f (laneAt w t j)) 0 := by
  rcases hw with rfl | rfl | rfl <;> cases t <;> simp only [show List.range 32 = [0, 1, 2, 3, 4, 5, 6, 7, 8, 9, 10, 11, 12, 13, 14, 15, 16, 17, 18, 19, 20, 21, 22, 23, 24, 25, 26, 27, 28, 29, 30, 31] from rfl, List.foldl_cons, List.foldl_nil, laneAt, Bool.not_true, Bool.not_false, if_true, Bool.false_eq_true, if_false, Nat.reduceDiv, Nat.reduceMod, Nat.reduceMul, Nat.reduceAdd]
  · omega
  · omega

theorem foldl_congr_range (n : Nat) {f g : Nat → Nat} (h : ∀ i < n, f i = g i) :
    (List.range n).foldl (fun acc e => acc + f e) 0 = (List.range n).foldl (fun acc e => acc + g e) 0 := by
  induction n with
  | zero => rfl
  | succ n ih => rw [List.range_succ, List.foldl_append, List.foldl_append, ih fun i hi => h i (by omega)]; simp [h n]

theorem sum_lanes {w : Nat} (hw : w = 8 ∨ w = 6 ∨ w = 4) (t : Bool) (d : Nat → Nat) :
    (List.range 32).foldl (fun acc e => acc + d e * 2 ^ lanePos w t e) 0 = (List.range 32).foldl (fun acc j => acc + d (laneAt w t j) * 2 ^ (w * j)) 0 := by
  rw [sum_perm hw t fun e => d e * 2 ^ lanePos w t e]
  exact foldl_congr_range 32 fun j hj => by rw [lanePos_laneAt hw t hj]

theorem lanesNat_fold (w : Nat) (f : Nat → BitVec w) (n : Nat) :
    (List.range n).foldl (fun acc j => acc + (f j).toNat * 2 ^ (w * j)) 0 = lanesNat w f n := by
  induction n with
  | zero => rfl
  | succ n ih => rw [List.range_succ, List.foldl_append, ih]; rfl

theorem relane_lanesNat {w : Nat} (hw : w = 8 ∨ w = 6 ∨ w = 4) (t : Bool) (x : Nat) :
    relane w t x = lanesNat w (fun j => BitVec.ofNat w (x / 2 ^ lanePos w (!t) (laneAt w t j))) 32 := by
  rw [← lanesNat_fold, relane, sum_lanes hw t fun e => x / 2 ^ lanePos w (!t) e % 2 ^ w]
  simp only [BitVec.toNat_ofNat]

/-- A block in the other order: each element stands at its place there, and nothing else stands in the block (R162). -/
theorem relane_elem {w : Nat} (hw : w = 8 ∨ w = 6 ∨ w = 4) (t : Bool) (x : Nat) {e : Nat} (he : e < 32) :
    relane w t x / 2 ^ lanePos w t e % 2 ^ w = x / 2 ^ lanePos w (!t) e % 2 ^ w := by
  obtain ⟨j, hj, rfl⟩ : ∃ j < 32, laneAt w t j = e := by
    rcases hw with rfl | rfl | rfl <;> cases t <;> simp only [laneAt, Bool.not_true, Bool.not_false, if_true, Bool.false_eq_true, if_false]
    · exact ⟨e, he, rfl⟩
    · exact ⟨e, he, rfl⟩
    · exact ⟨e, he, rfl⟩
    · exact ⟨4 * (e % 8) + e / 8, by omega, by omega⟩
    · exact ⟨e, he, rfl⟩
    · exact ⟨2 * (e % 16) + e / 16, by omega, by omega⟩
  rw [relane_lanesNat hw, lanePos_laneAt hw t hj, lanesNat_lane _ _ hj, BitVec.toNat_ofNat]

theorem relane_lt {w : Nat} (hw : w = 8 ∨ w = 6 ∨ w = 4) (t : Bool) (x : Nat) : relane w t x < 2 ^ (w * 32) := by
  rw [relane_lanesNat hw]; exact lanesNat_lt _ _ _

/-- `vlane` and `vunlane`: block b in the other order, every bit above the blocks as it was (R181). -/
theorem relaneVec_spec {w : Nat} (hw : w = 8 ∨ w = 6 ∨ w = 4) (t : Bool) (v : Vec) :
    (∀ b < 4, (relaneVec w t v).toNat / 2 ^ (32 * w * b) % 2 ^ (32 * w) = relane w t (v.toNat / 2 ^ (32 * w * b) % 2 ^ (32 * w))) ∧
    (relaneVec w t v).toNat / 2 ^ (128 * w) = v.toNat / 2 ^ (128 * w) := by
  have hl (b : Nat) := relane_lt hw t (v.toNat / 2 ^ (32 * w * b) % 2 ^ (32 * w))
  have hv := v.isLt
  have e : (relaneVec w t v).toNat = v.toNat / 2 ^ (128 * w) * 2 ^ (128 * w) +
      (List.range 4).foldl (fun acc b => acc + (BitVec.ofNat (32 * w) (relane w t (v.toNat / 2 ^ (32 * w * b) % 2 ^ (32 * w)))).toNat * 2 ^ (32 * w * b)) 0 := by
    have hl' (b : Nat) : relane w t (v.toNat / 2 ^ (32 * w * b) % 2 ^ (32 * w)) < 2 ^ (32 * w) := by have := hl b; rwa [Nat.mul_comm w 32] at this
    simp only [BitVec.toNat_ofNat, Nat.mod_eq_of_lt (hl' _), relaneVec, List.map, List.range, List.range.loop, List.foldl, List.sum_cons, List.sum_nil]
    have hq := lanesNat_lt (32 * w) (fun b => BitVec.ofNat (32 * w) (relane w t (v.toNat / 2 ^ (32 * w * b) % 2 ^ (32 * w)))) 4
    rw [← lanesNat_fold] at hq
    simp only [BitVec.toNat_ofNat, Nat.mod_eq_of_lt (hl' _), List.range, List.range.loop, List.foldl, show 32 * w * 4 = 128 * w by ring] at hq
    rw [Nat.mod_eq_of_lt]
    · ring
    · have hd : v.toNat / 2 ^ (128 * w) < 2 ^ (2048 - 128 * w) := by
        rw [Nat.div_lt_iff_lt_mul (Nat.two_pow_pos _), ← pow_add, show 2048 - 128 * w + 128 * w = 2048 by rcases hw with rfl | rfl | rfl <;> rfl]
        exact hv
      have hm : (v.toNat / 2 ^ (128 * w) + 1) * 2 ^ (128 * w) ≤ 2 ^ 2048 := by
        calc _ ≤ 2 ^ (2048 - 128 * w) * 2 ^ (128 * w) := Nat.mul_le_mul_right _ hd
          _ = 2 ^ 2048 := by rw [← pow_add, show 2048 - 128 * w + 128 * w = 2048 by rcases hw with rfl | rfl | rfl <;> rfl]
      rw [Nat.add_mul, Nat.one_mul] at hm
      omega
  rw [lanesNat_fold (32 * w) (fun b => BitVec.ofNat (32 * w) (relane w t (v.toNat / 2 ^ (32 * w * b) % 2 ^ (32 * w))))] at e
  have hl4 := lanesNat_lt (32 * w) (fun b => BitVec.ofNat (32 * w) (relane w t (v.toNat / 2 ^ (32 * w * b) % 2 ^ (32 * w)))) 4
  have h4 : 32 * w * 4 = 128 * w := by ring
  rw [h4] at hl4
  refine ⟨fun b hb => ?_, ?_⟩
  · rw [e, show 2 ^ (128 * w) = 2 ^ (32 * w) * 2 ^ (32 * w * (3 - b)) * 2 ^ (32 * w * b) by
        rw [← pow_add, ← pow_add]; congr 1; have : b = 0 ∨ b = 1 ∨ b = 2 ∨ b = 3 := by omega
        rcases this with rfl | rfl | rfl | rfl <;> ring]
    rw [Nat.add_comm, ← Nat.mul_assoc, Nat.add_mul_div_right _ _ (Nat.two_pow_pos _)]
    rw [Nat.mul_left_comm, Nat.add_mul_mod_self_left, lanesNat_lane _ _ hb, BitVec.toNat_ofNat, Nat.mod_eq_of_lt (by have := hl b; rwa [Nat.mul_comm w 32] at this)]
  · rw [e, Nat.mul_comm, Nat.mul_add_div (Nat.two_pow_pos _), Nat.div_eq_of_lt hl4, Nat.add_zero]

/-! Bytes of a register. -/

theorem leNat_byte (l : List Byte) (i : Nat) : leNat l / 2 ^ (8 * i) % 2 ^ 8 = (l.getD i 0).toNat := by
  induction l generalizing i with
  | nil => simp [leNat]
  | cons b l ih =>
    have hb := b.isLt
    cases i with
    | zero => simp only [leNat, Nat.mul_zero, Nat.pow_zero, Nat.div_one, List.getD_cons_zero]; omega
    | succ i =>
      rw [leNat, Nat.mul_succ, Nat.add_comm (8 * i) 8, Nat.pow_add, ← Nat.div_div_eq_div_mul, List.getD_cons_succ, ← ih]
      congr 2
      omega

theorem leNat_lt (l : List Byte) : leNat l < 2 ^ (8 * l.length) := by
  induction l with
  | nil => simp [leNat]
  | cons b l ih =>
    have hb := b.isLt
    rw [leNat, List.length_cons, Nat.mul_succ, Nat.pow_add]
    omega

/-- A byte of a register filled from a list of bytes; the bytes beyond the list are 0 (R78). -/
theorem lane_bytesVec {l : List Byte} (h : l.length ≤ 256) (i : Nat) : lane 8 (bytesVec l) i = l.getD i 0 := by
  have hl := leNat_lt l
  have h2 : 2 ^ (8 * l.length) ≤ 2 ^ 2048 := Nat.pow_le_pow_right (by omega) (by omega)
  apply BitVec.eq_of_toNat_eq
  rw [lane, bytesVec, BitVec.extractLsb'_toNat, BitVec.toNat_ofNat, Nat.mod_eq_of_lt (Nat.lt_of_lt_of_le hl h2), Nat.shiftRight_eq_div_pow, leNat_byte]

end Sys2Proof.Machine
end

