-- ==== Sys2Proof/Laws/Tables.lean ====
section
/-!
SUPPORT. Tables and sets in canonical form: what each operation answers for every key, and that it keeps the form.
-/

namespace Sys2Proof.Machine

variable {α : Type} [DecidableEq α]

/-! The canonical form as a property of all entries. -/

theorem tabWfFrom_iff (d : α) (lo : Nat) (m : List (Nat × α)) :
    tabWfFrom d lo m = true ↔ m.Pairwise (fun a b => a.1 < b.1) ∧ ∀ e ∈ m, lo ≤ e.1 ∧ e.2 ≠ d := by
  induction m generalizing lo with
  | nil => simp [tabWfFrom]
  | cons e m ih =>
    obtain ⟨a, b⟩ := e
    simp only [tabWfFrom, Bool.and_eq_true, decide_eq_true_eq, ih, List.pairwise_cons, List.mem_cons, forall_eq_or_imp]
    constructor
    · rintro ⟨⟨h1, h2⟩, h3, h4⟩
      exact ⟨⟨fun e he => (h4 e he).1, h3⟩, ⟨h1, h2⟩, fun e he => ⟨by have := (h4 e he).1; omega, (h4 e he).2⟩⟩
    · rintro ⟨⟨h1, h3⟩, ⟨h2, h4⟩, h5⟩
      exact ⟨⟨h2, h4⟩, h3, fun e he => ⟨h1 e he, (h5 e he).2⟩⟩

theorem tabWf_iff (d : α) (m : List (Nat × α)) :
    tabWf d m = true ↔ m.Pairwise (fun a b => a.1 < b.1) ∧ ∀ e ∈ m, e.2 ≠ d := by
  simp [tabWf, tabWfFrom_iff]

omit [DecidableEq α] in
/-- An unlisted key reads as the default. -/
theorem tabGet_none (d : α) {m : List (Nat × α)} {k : Nat} (h : ∀ e ∈ m, e.1 ≠ k) : tabGet d m k = d := by
  induction m with
  | nil => rfl
  | cons e m ih =>
    obtain ⟨a, b⟩ := e
    have ha : k ≠ a := fun hk => h (a, b) (List.mem_cons_self ..) hk.symm
    simp only [tabGet, ha, if_false, ih fun e he => h e (List.mem_cons_of_mem _ he), ite_self]

omit [DecidableEq α] in
/-- A listed key reads as its value. -/
theorem tabGet_mem (d : α) {m : List (Nat × α)} (hm : m.Pairwise (fun a b => a.1 < b.1)) {k : Nat} {v : α} (h : (k, v) ∈ m) :
    tabGet d m k = v := by
  induction m with
  | nil => cases h
  | cons e m ih =>
    obtain ⟨a, b⟩ := e
    rw [List.pairwise_cons] at hm
    rcases List.mem_cons.mp h with h | h
    · cases h; simp [tabGet]
    · have hlt : a < k := hm.1 _ h
      simp only [tabGet, show k ≠ a by omega, if_false, show ¬ k < a by omega]
      exact ih hm.2 h

omit [DecidableEq α] in
/-- A table reads at a key what the entries of that key read: lists that agree there read alike. -/
theorem tabGet_congr (d : α) {m n : List (Nat × α)} (hm : m.Pairwise (fun a b => a.1 < b.1))
    (hn : n.Pairwise (fun a b => a.1 < b.1)) {k : Nat} (h : ∀ v, (k, v) ∈ m ↔ (k, v) ∈ n) : tabGet d m k = tabGet d n k := by
  by_cases hk : ∃ v, (k, v) ∈ m
  · obtain ⟨v, hv⟩ := hk
    rw [tabGet_mem d hm hv, tabGet_mem d hn ((h v).mp hv)]
  · rw [tabGet_none d fun e he hek => hk ⟨e.2, by rw [← hek]; exact he⟩,
      tabGet_none d fun e he hek => hk ⟨e.2, (h e.2).mpr (by rw [← hek]; exact he)⟩]

/-! Runs of values. -/

theorem tabEntries_mem (d : α) (k : Nat) (vs : List α) (e : Nat × α) :
    e ∈ tabEntries d k vs ↔ e.2 ≠ d ∧ k ≤ e.1 ∧ vs[e.1 - k]? = some e.2 := by
  induction vs generalizing k with
  | nil => simp [tabEntries]
  | cons v vs ih =>
    have key : (e.2 ≠ d ∧ k ≤ e.1 ∧ (v :: vs)[e.1 - k]? = some e.2) ↔
        (e.1 = k ∧ e.2 = v ∧ v ≠ d) ∨ (e.2 ≠ d ∧ k + 1 ≤ e.1 ∧ vs[e.1 - (k + 1)]? = some e.2) := by
      rcases Nat.lt_trichotomy e.1 k with h | h | h
      · constructor
        · rintro ⟨_, h2, _⟩; omega
        · rintro (⟨h2, _⟩ | ⟨_, h2, _⟩) <;> omega
      · subst h
        simp only [Nat.sub_self, List.getElem?_cons_zero, Option.some.injEq, le_refl, true_and]
        constructor
        · rintro ⟨h1, h2⟩; exact Or.inl ⟨h2.symm, h2 ▸ h1⟩
        · rintro (⟨h1, h2⟩ | ⟨_, h2, _⟩)
          · exact ⟨h1 ▸ h2, h1.symm⟩
          · omega
      · rw [show e.1 - k = (e.1 - (k + 1)) + 1 by omega, List.getElem?_cons_succ]
        constructor
        · rintro ⟨h1, _, h3⟩; exact Or.inr ⟨h1, by omega, h3⟩
        · rintro (⟨h2, _⟩ | ⟨h1, _, h3⟩)
          · omega
          · exact ⟨h1, by omega, h3⟩
    rw [key]
    by_cases hv : v = d
    · simp only [tabEntries, hv, if_true, ih]
      simp
    · simp only [tabEntries, hv, if_false, List.mem_cons, ih]
      constructor
      · rintro (h | h)
        · exact Or.inl ⟨by rw [h], by rw [h], hv⟩
        · exact Or.inr h
      · rintro (⟨h1, h2, _⟩ | h)
        · exact Or.inl (Prod.ext h1 h2)
        · exact Or.inr h

theorem tabEntries_sorted (d : α) (k : Nat) (vs : List α) : (tabEntries d k vs).Pairwise (fun a b => a.1 < b.1) := by
  induction vs generalizing k with
  | nil => exact List.Pairwise.nil
  | cons v vs ih =>
    by_cases hv : v = d
    · simpa [tabEntries, hv] using ih (k + 1)
    · simp only [tabEntries, hv, if_false, List.pairwise_cons]
      exact ⟨fun e he => by have := (tabEntries_mem d (k + 1) vs e).mp he; omega, ih (k + 1)⟩

theorem tabPut_mem (d : α) (m : List (Nat × α)) (k : Nat) (vs : List α) (e : Nat × α) :
    e ∈ tabPut d m k vs ↔
      (e ∈ m ∧ (e.1 < k ∨ k + vs.length ≤ e.1)) ∨ (e.2 ≠ d ∧ k ≤ e.1 ∧ vs[e.1 - k]? = some e.2) := by
  simp only [tabPut, List.mem_append, List.mem_filter, decide_eq_true_eq, tabEntries_mem]
  tauto

/-- A run of writes keeps the canonical form. -/
theorem tabPut_wf (d : α) {m : List (Nat × α)} (h : tabWf d m = true) (k : Nat) (vs : List α) : tabWf d (tabPut d m k vs) = true := by
  rw [tabWf_iff] at h ⊢
  refine ⟨?_, fun e he => ?_⟩
  · have hidx (e : Nat × α) (he : e ∈ tabEntries d k vs) : k ≤ e.1 ∧ e.1 < k + vs.length := by
      obtain ⟨_, h2, h3⟩ := (tabEntries_mem d k vs e).mp he
      have := (List.getElem?_eq_some_iff.mp h3).1
      omega
    simp only [tabPut, List.pairwise_append, List.mem_append, List.mem_filter, decide_eq_true_eq]
    refine ⟨⟨h.1.filter _, tabEntries_sorted d k vs, fun a ha b hb => ?_⟩, h.1.filter _, fun a ha b hb => ?_⟩
    · have := hidx b hb; omega
    · rcases ha with ha | ha
      · omega
      · have := hidx a ha; omega
  · rcases (tabPut_mem d m k vs e).mp he with he | he
    · exact h.2 e he.1
    · exact he.1

/-- Reading after a run of writes: the written values in the run, the old ones elsewhere. -/
theorem tabGet_tabPut (d : α) {m : List (Nat × α)} (h : tabWf d m = true) (k : Nat) (vs : List α) (j : Nat) :
    tabGet d (tabPut d m k vs) j = if k ≤ j ∧ j < k + vs.length then vs.getD (j - k) d else tabGet d m j := by
  have hp := ((tabWf_iff d _).mp (tabPut_wf d h k vs)).1
  have hm := ((tabWf_iff d m).mp h).1
  split
  · rename_i hj
    have hlt : j - k < vs.length := by omega
    have hv : vs[j - k]? = some vs[j - k] := List.getElem?_eq_getElem hlt
    have hD : vs.getD (j - k) d = vs[j - k] := by simp [List.getD, hv]
    rw [hD]
    by_cases hd : vs[j - k] = d
    · rw [hd]
      refine tabGet_none d fun e he hek => ?_
      rcases (tabPut_mem d m k vs e).mp he with he | ⟨h1, _, h3⟩
      · omega
      · rw [hek, hv] at h3
        exact h1 (by rw [← hd]; exact (Option.some.inj h3).symm)
    · exact tabGet_mem d hp ((tabPut_mem d m k vs _).mpr (Or.inr ⟨hd, hj.1, hv⟩))
  · rename_i hj
    refine tabGet_congr d hp hm fun v => ?_
    rw [tabPut_mem]
    constructor
    · rintro (h | ⟨_, h2, h3⟩)
      · exact h.1
      · have := (List.getElem?_eq_some_iff.mp h3).1
        simp only at this h2
        omega
    · intro h
      exact Or.inl ⟨h, by simp only; omega⟩

/-! One key. -/

theorem tabSet_from (d : α) {m : List (Nat × α)} {lo : Nat} (h : tabWfFrom d lo m = true) {k : Nat} (hk : lo ≤ k) (v : α) :
    tabWfFrom d lo (tabSet d m k v) = true := by
  induction m generalizing lo with
  | nil => by_cases hv : v = d <;> simp [tabSet, tabWfFrom, hv, hk]
  | cons e m ih =>
    obtain ⟨a, b⟩ := e
    simp only [tabWfFrom, Bool.and_eq_true, decide_eq_true_eq] at h
    obtain ⟨⟨h1, h2⟩, h3⟩ := h
    have up : tabWfFrom d lo m = true := by
      rw [tabWfFrom_iff] at h3 ⊢
      exact ⟨h3.1, fun e he => ⟨by have := (h3.2 e he).1; omega, (h3.2 e he).2⟩⟩
    simp only [tabSet]
    split
    · rename_i hlt
      split
      · simp [tabWfFrom, h1, h2, h3]
      · rename_i hv; simp [tabWfFrom, hk, hv, h2, h3]; omega
    · split
      · rename_i heq
        subst heq
        split
        · exact up
        · rename_i hv; simp [tabWfFrom, hk, hv, h3]
      · simp only [tabWfFrom, Bool.and_eq_true, decide_eq_true_eq]
        exact ⟨⟨h1, h2⟩, ih h3 (by omega)⟩

/-- Setting a key keeps the canonical form. -/
theorem tabSet_wf (d : α) {m : List (Nat × α)} (h : tabWf d m = true) (k : Nat) (v : α) : tabWf d (tabSet d m k v) = true :=
  tabSet_from d h (Nat.zero_le k) v

theorem tabGet_tabSet_from (d : α) {m : List (Nat × α)} {lo : Nat} (h : tabWfFrom d lo m = true) (k j : Nat) (v : α) :
    tabGet d (tabSet d m k v) j = if j = k then v else tabGet d m j := by
  induction m generalizing lo with
  | nil =>
    by_cases hv : v = d
    · subst hv; simp [tabSet, tabGet]
    · simp [tabSet, tabGet, hv]
  | cons e m ih =>
    obtain ⟨a, b⟩ := e
    simp only [tabWfFrom, Bool.and_eq_true, decide_eq_true_eq] at h
    have hm : ∀ e ∈ m, a < e.1 := fun e he => by
      have := (((tabWfFrom_iff d (a + 1) m).mp h.2).2 e he).1; omega
    have small {i : Nat} (hi : i ≤ a) : tabGet d m i = d := tabGet_none d fun e he hek => by have := hm e he; omega
    simp only [tabSet]
    split
    · rename_i hlt
      split
      · rename_i hv
        by_cases hj : j = k
        · simp [tabGet, hj, hv, show k ≠ a by omega, hlt]
        · simp [hj]
      · by_cases hj : j = k
        · simp [tabGet, hj]
        · by_cases hj2 : j < k
          · simp [tabGet, hj, hj2, show j ≠ a by omega, show j < a by omega]
          · simp [tabGet, hj, hj2]
    · split
      · rename_i heq
        subst heq
        split
        · rename_i hv
          by_cases hj : j = k
          · subst hj; simp [small (le_refl _), hv]
          · by_cases hj2 : j < k
            · simp [tabGet, hj, hj2, small (Nat.le_of_lt hj2)]
            · simp [tabGet, hj, hj2]
        · by_cases hj : j = k
          · simp [tabGet, hj]
          · simp [tabGet, hj]
      · rename_i h1 h2
        by_cases hj : j = a
        · subst hj; simp [tabGet, Ne.symm h2]
        · by_cases hj2 : j < a
          · simp [tabGet, hj, hj2, show j ≠ k by omega]
          · simp [tabGet, hj, hj2, ih h.2]

/-- Reading after setting one key. -/
theorem tabGet_tabSet (d : α) {m : List (Nat × α)} (h : tabWf d m = true) (k j : Nat) (v : α) :
    tabGet d (tabSet d m k v) j = if j = k then v else tabGet d m j := tabGet_tabSet_from d h k j v

/-- A filter keeps the canonical form. -/
theorem tabWf_filter (d : α) {m : List (Nat × α)} (h : tabWf d m = true) (f : Nat × α → Bool) : tabWf d (m.filter f) = true := by
  rw [tabWf_iff] at h ⊢
  exact ⟨h.1.filter _, fun e he => h.2 e (List.mem_filter.mp he).1⟩

omit [DecidableEq α] in
/-- What a run's neighbourhood reads inside the run. -/
theorem tabGet_tabNear (d : α) {m : List (Nat × α)} (hm : m.Pairwise (fun a b => a.1 < b.1)) {k n j : Nat}
    (hj : k ≤ j ∧ j < k + n) : tabGet d (tabNear m k n) j = tabGet d m j := by
  refine tabGet_congr d (hm.filter _) hm fun v => ?_
  simp only [List.mem_filter, decide_eq_true_eq]
  tauto

/-! Sets. -/

theorem setWfFrom_iff (lo : Nat) (m : List Nat) : setWfFrom lo m = true ↔ m.Pairwise (· < ·) ∧ ∀ a ∈ m, lo ≤ a := by
  induction m generalizing lo with
  | nil => simp [setWfFrom]
  | cons a m ih =>
    simp only [setWfFrom, Bool.and_eq_true, decide_eq_true_eq, ih, List.pairwise_cons, List.mem_cons, forall_eq_or_imp]
    constructor
    · rintro ⟨h1, h2, h3⟩
      exact ⟨⟨fun b hb => h3 b hb, h2⟩, h1, fun b hb => by have := h3 b hb; omega⟩
    · rintro ⟨⟨h1, h2⟩, h3, _⟩
      exact ⟨h3, h2, fun b hb => h1 b hb⟩

theorem setWf_iff (m : List Nat) : setWf m = true ↔ m.Pairwise (· < ·) := by
  simp [setWf, setWfFrom_iff]

theorem setHas_iff {m : List Nat} (h : m.Pairwise (· < ·)) (k : Nat) : setHas m k = true ↔ k ∈ m := by
  induction m with
  | nil => simp [setHas]
  | cons a m ih =>
    rw [List.pairwise_cons] at h
    simp only [setHas, List.mem_cons]
    split
    · rename_i hk; simp [hk]
    · rename_i hk
      split
      · rename_i hlt
        constructor
        · simp
        · rintro (h1 | h1)
          · exact absurd h1 hk
          · have := h.1 k h1; omega
      · rw [ih h.2]; simp [hk]

theorem setAdd_mem (m : List Nat) (k j : Nat) : j ∈ setAdd m k ↔ j = k ∨ j ∈ m := by
  induction m with
  | nil => simp [setAdd]
  | cons a m ih =>
    simp only [setAdd]
    split
    · simp
    · split
      · rename_i h; subst h; simp
      · simp only [List.mem_cons, ih]; tauto

theorem setAdd_sorted {m : List Nat} (h : m.Pairwise (· < ·)) (k : Nat) : (setAdd m k).Pairwise (· < ·) := by
  induction m with
  | nil => simp [setAdd]
  | cons a m ih =>
    have h' := List.pairwise_cons.mp h
    simp only [setAdd]
    split
    · rename_i hlt
      refine List.pairwise_cons.mpr ⟨fun b hb => ?_, h⟩
      rcases List.mem_cons.mp hb with rfl | hb
      · exact hlt
      · have := h'.1 b hb; omega
    · split
      · exact h
      · refine List.pairwise_cons.mpr ⟨fun b hb => ?_, ih h'.2⟩
        rcases (setAdd_mem m k b).mp hb with rfl | hb
        · omega
        · exact h'.1 b hb

theorem setDel_sub (m : List Nat) (k j : Nat) (h : j ∈ setDel m k) : j ∈ m := by
  induction m with
  | nil => cases h
  | cons a m ih =>
    simp only [setDel] at h
    split at h
    · exact h
    · split at h
      · exact List.mem_cons_of_mem _ h
      · rcases List.mem_cons.mp h with rfl | h
        · exact List.mem_cons_self ..
        · exact List.mem_cons_of_mem _ (ih h)

theorem setDel_sorted {m : List Nat} (h : m.Pairwise (· < ·)) (k : Nat) : (setDel m k).Pairwise (· < ·) := by
  induction m with
  | nil => exact List.Pairwise.nil
  | cons a m ih =>
    have h' := List.pairwise_cons.mp h
    simp only [setDel]
    split
    · exact h
    · split
      · exact h'.2
      · exact List.pairwise_cons.mpr ⟨fun b hb => h'.1 b (setDel_sub m k b hb), ih h'.2⟩

theorem setDel_mem {m : List Nat} (h : m.Pairwise (· < ·)) (k j : Nat) : j ∈ setDel m k ↔ j ∈ m ∧ j ≠ k := by
  induction m with
  | nil => simp [setDel]
  | cons a m ih =>
    have h' := List.pairwise_cons.mp h
    simp only [setDel]
    split
    · rename_i hlt
      constructor
      · intro hj
        refine ⟨hj, ?_⟩
        rcases List.mem_cons.mp hj with rfl | hj
        · omega
        · have := h'.1 j hj; omega
      · exact fun hj => hj.1
    · split
      · rename_i heq
        subst heq
        constructor
        · intro hj; have := h'.1 j hj; exact ⟨List.mem_cons_of_mem _ hj, by omega⟩
        · rintro ⟨hj, hne⟩
          rcases List.mem_cons.mp hj with rfl | hj
          · exact absurd rfl hne
          · exact hj
      · simp only [List.mem_cons, ih h'.2]
        constructor
        · rintro (rfl | h)
          · exact ⟨Or.inl rfl, by omega⟩
          · exact ⟨Or.inr h.1, h.2⟩
        · rintro ⟨h1 | h1, h2⟩
          · exact Or.inl h1
          · exact Or.inr ⟨h1, h2⟩

/-- Adding one element keeps the canonical form. -/
theorem setAdd_wf {m : List Nat} (h : setWf m = true) (k : Nat) : setWf (setAdd m k) = true :=
  (setWf_iff _).mpr (setAdd_sorted ((setWf_iff m).mp h) k)

/-- Removing one element keeps the canonical form. -/
theorem setDel_wf {m : List Nat} (h : setWf m = true) (k : Nat) : setWf (setDel m k) = true :=
  (setWf_iff _).mpr (setDel_sorted ((setWf_iff m).mp h) k)

/-- Membership after adding one element. -/
theorem setHas_setAdd {m : List Nat} (h : setWf m = true) (k j : Nat) : setHas (setAdd m k) j = (decide (j = k) || setHas m j) := by
  have h' := (setWf_iff m).mp h
  rw [Bool.eq_iff_iff, setHas_iff (setAdd_sorted h' k), setAdd_mem, Bool.or_eq_true, decide_eq_true_eq, setHas_iff h']

/-- Membership after removing one element. -/
theorem setHas_setDel {m : List Nat} (h : setWf m = true) (k j : Nat) : setHas (setDel m k) j = (decide (j ≠ k) && setHas m j) := by
  have h' := (setWf_iff m).mp h
  rw [Bool.eq_iff_iff, setHas_iff (setDel_sorted h' k), setDel_mem h', Bool.and_eq_true, decide_eq_true_eq, setHas_iff h', and_comm]

theorem setAddRun_mem (m : List Nat) (k n j : Nat) :
    j ∈ setAddRun m k n ↔ (k ≤ j ∧ j < k + n) ∨ j ∈ m := by
  simp only [setAddRun, List.mem_append, List.mem_filter, List.mem_map, List.mem_range, decide_eq_true_eq]
  constructor
  · rintro ((h | ⟨i, hi, rfl⟩) | h)
    · exact Or.inr h.1
    · exact Or.inl (by omega)
    · exact Or.inr h.1
  · rintro (h | h)
    · exact Or.inl (Or.inr ⟨j - k, by omega, by omega⟩)
    · by_cases h1 : j < k
      · exact Or.inl (Or.inl ⟨h, h1⟩)
      · by_cases h2 : k + n ≤ j
        · exact Or.inr ⟨h, h2⟩
        · exact Or.inl (Or.inr ⟨j - k, by omega, by omega⟩)

/-- Adding a run keeps the canonical form. -/
theorem setAddRun_wf {m : List Nat} (h : setWf m = true) (k n : Nat) : setWf (setAddRun m k n) = true := by
  have h' := (setWf_iff m).mp h
  refine (setWf_iff _).mpr ?_
  have hr : ((List.range n).map (k + ·)).Pairwise (· < ·) :=
    List.Pairwise.map _ (fun a b hab => by simpa using hab) List.pairwise_lt_range
  simp only [setAddRun, List.pairwise_append, List.mem_append, List.mem_filter, List.mem_map, List.mem_range, decide_eq_true_eq]
  refine ⟨⟨h'.filter _, hr, ?_⟩, h'.filter _, ?_⟩
  · rintro a ⟨_, ha⟩ b ⟨i, _, rfl⟩; omega
  · rintro a (⟨_, ha⟩ | ⟨i, hi, rfl⟩) b ⟨_, hb⟩ <;> omega

/-- Membership after adding a run. -/
theorem setHas_setAddRun {m : List Nat} (h : setWf m = true) (k n j : Nat) :
    setHas (setAddRun m k n) j = (decide (k ≤ j ∧ j < k + n) || setHas m j) := by
  rw [Bool.eq_iff_iff, setHas_iff ((setWf_iff _).mp (setAddRun_wf h k n)), setAddRun_mem, Bool.or_eq_true, decide_eq_true_eq,
    setHas_iff ((setWf_iff m).mp h)]

/-- A filter keeps the canonical form. -/
theorem setWf_filter {m : List Nat} (h : setWf m = true) (f : Nat → Bool) : setWf (m.filter f) = true :=
  (setWf_iff _).mpr (((setWf_iff m).mp h).filter _)

/-- Removing a run keeps the canonical form. -/
theorem setDelRun_wf {m : List Nat} (h : setWf m = true) (k n : Nat) : setWf (setDelRun m k n) = true := setWf_filter h _

/-- Membership after removing a run. -/
theorem setHas_setDelRun {m : List Nat} (h : setWf m = true) (k n j : Nat) :
    setHas (setDelRun m k n) j = (!decide (k ≤ j ∧ j < k + n) && setHas m j) := by
  rw [Bool.eq_iff_iff, setHas_iff ((setWf_iff _).mp (setDelRun_wf h k n)), Bool.and_eq_true, setHas_iff ((setWf_iff m).mp h)]
  simp only [setDelRun, List.mem_filter]
  tauto

end Sys2Proof.Machine
end

