-- ==== Sys2Proof/Laws/Memory.lean ====
section
/-!
SUPPORT. Every memory operation keeps its memory in canonical form: scratchpads (R69 to R75), memories with codewords (R322,
R349), byte memories; and the device at power-good has it.
-/

namespace Sys2Proof.Machine

/-- A fold keeps what each of its steps keeps. -/
theorem foldl_keeps {α β : Type} (P : β → Prop) (f : β → α → β) (hf : ∀ b a, P b → P (f b a)) (l : List α) {b : β} (h : P b) :
    P (l.foldl f b) := by
  induction l generalizing b with
  | nil => exact h
  | cons a l ih => exact ih (hf b a h)

/-! Scratchpads. -/

theorem Scratch.wf_iff (m : Scratch) : m.wf = true ↔
    tabWf 0xFF m.data = true ∧ setWf m.pres = true ∧ setWf m.pois = true ∧ setWf m.flips = true ∧
      (∀ e ∈ m.data, setHas m.pres (e.1 / 2) = true) ∧ setWf m.told = true := by
  simp only [Scratch.wf, Bool.and_eq_true, List.all_eq_true, and_assoc]
  exact ⟨fun ⟨a, b, c, d, e, f⟩ => ⟨a, b, c, d, f, e⟩, fun ⟨a, b, c, d, f, e⟩ => ⟨a, b, c, d, e, f⟩⟩

theorem Scratch.blank_wf : Scratch.blank.wf = true := rfl

/-- A byte that is not fill lies in a present halfword. -/
theorem Scratch.load_vacant {m : Scratch} {off : Nat} (h : m.has off = false) : m.load off = 0xFF := by
  simp [Scratch.load, h]

theorem Scratch.poison_wf {m : Scratch} (h : m.wf = true) (sec : Nat) : (m.poison sec).wf = true := by
  rw [Scratch.wf_iff] at h ⊢
  exact ⟨h.1, h.2.1, setAdd_wf h.2.2.1 sec, h.2.2.2⟩

theorem Scratch.mark_wf {m : Scratch} (h : m.wf = true) (sec : Nat) : (m.mark sec).wf = true := by
  rw [Scratch.wf_iff] at h ⊢
  exact ⟨h.1, h.2.1, setAdd_wf h.2.2.1 sec, h.2.2.2.1, h.2.2.2.2.1, setAdd_wf h.2.2.2.2.2 sec⟩

theorem Scratch.unpoison_wf {m : Scratch} (h : m.wf = true) (sec : Nat) : (m.unpoison sec).wf = true := by
  unfold Scratch.unpoison
  split
  · rw [Scratch.wf_iff] at h ⊢
    exact ⟨h.1, h.2.1, setDel_wf h.2.2.1 sec, setWf_filter h.2.2.2.1 _, h.2.2.2.2.1, setDel_wf h.2.2.2.2.2 sec⟩
  · exact h

theorem Scratch.correct_wf {m : Scratch} (h : m.wf = true) (off len : Nat) : (m.correct off len).wf = true := by
  unfold Scratch.correct
  split
  · exact h
  · rw [Scratch.wf_iff] at h ⊢
    exact ⟨h.1, h.2.1, h.2.2.1, setWf_filter h.2.2.2.1 _, h.2.2.2.2⟩

@[simp] theorem Scratch.settleWord_pres (m : Scratch) (off len w : Nat) : (m.settleWord off len w).pres = m.pres := rfl

theorem Scratch.settleWord_wf {m : Scratch} (h : m.wf = true) (off len w : Nat) : (m.settleWord off len w).wf = true := by
  rw [Scratch.wf_iff] at h ⊢
  obtain ⟨h1, h2, h3, h4, h5, h6⟩ := h
  have hd : tabWf 0xFF (m.settleWord off len w).data = true ∧
      ∀ e ∈ (m.settleWord off len w).data, setHas m.pres (e.1 / 2) = true := by
    simp only [Scratch.settleWord]
    split
    · exact ⟨h1, h5⟩
    · split
      · refine ⟨tabPut_wf _ h1 _ _, fun e he => ?_⟩
        rcases (tabPut_mem _ _ _ _ e).mp he with he | ⟨hne, hle, hget⟩
        · exact h5 e he.1
        · obtain ⟨hlt, hv⟩ := List.getElem?_eq_some_iff.mp hget
          simp only [List.length_map, List.length_range] at hlt
          simp only [List.getElem_map, List.getElem_range] at hv
          rw [show 8 * w + (e.1 - 8 * w) = e.1 by omega] at hv
          by_contra hp
          exact hne (by rw [← hv]; exact Scratch.load_vacant (by simpa [Scratch.has] using hp))
      · exact ⟨h1, h5⟩
  exact ⟨hd.1, h2, h3, setWf_filter h4 _, hd.2, h6⟩

@[simp] theorem Scratch.settle_pres (m : Scratch) (off len : Nat) : (m.settle off len).pres = m.pres := by
  unfold Scratch.settle
  split
  · rfl
  · exact foldl_keeps (fun (a : Scratch) => a.pres = m.pres) _ (fun a w ha => by simpa using ha) _ rfl

theorem Scratch.settle_wf {m : Scratch} (h : m.wf = true) (off len : Nat) : (m.settle off len).wf = true := by
  unfold Scratch.settle
  split
  · exact h
  · exact foldl_keeps (fun (a : Scratch) => a.wf = true) _ (fun a w ha => Scratch.settleWord_wf ha off len w) _ h

theorem Scratch.put_wf {m : Scratch} (h : m.wf = true) (off : Nat) (bs : List Byte) : (m.put off bs).wf = true := by
  unfold Scratch.put
  split
  · exact h
  · rename_i hne
    have hlen : 0 < bs.length := by
      cases bs with
      | nil => simp at hne
      | cons => simp
    have ha := Scratch.settle_wf h off bs.length
    rw [Scratch.wf_iff] at ha ⊢
    obtain ⟨h1, h2, h3, h4, h5, h6⟩ := ha
    refine ⟨tabPut_wf _ h1 _ _, setAddRun_wf h2 _ _, h3, h4, fun e he => ?_, h6⟩
    rw [setHas_setAddRun h2]
    rcases (tabPut_mem _ _ _ _ e).mp he with he | ⟨_, hle, hget⟩
    · rw [h5 e he.1, Bool.or_true]
    · obtain ⟨hlt, _⟩ := List.getElem?_eq_some_iff.mp hget
      have : decide (off / 2 ≤ e.1 / 2 ∧ e.1 / 2 < off / 2 + ((off + bs.length - 1) / 2 - off / 2 + 1)) = true := by
        rw [decide_eq_true_eq]; omega
      rw [this]; rfl

/-- A vacate of whole halfwords keeps the form. -/
theorem Scratch.vacate_wf {m : Scratch} (h : m.wf = true) {off len : Nat} (ho : off % 2 = 0) (hl : len % 2 = 0) :
    (m.vacate off len).wf = true := by
  unfold Scratch.vacate
  split
  · exact h
  · have ha := Scratch.settle_wf h off len
    rw [Scratch.wf_iff] at ha ⊢
    obtain ⟨h1, h2, h3, h4, h5, h6⟩ := ha
    refine ⟨tabPut_wf _ h1 _ _, setDelRun_wf h2 _ _, h3, h4, fun e he => ?_, h6⟩
    rw [setHas_setDelRun h2]
    rcases (tabPut_mem _ _ _ _ e).mp he with ⟨hm, hout⟩ | ⟨hne, _, hget⟩
    · simp only [List.length_replicate] at hout
      have : decide (off / 2 ≤ e.1 / 2 ∧ e.1 / 2 < off / 2 + len / 2) = false := by
        rw [decide_eq_false_iff_not]; omega
      rw [this, h5 e hm]; rfl
    · obtain ⟨hlt, hv⟩ := List.getElem?_eq_some_iff.mp hget
      simp at hv
      exact absurd hv.symm hne

theorem Scratch.vac_wf {m : Scratch} (h : m.wf = true) {off len : Nat} (ho : off % 2 = 0) (hl : len % 2 = 0) :
    (m.vac off len).wf = true :=
  foldl_keeps (fun (a : Scratch) => a.wf = true) _ (fun _ sec ha => Scratch.unpoison_wf ha sec) _ (Scratch.vacate_wf h ho hl)

theorem Scratch.vacateHalves_wf {m : Scratch} (h : m.wf = true) (off len : Nat) : (m.vacateHalves off len).wf = true :=
  Scratch.vacate_wf h (by omega) (by omega)

theorem Scratch.poisons_wf {m : Scratch} (h : m.wf = true) (secs : List Nat) :
    (secs.foldl (fun (a : Scratch) sec => a.poison sec) m).wf = true :=
  foldl_keeps (fun (a : Scratch) => a.wf = true) _ (fun _ sec ha => Scratch.poison_wf ha sec) _ h

theorem Scratch.puts_wf {m : Scratch} (h : m.wf = true) (l : List (Nat × List Byte)) :
    (l.foldl (fun (a : Scratch) (b : Nat × List Byte) => a.put b.1 b.2) m).wf = true :=
  foldl_keeps (fun (a : Scratch) => a.wf = true) _ (fun _ b ha => Scratch.put_wf ha b.1 b.2) _ h

/-- A filter by a property of halfwords keeps the form. -/
theorem Scratch.filter_wf {m : Scratch} (h : m.wf = true) (p : Nat → Bool) (fo fl : Nat → Bool) :
    Scratch.wf { data := m.data.filter fun c => p (c.1 / 2), pres := m.pres.filter p, pois := m.pois.filter fo,
                 flips := m.flips.filter fl, told := m.told.filter fo } = true := by
  rw [Scratch.wf_iff] at h ⊢
  obtain ⟨h1, h2, h3, h4, h5, h6⟩ := h
  refine ⟨tabWf_filter _ h1 _, setWf_filter h2 _, setWf_filter h3 _, setWf_filter h4 _, fun e he => ?_, setWf_filter h6 _⟩
  obtain ⟨he, hp⟩ := List.mem_filter.mp he
  rw [setHas_iff (((setWf_iff _).mp h2).filter _), List.mem_filter]
  exact ⟨(setHas_iff ((setWf_iff _).mp h2) _).mp (h5 e he), hp⟩

theorem Scratch.clearSeg_wf {m : Scratch} (h : m.wf = true) (seg : Nat) : (m.clearSeg seg).wf = true := by
  have := Scratch.filter_wf h (fun x => x / 0x20000 != seg) (fun p => p / 0x2000 != seg) (fun f => f / 77 / 0x8000 != seg)
  simpa only [Scratch.clearSeg, Nat.div_div_eq_div_mul, show 2 * 0x20000 = 0x40000 by decide] using this

theorem Scratch.segPart_wf {m : Scratch} (h : m.wf = true) (seg : Nat) : (m.segPart seg).wf = true := by
  have := Scratch.filter_wf h (fun x => x / 0x20000 == seg) (fun p => p / 0x2000 == seg) (fun f => f / 77 / 0x8000 == seg)
  simpa only [Scratch.segPart, Nat.div_div_eq_div_mul, show 2 * 0x20000 = 0x40000 by decide] using this

/-- A part spliced in where a table has nothing. -/
theorem spliceTab_wf {α : Type} [DecidableEq α] (d : α) {m n : List (Nat × α)} (hm : tabWf d m = true) (hn : tabWf d n = true)
    {lo hi : Nat} (hin : ∀ e ∈ n, lo ≤ e.1 ∧ e.1 < hi) (hout : ∀ e ∈ m, e.1 < lo ∨ hi ≤ e.1) :
    tabWf d (spliceTab m n lo) = true := by
  rw [tabWf_iff] at hm hn ⊢
  simp only [spliceTab, List.pairwise_append, List.mem_append, List.mem_filter, decide_eq_true_eq, Bool.not_eq_true',
    decide_eq_false_iff_not]
  refine ⟨⟨⟨hm.1.filter _, hn.1, fun a ha b hb => ?_⟩, hm.1.filter _, fun a ha b hb => ?_⟩, fun e he => ?_⟩
  · have := hin b hb; omega
  · have hb' := hout b hb.1
    rcases ha with ha | ha
    · omega
    · have := hin a ha; omega
  · rcases he with (he | he) | he
    · exact hm.2 e he.1
    · exact hn.2 e he
    · exact hm.2 e he.1

theorem spliceSet_wf {m n : List Nat} (hm : setWf m = true) (hn : setWf n = true) {lo hi : Nat}
    (hin : ∀ e ∈ n, lo ≤ e ∧ e < hi) (hout : ∀ e ∈ m, e < lo ∨ hi ≤ e) : setWf (spliceSet m n lo) = true := by
  rw [setWf_iff] at hm hn ⊢
  simp only [spliceSet, List.pairwise_append, List.mem_append, List.mem_filter, decide_eq_true_eq, Bool.not_eq_true',
    decide_eq_false_iff_not]
  refine ⟨⟨hm.filter _, hn, fun a ha b hb => ?_⟩, hm.filter _, fun a ha b hb => ?_⟩
  · have := hin b hb; omega
  · have hb' := hout b hb.1
    rcases ha with ha | ha
    · omega
    · have := hin a ha; omega

theorem spliceSet_mem {m n : List Nat} {lo j : Nat} : j ∈ spliceSet m n lo ↔ j ∈ m ∨ j ∈ n := by
  simp only [spliceSet, List.mem_append, List.mem_filter, decide_eq_true_eq, Bool.not_eq_true', decide_eq_false_iff_not]
  by_cases h : j < lo <;> tauto

/-- A segment's saved part comes back in canonical form. -/
theorem Scratch.restoreSeg_wf {m p : Scratch} (hm : m.wf = true) (hp : p.wf = true) (seg : Nat) :
    (m.restoreSeg (p.segPart seg) seg).wf = true := by
  have ha := Scratch.clearSeg_wf hm seg
  have hq := Scratch.segPart_wf hp seg
  rw [Scratch.wf_iff] at ha hq ⊢
  obtain ⟨a1, a2, a3, a4, a5, a6⟩ := ha
  obtain ⟨q1, q2, q3, q4, q5, q6⟩ := hq
  have part {k u n : Nat} (hu : 0 < u) (h : k / u = n) : n * u ≤ k ∧ k < (n + 1) * u := by
    rw [Nat.div_eq_iff hu] at h
    obtain ⟨h1, h2⟩ := h
    rw [Nat.add_mul, Nat.one_mul]
    omega
  have apart {k u n : Nat} (hu : 0 < u) (h : k / u ≠ n) : k < n * u ∨ (n + 1) * u ≤ k := by
    by_contra hc
    simp only [not_or, Nat.not_lt, Nat.not_le] at hc
    exact h ((Nat.div_eq_iff hu).mpr ⟨hc.1, by have := hc.2; rw [Nat.add_mul, Nat.one_mul] at this; omega⟩)
  have hpres : setWf (m.restoreSeg (p.segPart seg) seg).pres = true :=
    spliceSet_wf a2 q2 (hi := (seg + 1) * 0x20000)
      (fun e he => by simp only [Scratch.segPart, List.mem_filter, beq_iff_eq] at he; exact part (by decide) he.2)
      (fun e he => by simp only [Scratch.clearSeg, List.mem_filter, bne_iff_ne] at he; exact apart (by decide) he.2)
  refine ⟨?_, hpres, ?_, ?_, fun e he => ?_, ?_⟩
  · exact spliceTab_wf _ a1 q1 (hi := (seg + 1) * 0x40000)
      (fun e he => by simp only [Scratch.segPart, List.mem_filter, beq_iff_eq] at he; exact part (by decide) he.2)
      (fun e he => by simp only [Scratch.clearSeg, List.mem_filter, bne_iff_ne] at he; exact apart (by decide) he.2)
  · exact spliceSet_wf a3 q3 (hi := (seg + 1) * 0x2000)
      (fun e he => by simp only [Scratch.segPart, List.mem_filter, beq_iff_eq] at he; exact part (by decide) he.2)
      (fun e he => by simp only [Scratch.clearSeg, List.mem_filter, bne_iff_ne] at he; exact apart (by decide) he.2)
  · have hd (f : Nat) : f / 77 / 0x8000 = f / (0x8000 * 77) := by rw [Nat.div_div_eq_div_mul]
    refine spliceSet_wf a4 q4 (hi := (seg + 1) * (0x8000 * 77)) (fun e he => ?_) (fun e he => ?_)
    · simp only [Scratch.segPart, List.mem_filter, beq_iff_eq, hd] at he
      have := part (by decide) he.2
      omega
    · simp only [Scratch.clearSeg, List.mem_filter, bne_iff_ne, ne_eq, hd] at he
      have := apart (by decide) he.2
      omega
  · rw [setHas_iff ((setWf_iff _).mp hpres)]
    refine spliceSet_mem.mpr ?_
    simp only [Scratch.restoreSeg, spliceTab, List.mem_append, List.mem_filter] at he
    rcases he with (he | he) | he
    · exact Or.inl ((setHas_iff ((setWf_iff _).mp a2) _).mp (a5 e he.1))
    · exact Or.inr ((setHas_iff ((setWf_iff _).mp q2) _).mp (q5 e he))
    · exact Or.inl ((setHas_iff ((setWf_iff _).mp a2) _).mp (a5 e he.1))
  · exact spliceSet_wf a6 q6 (hi := (seg + 1) * 0x2000)
      (fun e he => by simp only [Scratch.segPart, List.mem_filter, beq_iff_eq] at he; exact part (by decide) he.2)
      (fun e he => by simp only [Scratch.clearSeg, List.mem_filter, bne_iff_ne] at he; exact apart (by decide) he.2)

/-- A section placed at an even address keeps the form. -/
theorem Scratch.place_wf {m : Scratch} (h : m.wf = true) (c : Sect) (he : c.dest % 2 = 0) : (m.place c).wf = true := by
  refine foldl_keeps (fun (a : Scratch) => a.wf = true) _ (fun a i ha => ?_) _ h
  split
  · exact Scratch.vacate_wf ha (by omega) (by omega)
  · exact Scratch.put_wf ha _ _

/-- A collective's result keeps the form, its bucket being at an even address. -/
theorem Scratch.publishColl_wf {m : Scratch} (h : m.wf = true) (c : CollCmd) (he : vwBase c.bucket % 2 = 0) :
    (m.publishColl c).wf = true := by
  have hs : c.size % 2 = 0 := by unfold CollCmd.size; split <;> rfl
  unfold Scratch.publishColl
  refine foldl_keeps (fun (a : Scratch) => a.wf = true) _ (fun a i ha => ?_) _ ?_
  · refine Scratch.vacate_wf ha ?_ ?_
    · simp [CollCmd.bytesOf, CollCmd.offset, Nat.add_mod, Nat.mul_mod, he, hs]
    · simp [CollCmd.bytesOf, Nat.mul_mod, hs]
  · refine foldl_keeps (fun (a : Scratch) => a.wf = true) _ (fun a i ha => ?_) _ h
    simp only
    refine foldl_keeps (fun (b : Scratch) => b.wf = true) _ (fun b j hb => Scratch.poison_wf hb _) _ (Scratch.put_wf ha _ _)

/-- An error that appears or is injected keeps the form. -/
theorem setFlip_wf {m : List Nat} (h : setWf m = true) (k : Nat) : setWf (setFlip m k) = true := by
  unfold setFlip
  split
  · exact setDel_wf h k
  · exact setAdd_wf h k

/-! Memories with codewords. -/

theorem DevMem.wf_iff (m : DevMem) : m.wf = true ↔
    tabWf 0xFF m.data = true ∧ setWf m.pres = true ∧ setWf m.pois = true ∧ setWf m.syms = true ∧ tabWf 0 m.keys = true ∧
      setWf m.silent = true ∧ setWf m.told = true := by
  simp [DevMem.wf, and_assoc]

theorem DevMem.blank_wf (unit : Nat) : (DevMem.blank unit).wf = true := rfl

theorem DevMem.poison_wf {m : DevMem} (h : m.wf = true) (sec : Nat) : (m.poison sec).wf = true := by
  rw [DevMem.wf_iff] at h ⊢
  exact ⟨h.1, h.2.1, setAdd_wf h.2.2.1 sec, h.2.2.2⟩

theorem DevMem.mark_wf {m : DevMem} (h : m.wf = true) (line : Nat) : (m.mark line).wf = true := by
  have g := DevMem.poison_wf (DevMem.poison_wf h (2 * line)) (2 * line + 1)
  rw [DevMem.wf_iff] at g ⊢
  obtain ⟨g1, g2, g3, g4, g5, -, -⟩ := g
  obtain ⟨-, -, -, -, -, h6, h7⟩ := (DevMem.wf_iff m).mp h
  exact ⟨g1, g2, g3, g4, g5, setDel_wf h6 line, setAdd_wf h7 line⟩

theorem DevMem.setSector_wf {m : DevMem} (h : m.wf = true) (er : Nat → List Nat) (key : BitVec 512) (sec : Nat) (this both : Bool)
    (c : Option (List Byte)) : (m.setSector er key sec this both c).wf = true := by
  have go (m2 : DevMem) (h2 : m2.wf = true) :
      (match c with
        | none => ({ m2 with data := tabPut 0xFF m2.data (32 * sec) (List.replicate 32 0xFF), pres := setDel m2.pres sec } : DevMem)
        | some bs => { m2 with data := tabPut 0xFF m2.data (32 * sec) bs, pres := setAdd m2.pres sec }).wf = true := by
    rw [DevMem.wf_iff] at h2
    obtain ⟨h1, h2, h3, h4⟩ := h2
    cases c with
    | none => exact (DevMem.wf_iff _).mpr ⟨tabPut_wf _ h1 _ _, setDel_wf h2 sec, h3, h4⟩
    | some bs => exact (DevMem.wf_iff _).mpr ⟨tabPut_wf _ h1 _ _, setAdd_wf h2 sec, h3, h4⟩
  have h1 : (if tabGet 0 m.keys (sec / 2) = key then m
      else { m with
        data := tabPut 0xFF m.data (32 * if sec % 2 = 0 then sec + 1 else sec - 1)
          (m.bytes key (32 * if sec % 2 = 0 then sec + 1 else sec - 1) 32)
        keys := tabSet 0 m.keys (sec / 2) key }).wf = true := by
    split
    · exact h
    · rw [DevMem.wf_iff] at h ⊢
      exact ⟨tabPut_wf _ h.1 _ _, h.2.1, h.2.2.1, h.2.2.2.1, tabSet_wf _ h.2.2.2.2.1 _ _, h.2.2.2.2.2⟩
  unfold DevMem.setSector
  refine go _ ?_
  generalize (if tabGet 0 m.keys (sec / 2) = key then m else _ : DevMem) = m1 at h1 ⊢
  split
  · exact h1
  · rw [DevMem.wf_iff] at h1 ⊢
    obtain ⟨a1, a2, a3, a4, a5, a6, a7⟩ := h1
    refine ⟨a1, a2, ?_, setWf_filter a4 _, a5, ?_, setDel_wf a7 _⟩
    · dsimp only; repeat' split
      all_goals first | exact a3 | exact setAdd_wf a3 _ | exact setAdd_wf (setAdd_wf a3 _) _
    · dsimp only; split
      · exact setAdd_wf a6 _
      · exact a6

theorem DevMem.write_wf {m : DevMem} (h : m.wf = true) (er : Nat → List Nat) (key : BitVec 512) (addr : Nat) (bs : List (Option Byte)) :
    (m.write er key addr bs).wf = true :=
  foldl_keeps (fun (a : DevMem) => a.wf = true) _ (fun _ _ ha => DevMem.setSector_wf ha _ _ _ _ _ _) _ h

theorem tabMove_wf {α : Type} [DecidableEq α] (d : α) {m old : List (Nat × α)} (h : tabWf d m = true) (g : tabWf d old = true)
    (src dst n : Nat) : tabWf d (tabMove m old src dst n) = true := by
  rw [tabWf_iff] at h g ⊢
  have hmv : ((old.filter fun e => decide (src ≤ e.1 ∧ e.1 < src + n)).map fun e => (e.1 - src + dst, e.2)).Pairwise
      (fun a b => a.1 < b.1) := by
    refine List.pairwise_map.mpr ((g.1.filter _).imp_of_mem fun {a b} ha hb hab => ?_)
    simp only [List.mem_filter, decide_eq_true_eq] at ha hb
    simp only
    omega
  simp only [tabMove, List.pairwise_append, List.mem_append, List.mem_filter, List.mem_map, decide_eq_true_eq]
  refine ⟨⟨⟨h.1.filter _, hmv, ?_⟩, h.1.filter _, ?_⟩, ?_⟩
  · rintro a ⟨_, ha⟩ b ⟨c, ⟨_, hc⟩, rfl⟩
    simp only; omega
  · rintro a (⟨_, ha⟩ | ⟨c, ⟨_, hc⟩, rfl⟩) b ⟨_, hb⟩
    · omega
    · simp only; omega
  · rintro e ((he | ⟨c, hc, rfl⟩) | he)
    · exact h.2 e he.1
    · exact g.2 c hc.1
    · exact h.2 e he.1

theorem setMove_wf {m old : List Nat} (h : setWf m = true) (g : setWf old = true) (src dst n : Nat) :
    setWf (setMove m old src dst n) = true := by
  rw [setWf_iff] at h g ⊢
  have hmv : ((old.filter fun e => decide (src ≤ e ∧ e < src + n)).map fun e => e - src + dst).Pairwise (· < ·) := by
    refine List.pairwise_map.mpr ((g.filter _).imp_of_mem fun {a b} ha hb hab => ?_)
    simp only [List.mem_filter, decide_eq_true_eq] at ha hb
    omega
  simp only [setMove, List.pairwise_append, List.mem_append, List.mem_filter, List.mem_map, decide_eq_true_eq]
  refine ⟨⟨h.filter _, hmv, ?_⟩, h.filter _, ?_⟩
  · rintro a ⟨_, ha⟩ b ⟨c, ⟨_, hc⟩, rfl⟩
    omega
  · rintro a (⟨_, ha⟩ | ⟨c, ⟨_, hc⟩, rfl⟩) b ⟨_, hb⟩ <;> omega

theorem DevMem.carry_wf {m old : DevMem} (h : m.wf = true) (g : old.wf = true) (src dst n : Nat) :
    (m.carry old src dst n).wf = true := by
  rw [DevMem.wf_iff] at h g ⊢
  obtain ⟨h1, h2, h3, h4, h5, h6, h7⟩ := h
  obtain ⟨g1, g2, g3, g4, g5, g6, g7⟩ := g
  exact ⟨tabMove_wf _ h1 g1 _ _ _, setMove_wf h2 g2 _ _ _, setMove_wf h3 g3 _ _ _, setMove_wf h4 g4 _ _ _,
    tabMove_wf _ h5 g5 _ _ _, setMove_wf h6 g6 _ _ _, setMove_wf h7 g7 _ _ _⟩

theorem DevMem.wipe_wf {m : DevMem} (h : m.wf = true) (a n : Nat) : (m.wipe a n).wf = true := by
  rw [DevMem.wf_iff] at h ⊢
  obtain ⟨h1, h2, h3, h4, h5, h6, h7⟩ := h
  exact ⟨tabWf_filter _ h1 _, setWf_filter h2 _, setWf_filter h3 _, setWf_filter h4 _, tabWf_filter _ h5 _, setWf_filter h6 _, setWf_filter h7 _⟩

theorem DevMem.settlePoison_wf {m : DevMem} (h : m.wf = true) (sec : Nat) (carried clears : Bool) :
    (m.settlePoison sec carried clears).wf = true := by
  unfold DevMem.settlePoison
  split
  · exact DevMem.poison_wf h sec
  · split
    · rw [DevMem.wf_iff] at h ⊢
      exact ⟨h.1, h.2.1, setDel_wf h.2.2.1 sec, h.2.2.2⟩
    · exact h

theorem Cmd.writeShadow_wf (c : Cmd) (er : Nat → List Nat) (key : BitVec 512) {m : DevMem} (h : m.wf = true) (a pa n : Nat) :
    (c.writeShadow er key m a pa n).wf = true :=
  foldl_keeps (fun (x : DevMem) => x.wf = true) _
    (fun _ _ hx => DevMem.settlePoison_wf (DevMem.setSector_wf hx _ _ _ _ _ _) _ _ _) _ h

/-! Byte memories. -/

theorem putBytes_wf {m : List Host.Cell} (h : tabWf 0 m = true) (off : Nat) (bs : List Byte) : tabWf 0 (putBytes m off bs) = true :=
  tabPut_wf 0 h off bs

theorem putDword_wf {m : List Host.Cell} (h : tabWf 0 m = true) (off : Nat) (v : W64) : tabWf 0 (putDword m off v) = true :=
  tabPut_wf 0 h off _

/-! The device. -/

/-- A core keeps the form when its memories do. -/
theorem Memory.wf_setCore {s : State} (h : Memory.wf s = true) (c : CoreRef) {k : Core} (hm : k.mem.wf = true)
    (hi : tabWf 0 k.imem = true) : Memory.wf (s.setCore c k) = true := by
  simp only [Memory.wf, State.setCore, Bool.and_eq_true, List.all_eq_true] at h ⊢
  obtain ⟨⟨⟨h1, h2⟩, h3⟩, h4⟩ := h
  refine ⟨⟨⟨fun x hx => ?_, h2⟩, h3⟩, h4⟩
  rw [Vector.toList_set] at hx
  rcases List.mem_or_eq_of_mem_set hx with hx | rfl
  · exact h1 x hx
  · exact ⟨hm, hi⟩

/-- Every memory at power-good is in canonical form. -/
theorem Memory.wf_reset : Memory.wf State.reset = true := by
  simp only [Memory.wf, State.reset, Vector.toList_replicate, Bool.and_eq_true, List.all_eq_true]
  refine ⟨⟨⟨fun k hk => ?_, DevMem.blank_wf _⟩, rfl⟩, by decide⟩
  rw [List.eq_of_mem_replicate hk]
  decide

/-! What a read returns after a write. -/

theorem touched_mem {u off len w : Nat} : w ∈ touched u off len ↔ 0 < len ∧ off / u ≤ w ∧ w ≤ (off + len - 1) / u := by
  by_cases h : len = 0
  · simp [touched, h]
  · have hle : off / u ≤ (off + len - 1) / u := Nat.div_le_div_right (by omega)
    simp only [touched, h, if_false, List.mem_map, List.mem_range]
    constructor
    · rintro ⟨b, hb, rfl⟩; omega
    · rintro ⟨_, h1, h2⟩; exact ⟨w - off / u, by omega, by omega⟩

theorem Scratch.bad_nil {m : Scratch} {w : Nat} (h : m.flipsIn w = []) : m.bad w = false := by simp [Scratch.bad, h]

theorem Scratch.byte_congr {m n : Scratch} {a : Nat} (hf : m.flipsIn (a / 8) = n.flipsIn (a / 8))
    (ht : tabGet 0xFF m.data a = tabGet 0xFF n.data a) : m.byte a = n.byte a := by
  unfold Scratch.byte Scratch.bad Scratch.errMask
  rw [hf, ht]

theorem Scratch.load_congr {m n : Scratch} {a : Nat} (hp : m.has a = n.has a) (hf : m.flipsIn (a / 8) = n.flipsIn (a / 8))
    (ht : tabGet 0xFF m.data a = tabGet 0xFF n.data a) : m.load a = n.load a := by
  unfold Scratch.load
  rw [hp, Scratch.byte_congr hf ht]

theorem Scratch.byte_good {m : Scratch} {a : Nat} (hf : m.flipsIn (a / 8) = []) : m.byte a = tabGet 0xFF m.data a := by
  unfold Scratch.byte
  rw [Scratch.bad_nil hf]
  rfl

@[simp] theorem Scratch.settleWord_flipsIn (m : Scratch) (off len w v : Nat) :
    (m.settleWord off len w).flipsIn v = if v = w then [] else m.flipsIn v := by
  simp only [Scratch.settleWord, Scratch.flipsIn, List.filter_filter]
  split
  · rename_i h; subst h
    exact List.filter_eq_nil_iff.mpr fun f _ => by simp
  · rename_i h
    refine List.filter_congr fun f _ => ?_
    by_cases hf : f / 77 = v <;> simp [hf, h]

/-- A word written anew: a byte outside the written range loads as before. -/
theorem Scratch.load_settleWord {m : Scratch} (h : m.wf = true) {off len w a : Nat} (ha : ¬(off ≤ a ∧ a < off + len)) :
    (m.settleWord off len w).load a = m.load a := by
  have hd := ((Scratch.wf_iff m).mp h).1
  by_cases hp : setHas m.pres (a / 2) = true
  · simp only [Scratch.load, Scratch.has, Scratch.settleWord_pres, hp, if_true]
    have hl : m.load a = m.byte a := by simp [Scratch.load, Scratch.has, hp]
    by_cases hw : a / 8 = w
    · have hc : covers off len w = false := by
        simp only [covers, decide_eq_false_iff_not]; omega
      rw [Scratch.byte_good (by simp [hw])]
      simp only [Scratch.settleWord, hc, Bool.false_eq_true, if_false]
      split
      · rw [tabGet_tabPut _ hd]
        have : 8 * w ≤ a ∧ a < 8 * w + ((List.range 8).map fun i => m.load (8 * w + i)).length := by
          simp only [List.length_map, List.length_range]; omega
        rw [if_pos this, List.getD_eq_getElem?_getD, List.getElem?_eq_getElem (by omega)]
        simp only [List.getElem_map, List.getElem_range, Option.getD_some]
        rw [show 8 * w + (a - 8 * w) = a by omega, hl]
      · rename_i hb
        simp [Scratch.byte, hw, hb]
    · have hf : (m.settleWord off len w).flipsIn (a / 8) = m.flipsIn (a / 8) := by simp [hw]
      have ht : tabGet 0xFF (m.settleWord off len w).data a = tabGet 0xFF m.data a := by
        simp only [Scratch.settleWord]
        split
        · rfl
        · split
          · rw [tabGet_tabPut _ hd, if_neg (by simp only [List.length_map, List.length_range]; omega)]
          · rfl
      exact Scratch.byte_congr hf ht
  · simp [Scratch.load, Scratch.has, hp]

theorem Scratch.settle_laws {m : Scratch} (h : m.wf = true) (off len : Nat) :
    (∀ a, ¬(off ≤ a ∧ a < off + len) → (m.settle off len).load a = m.load a) ∧
      ∀ w ∈ touched 8 off len, (m.settle off len).flipsIn w = [] := by
  unfold Scratch.settle
  split
  · rename_i hf
    exact ⟨fun _ _ => rfl, fun w _ => by simp [Scratch.flipsIn, List.isEmpty_iff.mp hf]⟩
  · rename_i hne
    clear hne
    generalize touched 8 off len = ws
    induction ws generalizing m with
    | nil => exact ⟨fun _ _ => rfl, fun w hw => by cases hw⟩
    | cons w ws ih =>
      obtain ⟨h1, h2⟩ := ih (Scratch.settleWord_wf h off len w)
      refine ⟨fun a ha => (h1 a ha).trans (Scratch.load_settleWord h ha), fun v hv => ?_⟩
      rcases List.mem_cons.mp hv with rfl | hv
      · refine foldl_keeps (fun (a : Scratch) => a.flipsIn v = []) _ (fun a u ha => ?_) ws (by simp)
        simp [ha]
      · exact h2 v hv

/-- A written byte reads back; every other byte reads as before, in whatever state the words are. -/
theorem Scratch.load_put {m : Scratch} (h : m.wf = true) (off : Nat) (bs : List Byte) (a : Nat) :
    (m.put off bs).load a = if off ≤ a ∧ a < off + bs.length then bs.getD (a - off) 0xFF else m.load a := by
  unfold Scratch.put
  split
  · rename_i he
    rw [List.isEmpty_iff] at he
    subst he
    simp only [List.length_nil, Nat.add_zero]
    rw [if_neg (by omega)]
  · rename_i he
    have hlen : 0 < bs.length := by cases bs with
      | nil => simp at he
      | cons => simp
    obtain ⟨hl, hf⟩ := Scratch.settle_laws h off bs.length
    have hw := Scratch.settle_wf h off bs.length
    generalize hm : m.settle off bs.length = n at hl hf hw ⊢
    have hn := (Scratch.wf_iff n).mp hw
    simp only
    -- the state with the bytes written, at the word of a
    have hflip (v : Nat) : Scratch.flipsIn { n with data := tabPut 0xFF n.data off bs
                                                    pres := setAddRun n.pres (off / 2) ((off + bs.length - 1) / 2 - off / 2 + 1) } v =
        n.flipsIn v := rfl
    by_cases hin : off / 2 ≤ a / 2 ∧ a / 2 ≤ (off + bs.length - 1) / 2
    · have hnil : n.flipsIn (a / 8) = [] := hf _ (touched_mem.mpr ⟨hlen, by omega, by omega⟩)
      have hhas : setHas (setAddRun n.pres (off / 2) ((off + bs.length - 1) / 2 - off / 2 + 1)) (a / 2) = true := by
        rw [setHas_setAddRun hn.2.1, decide_eq_true (by omega), Bool.true_or]
      simp only [Scratch.load, Scratch.has, hhas, if_true]
      rw [Scratch.byte_good (by rw [hflip, hnil])]
      simp only
      rw [tabGet_tabPut _ hn.1]
      split
      · rfl
      · rename_i ho
        refine Eq.trans ?_ (hl a ho)
        by_cases hv : setHas n.pres (a / 2) = true
        · simp only [Scratch.load, Scratch.has, hv, if_true]
          rw [Scratch.byte_good hnil]
        · simp only [Scratch.load, Scratch.has, hv, Bool.false_eq_true, if_false]
          refine tabGet_none _ fun e he hea => hv ?_
          rw [← hea]; exact hn.2.2.2.2.1 e he
    · have ho : ¬(off ≤ a ∧ a < off + bs.length) := by omega
      have hhas : setHas (setAddRun n.pres (off / 2) ((off + bs.length - 1) / 2 - off / 2 + 1)) (a / 2) = setHas n.pres (a / 2) := by
        rw [setHas_setAddRun hn.2.1, decide_eq_false (by omega), Bool.false_or]
      rw [if_neg ho, ← hl a ho]
      exact Scratch.load_congr hhas (hflip (a / 8)) (by rw [tabGet_tabPut _ hn.1, if_neg ho])

/-- What concerns a range answers for its bytes as the whole. -/
theorem Scratch.has_near {m : Scratch} (h : m.wf = true) {off n a : Nat} (ha : off ≤ a ∧ a < off + n) :
    (m.near off n).has a = m.has a := by
  obtain ⟨h1, h2, h3, h4, h5, h6⟩ := (Scratch.wf_iff m).mp h
  simp only [Scratch.has, Scratch.near]
  rw [Bool.eq_iff_iff, setHas_iff (((setWf_iff _).mp h2).filter _), setHas_iff ((setWf_iff _).mp h2), List.mem_filter]
  simp only [decide_eq_true_eq, and_iff_left_iff_imp]
  omega

/-- The bytes of a range as a slot 4 read returns them. -/
theorem Scratch.load_loads {m : Scratch} (h : m.wf = true) (off n i : Nat) (hi : i < n) :
    (m.loads off n)[i]? = some (m.load (off + i)) := by
  obtain ⟨h1, h2, h3, h4, h5, h6⟩ := (Scratch.wf_iff m).mp h
  have hp : (m.near off n).has (off + i) = m.has (off + i) := Scratch.has_near h (by omega)
  have hf : (m.near off n).flipsIn ((off + i) / 8) = m.flipsIn ((off + i) / 8) := by
    simp only [Scratch.flipsIn, Scratch.near, List.filter_filter]
    refine List.filter_congr fun f _ => ?_
    by_cases he : f / 77 = (off + i) / 8
    · have : off / 32 ≤ f / 308 ∧ f / 308 < (off + n) / 32 + 1 := by omega
      simp [he, this]
    · simp [he]
  have ht : tabGet 0xFF (m.near off n).data (off + i) = tabGet 0xFF m.data (off + i) :=
    tabGet_tabNear _ ((tabWf_iff _ _).mp h1).1 (by omega)
  simp only [Scratch.loads, List.getElem?_map, List.getElem?_range hi, Option.map_some, Scratch.load_congr hp hf ht]

/-- Correcting single-bit errors changes no byte as a load returns it (R70). -/
theorem Scratch.load_correct (m : Scratch) (off len a : Nat) : (m.correct off len).load a = m.load a := by
  unfold Scratch.correct
  split
  · rfl
  · have hf (w : Nat) : Scratch.flipsIn { m with flips := m.flips.filter fun f => !((touched 8 off len).contains (f / 77) && !m.bad (f / 77)) } w =
        if (touched 8 off len).contains w && !m.bad w then [] else m.flipsIn w := by
      simp only [Scratch.flipsIn, List.filter_filter]
      split
      · rename_i h
        refine List.filter_eq_nil_iff.mpr fun f _ => ?_
        by_cases hw : f / 77 = w
        · subst hw; rw [h]; simp
        · simp [hw]
      · rename_i h
        refine List.filter_congr fun f _ => ?_
        by_cases hw : f / 77 = w
        · subst hw; rw [Bool.not_eq_true] at h; rw [h]; simp
        · simp [hw]
    by_cases hc : ((touched 8 off len).contains (a / 8) && !m.bad (a / 8)) = true
    · have hb : m.bad (a / 8) = false := by
        have := (Bool.and_eq_true_iff.mp hc).2
        simpa using this
      unfold Scratch.load Scratch.byte
      rw [Scratch.bad_nil (by rw [hf, if_pos hc]), hb]
      rfl
    · exact Scratch.load_congr rfl (by rw [hf, if_neg hc]) rfl

@[simp] theorem Scratch.has_correct (m : Scratch) (off len a : Nat) : (m.correct off len).has a = m.has a := by
  unfold Scratch.correct; split <;> rfl

@[simp] theorem Scratch.poisoned_correct (m : Scratch) (off len a : Nat) : (m.correct off len).poisoned a = m.poisoned a := by
  unfold Scratch.correct; split <;> rfl

/-- A written halfword is present; the others are as before. -/
theorem Scratch.has_put {m : Scratch} (h : m.wf = true) (off : Nat) (bs : List Byte) (a : Nat) :
    (m.put off bs).has a = (decide (0 < bs.length ∧ off / 2 ≤ a / 2 ∧ a / 2 ≤ (off + bs.length - 1) / 2) || m.has a) := by
  unfold Scratch.put
  split
  · rename_i he
    rw [List.isEmpty_iff] at he
    subst he
    simp
  · rename_i he
    have hlen : 0 < bs.length := by cases bs with
      | nil => simp at he
      | cons => simp
    have hw := (Scratch.wf_iff _).mp (Scratch.settle_wf h off bs.length)
    simp only [Scratch.has]
    rw [setHas_setAddRun hw.2.1, Scratch.settle_pres]
    congr 1
    rw [decide_eq_decide]
    omega

theorem Scratch.settle_pois (m : Scratch) (off len : Nat) : (m.settle off len).pois = m.pois := by
  unfold Scratch.settle
  split
  · rfl
  · exact foldl_keeps (fun b : Scratch => b.pois = m.pois) (fun (a : Scratch) w => a.settleWord off len w) (fun b w hb => hb) _ rfl

@[simp] theorem Scratch.poisoned_put (m : Scratch) (off : Nat) (bs : List Byte) (a : Nat) :
    (m.put off bs).poisoned a = m.poisoned a := by
  unfold Scratch.put
  split
  · rfl
  · simp only [Scratch.poisoned, Scratch.settle_pois]

/-- A vacated byte is vacant; the others are as before. -/
theorem Scratch.has_vacate {m : Scratch} (h : m.wf = true) {off len : Nat} (ho : off % 2 = 0) (hl : len % 2 = 0) (a : Nat) :
    (m.vacate off len).has a = (!decide (off ≤ a ∧ a < off + len) && m.has a) := by
  unfold Scratch.vacate
  split
  · rename_i h0; subst h0
    rw [decide_eq_false (by omega)]; rfl
  · have hw := (Scratch.wf_iff _).mp (Scratch.settle_wf h off len)
    simp only [Scratch.has]
    rw [setHas_setDelRun hw.2.1, Scratch.settle_pres]
    congr 2
    rw [decide_eq_decide]
    omega

/-- A vacated byte reads as fill; every other byte as before. -/
theorem Scratch.load_vacate {m : Scratch} (h : m.wf = true) {off len : Nat} (ho : off % 2 = 0) (hl : len % 2 = 0) (a : Nat) :
    (m.vacate off len).load a = if off ≤ a ∧ a < off + len then 0xFF else m.load a := by
  have hh := Scratch.has_vacate h ho hl a
  by_cases hin : off ≤ a ∧ a < off + len
  · rw [if_pos hin, Scratch.load_vacant]
    rw [hh, decide_eq_true hin]; rfl
  · rw [if_neg hin]
    rw [decide_eq_false hin, Bool.not_false, Bool.true_and] at hh
    obtain ⟨h1, h2⟩ := Scratch.settle_laws h off len
    rw [← h1 a hin]
    unfold Scratch.vacate at hh ⊢
    split
    · rename_i h0
      have : m.settle off 0 = m := by unfold Scratch.settle; split <;> simp [touched]
      subst h0; rw [this]
    · rename_i h0
      rw [if_neg h0] at hh
      have hw := (Scratch.wf_iff _).mp (Scratch.settle_wf h off len)
      refine Scratch.load_congr ?_ rfl ?_
      · rw [hh]; simp only [Scratch.has, Scratch.settle_pres]
      · rw [tabGet_tabPut _ hw.1, if_neg (by simpa using hin)]

@[simp] theorem Scratch.poisoned_vacate (m : Scratch) (off len a : Nat) : (m.vacate off len).poisoned a = m.poisoned a := by
  unfold Scratch.vacate
  split
  · rfl
  · simp only [Scratch.poisoned, Scratch.settle_pois]

@[simp] theorem Scratch.has_unpoison (m : Scratch) (sec a : Nat) : (m.unpoison sec).has a = m.has a := by
  unfold Scratch.unpoison; split <;> rfl

/-- Clearing the poison of a vacant sector changes no byte as a load returns it. -/
@[simp] theorem Scratch.load_unpoison (m : Scratch) (sec a : Nat) : (m.unpoison sec).load a = m.load a := by
  cases hv : m.has a
  · rw [Scratch.load_vacant hv, Scratch.load_vacant (by rw [Scratch.has_unpoison]; exact hv)]
  · unfold Scratch.unpoison
    split
    · rename_i hall
      refine Scratch.load_congr rfl ?_ rfl
      simp only [Scratch.flipsIn, List.filter_filter]
      refine List.filter_congr fun f _ => ?_
      by_cases hf : f / 77 = a / 8
      · have hs : f / 77 / 4 ≠ sec := by
          intro hs
          rw [List.all_eq_true] at hall
          have := hall (a / 2 - 16 * sec) (List.mem_range.mpr (by omega))
          rw [show 16 * sec + (a / 2 - 16 * sec) = a / 2 by omega] at this
          simp only [Scratch.has] at hv
          simp [hv] at this
        rw [hf] at hs
        simp [hf, hs]
      · simp [hf]
    · rfl

/-- `vac`: the range is vacant and reads as fill; every other byte is as before (R85). -/
theorem Scratch.vac_laws {m : Scratch} (h : m.wf = true) {off len : Nat} (ho : off % 2 = 0) (hl : len % 2 = 0) (a : Nat) :
    (m.vac off len).load a = (if off ≤ a ∧ a < off + len then 0xFF else m.load a) ∧
    (m.vac off len).has a = (!decide (off ≤ a ∧ a < off + len) && m.has a) := by
  rw [← Scratch.load_vacate h ho hl, ← Scratch.has_vacate h ho hl]
  unfold Scratch.vac
  exact foldl_keeps (fun b : Scratch => b.load a = (m.vacate off len).load a ∧ b.has a = (m.vacate off len).has a)
    (fun (a : Scratch) sec => a.unpoison sec) (fun b sec hb => by simpa using hb) _ ⟨rfl, rfl⟩

/-! The checks of slot 4 look only at what concerns their range (R76). -/

theorem Scratch.poisoned_near {m : Scratch} (h : m.wf = true) {off n a : Nat} (ha : off ≤ a ∧ a < off + n) :
    (m.near off n).poisoned a = m.poisoned a := by
  obtain ⟨h1, h2, h3, h4, h5, h6⟩ := (Scratch.wf_iff m).mp h
  simp only [Scratch.poisoned, Scratch.near]
  rw [Bool.eq_iff_iff, setHas_iff (((setWf_iff _).mp h3).filter _), setHas_iff ((setWf_iff _).mp h3), List.mem_filter]
  simp only [decide_eq_true_eq, and_iff_left_iff_imp]
  omega

theorem Scratch.flipsIn_near (m : Scratch) {off n w : Nat} (hw : off / 32 ≤ w / 4 ∧ w / 4 ≤ (off + n) / 32) :
    (m.near off n).flipsIn w = m.flipsIn w := by
  simp only [Scratch.flipsIn, Scratch.near, List.filter_filter]
  refine List.filter_congr fun f _ => ?_
  by_cases he : f / 77 = w
  · have : off / 32 ≤ f / 308 ∧ f / 308 < (off + n) / 32 + 1 := by omega
    simp [he, this]
  · simp [he]

theorem Scratch.foundRead_near {m : Scratch} (h : m.wf = true) (off n : Nat) : (m.near off n).foundRead off n = m.foundRead off n := by
  obtain ⟨h1, h2, h3, h4, h5, h6⟩ := (Scratch.wf_iff m).mp h
  have key (m : Scratch) : m.foundRead off n = (touched 8 off n).filter fun w => m.bad w && !setHas m.told (w / 4) := by
    unfold Scratch.foundRead
    split
    · rename_i he
      rw [List.isEmpty_iff] at he
      symm
      rw [List.filter_eq_nil_iff]
      intro w _
      simp [Scratch.bad, Scratch.flipsIn, he]
    · rfl
  rw [key, key]
  refine List.filter_congr fun w hw => ?_
  obtain ⟨h0, hl, hh⟩ := touched_mem.mp hw
  have hb : (m.near off n).bad w = m.bad w := by
    unfold Scratch.bad
    rw [Scratch.flipsIn_near m (by omega)]
  have hp : setHas (m.near off n).told (w / 4) = setHas m.told (w / 4) := by
    simp only [Scratch.near]
    rw [Bool.eq_iff_iff, setHas_iff (((setWf_iff _).mp h6).filter _), setHas_iff ((setWf_iff _).mp h6), List.mem_filter]
    simp only [decide_eq_true_eq, and_iff_left_iff_imp]
    omega
  rw [hb, hp]

theorem Scratch.foundWrite_near {m : Scratch} (h : m.wf = true) (off n : Nat) : (m.near off n).foundWrite off n = m.foundWrite off n := by
  unfold Scratch.foundWrite
  rw [Scratch.foundRead_near h]

theorem any_filter_sector (l : List (Nat × Nat)) {lo hi b : Nat} (h : lo / 32 ≤ b / 32 ∧ b / 32 ≤ hi / 32) :
    ((l.filter fun t => decide (lo / 32 ≤ t.1 ∧ t.1 ≤ hi / 32)).any fun t => t.1 == b / 32) = l.any fun t => t.1 == b / 32 := by
  rw [List.any_filter]
  congr 1
  funext t
  by_cases ht : t.1 = b / 32
  · simp [ht, h]
  · simp [ht]

/-- Steps 5 to 8 of R76 on one range, in terms of the whole core. -/
theorem Core.stateChecks_one {k : Core} (h : k.mem.wf = true) (vtrap : Bool) (kind : Acc4) {a n : Nat} (hn : 0 < n) (ha : a + n ≤ 0x800000) :
    k.stateChecks vtrap kind [(a, n)] =
      let any (f : Nat → Bool) : Bool := (List.range n).any fun i => f (a + i)
      if kind != .vac && (!(k.found kind a n).isEmpty || any k.mem.poisoned) then some { trap 0x08 with found := k.found kind a n }
      else if any (k.occupied kind) then some (trap 0x10)
      else if kind != .load && any k.held then some (trap 0x09)
      else if (kind == .atomic || (vtrap && (kind == .load || kind == .take))) && any (fun b => !k.mem.has b) then some (trap 0x07)
      else none := by
  have hlo : [(a, n)].foldl (fun m r => min m r.1) 0x800000 = a := by simp; omega
  have hhi : [(a, n)].foldl (fun m r => max m (r.1 + r.2)) 0 = a + n := by simp
  have hk : k.near [(a, n)] = { k with mem := k.mem.near a n, pend := k.pend.filter fun t => decide (a / 32 ≤ t.1 ∧ t.1 ≤ (a + n) / 32), transit := k.transit.filter fun t => decide (a / 32 ≤ t.1 ∧ t.1 ≤ (a + n) / 32), holds := k.holds.filter fun t => decide (a / 32 ≤ t.1 ∧ t.1 ≤ (a + n) / 32) } := by
    unfold Core.near
    rw [hlo, hhi]
    simp only [Nat.add_sub_cancel_left]
  unfold Core.stateChecks
  rw [hk]
  generalize hk' : ({ k with mem := k.mem.near a n, pend := k.pend.filter fun t => decide (a / 32 ≤ t.1 ∧ t.1 ≤ (a + n) / 32), transit := k.transit.filter fun t => decide (a / 32 ≤ t.1 ∧ t.1 ≤ (a + n) / 32), holds := k.holds.filter fun t => decide (a / 32 ≤ t.1 ∧ t.1 ≤ (a + n) / 32) } : Core) = q
  have hmem : q.mem = k.mem.near a n := by subst hk'; rfl
  have hfound : q.found kind a n = k.found kind a n := by
    cases kind <;> simp only [Core.found, hmem, Scratch.foundRead_near h, Scratch.foundWrite_near h]
  have hany {f f' : Nat → Bool} (hf : ∀ b, a ≤ b → b < a + n → f b = f' b) :
      ((([(a, n)] : List (Nat × Nat)).map fun r => (List.range r.2).map (r.1 + ·)).any fun l => l.any f) = (List.range n).any fun i => f' (a + i) := by
    simp only [List.map_cons, List.map_nil, List.any_cons, List.any_nil, Bool.or_false, List.any_map]
    rw [Bool.eq_iff_iff, List.any_eq_true, List.any_eq_true]
    constructor <;> rintro ⟨i, hi, hx⟩ <;> have := List.mem_range.mp hi
    · exact ⟨i, hi, by rw [← hf (a + i) (by omega) (by omega)]; exact hx⟩
    · exact ⟨i, hi, by simp only [Function.comp]; rw [hf (a + i) (by omega) (by omega)]; exact hx⟩
  have hpend (b : Nat) (h1 : a ≤ b) (h2 : b < a + n) : q.pending b = k.pending b := by
    subst hk'; exact any_filter_sector _ (by omega)
  have htr (b : Nat) (h1 : a ≤ b) (h2 : b < a + n) : q.inTransit b = k.inTransit b := by
    subst hk'; exact any_filter_sector _ (by omega)
  have hhe (b : Nat) (h1 : a ≤ b) (h2 : b < a + n) : q.held b = k.held b := by
    subst hk'; exact any_filter_sector _ (by omega)
  have hlk (b : Nat) : q.locked b = k.locked b := by subst hk'; rfl
  have hpo (b : Nat) (h1 : a ≤ b) (h2 : b < a + n) : q.mem.poisoned b = k.mem.poisoned b := by
    rw [hmem]; exact Scratch.poisoned_near h ⟨h1, h2⟩
  have hhas (b : Nat) (h1 : a ≤ b) (h2 : b < a + n) : q.mem.has b = k.mem.has b := by
    rw [hmem]; exact Scratch.has_near h ⟨h1, h2⟩
  have hocc (b : Nat) (h1 : a ≤ b) (h2 : b < a + n) : q.occupied kind b = k.occupied kind b := by
    unfold Core.occupied
    cases kind <;> simp only [hpend b h1 h2, htr b h1 h2, hlk, hhas b h1 h2]
  have e1 : (!q.mem.pois.isEmpty && ((([(a, n)] : List (Nat × Nat)).map fun r => (List.range r.2).map (r.1 + ·)).any fun l => l.any q.mem.poisoned)) =
      (List.range n).any fun i => k.mem.poisoned (a + i) := by
    rw [hany hpo]
    cases hp : q.mem.pois with
    | cons => simp
    | nil =>
      simp only [List.isEmpty_nil, Bool.not_true, Bool.false_and]
      symm
      rw [List.any_eq_false]
      intro i hi
      have := List.mem_range.mp hi
      rw [← hpo (a + i) (by omega) (by omega)]
      simp [Scratch.poisoned, hp, setHas]
  have e2 : (!q.holds.isEmpty && ((([(a, n)] : List (Nat × Nat)).map fun r => (List.range r.2).map (r.1 + ·)).any fun l => l.any q.held)) =
      (List.range n).any fun i => k.held (a + i) := by
    rw [hany hhe]
    cases hp : q.holds with
    | cons => simp
    | nil =>
      simp only [List.isEmpty_nil, Bool.not_true, Bool.false_and]
      symm
      rw [List.any_eq_false]
      intro i hi
      have := List.mem_range.mp hi
      rw [← hhe (a + i) (by omega) (by omega)]
      simp [Core.held, hp]
  simp only [List.map_cons, List.map_nil, List.flatten_cons, List.flatten_nil, List.append_nil, hfound] at e1 e2 ⊢
  rw [Bool.and_assoc, e1, e2]
  have e3 := hany hocc
  have e4 := hany (f := fun b => !q.mem.has b) (f' := fun b => !k.mem.has b) (fun b h1 h2 => by rw [hhas b h1 h2])
  simp only [List.map_cons, List.map_nil] at e3 e4
  rw [e3, e4]

/-- `vac` clears no poison outside the sectors of its range. -/
theorem Scratch.poisoned_vac (m : Scratch) (h : m.wf = true) {off len b : Nat} (hb : ¬(off / 32 ≤ b / 32 ∧ b / 32 ≤ (off + len - 1) / 32)) :
    (m.vac off len).poisoned b = m.poisoned b := by
  have hv : setWf (m.vacate off len).pois = true := by
    have : (m.vacate off len).pois = m.pois := by unfold Scratch.vacate; split <;> simp [Scratch.settle_pois]
    rw [this]
    exact ((Scratch.wf_iff m).mp h).2.2.1
  rw [← Scratch.poisoned_vacate m off len b]
  unfold Scratch.vac
  have key : ∀ (l : List Nat) (q : Scratch), setWf q.pois = true → (∀ x ∈ l, x ≠ b / 32) →
      (l.foldl (fun (a : Scratch) sec => a.unpoison sec) q).poisoned b = q.poisoned b := by
    intro l
    induction l with
    | nil => exact fun _ _ _ => rfl
    | cons x l ih =>
      intro q hq hx
      have h1 : setWf (q.unpoison x).pois = true ∧ (q.unpoison x).poisoned b = q.poisoned b := by
        unfold Scratch.unpoison
        split
        · refine ⟨setDel_wf hq x, ?_⟩
          simp only [Scratch.poisoned]
          have : b / 32 ≠ x := fun h => hx x List.mem_cons_self h.symm
          rw [setHas_setDel hq]; simp [this]
        · exact ⟨hq, rfl⟩
      rw [List.foldl_cons, ih _ h1.1 (fun y hy => hx y (List.mem_cons_of_mem _ hy)), h1.2]
  exact key _ _ hv fun x hx he => hb (by obtain ⟨_, h1, h2⟩ := touched_mem.mp hx; rw [← he]; exact ⟨h1, h2⟩)

end Sys2Proof.Machine
end

