-- ==== Sys2Proof/Laws/State.lean ====
section
/-!
SUPPORT. One lemma per field per update of the state: what each update leaves alone, and reading back what it wrote.
-/

namespace Sys2Proof.Machine

/-! `setCore`. -/

@[simp] theorem State.setCore_cur (s : State) (c : CoreRef) (k : Core) : (s.setCore c k).cur = s.cur := rfl
@[simp] theorem State.setCore_issue (s : State) (c : CoreRef) (k : Core) : (s.setCore c k).issue = s.issue := rfl
@[simp] theorem State.setCore_agenda (s : State) (c : CoreRef) (k : Core) : (s.setCore c k).agenda = s.agenda := rfl
@[simp] theorem State.setCore_turn (s : State) (c : CoreRef) (k : Core) : (s.setCore c k).turn = s.turn := rfl
@[simp] theorem State.setCore_running (s : State) (c : CoreRef) (k : Core) : (s.setCore c k).running = s.running := rfl
@[simp] theorem State.setCore_cycle (s : State) (c : CoreRef) (k : Core) : (s.setCore c k).cycle = s.cycle := rfl
@[simp] theorem State.setCore_time19 (s : State) (c : CoreRef) (k : Core) : (s.setCore c k).time19 = s.time19 := rfl
@[simp] theorem State.setCore_fresh (s : State) (c : CoreRef) (k : Core) : (s.setCore c k).fresh = s.fresh := rfl
@[simp] theorem State.setCore_nextId (s : State) (c : CoreRef) (k : Core) : (s.setCore c k).nextId = s.nextId := rfl
@[simp] theorem State.setCore_tower0 (s : State) (c : CoreRef) (k : Core) : (s.setCore c k).tower0 = s.tower0 := rfl
@[simp] theorem State.setCore_tower1 (s : State) (c : CoreRef) (k : Core) : (s.setCore c k).tower1 = s.tower1 := rfl
@[simp] theorem State.setCore_dev (s : State) (c : CoreRef) (k : Core) : (s.setCore c k).dev = s.dev := rfl
@[simp] theorem State.setCore_hostmem (s : State) (c : CoreRef) (k : Core) : (s.setCore c k).hostmem = s.hostmem := rfl
@[simp] theorem State.setCore_pieces (s : State) (c : CoreRef) (k : Core) : (s.setCore c k).pieces = s.pieces := rfl
@[simp] theorem State.setCore_cmds (s : State) (c : CoreRef) (k : Core) : (s.setCore c k).cmds = s.cmds := rfl
@[simp] theorem State.setCore_colls (s : State) (c : CoreRef) (k : Core) : (s.setCore c k).colls = s.colls := rfl
@[simp] theorem State.setCore_collsDone (s : State) (c : CoreRef) (k : Core) : (s.setCore c k).collsDone = s.collsDone := rfl
@[simp] theorem State.setCore_msgs (s : State) (c : CoreRef) (k : Core) : (s.setCore c k).msgs = s.msgs := rfl
@[simp] theorem State.setCore_adds (s : State) (c : CoreRef) (k : Core) : (s.setCore c k).adds = s.adds := rfl
@[simp] theorem State.setCore_jobs (s : State) (c : CoreRef) (k : Core) : (s.setCore c k).jobs = s.jobs := rfl
@[simp] theorem State.setCore_jobsDone (s : State) (c : CoreRef) (k : Core) : (s.setCore c k).jobsDone = s.jobsDone := rfl
@[simp] theorem State.setCore_scopes (s : State) (c : CoreRef) (k : Core) : (s.setCore c k).scopes = s.scopes := rfl
@[simp] theorem State.setCore_nodes (s : State) (c : CoreRef) (k : Core) : (s.setCore c k).nodes = s.nodes := rfl
@[simp] theorem State.setCore_spawnWait (s : State) (c : CoreRef) (k : Core) : (s.setCore c k).spawnWait = s.spawnWait := rfl
@[simp] theorem State.setCore_launches (s : State) (c : CoreRef) (k : Core) : (s.setCore c k).launches = s.launches := rfl
@[simp] theorem State.setCore_cancels (s : State) (c : CoreRef) (k : Core) : (s.setCore c k).cancels = s.cancels := rfl
@[simp] theorem State.setCore_invals (s : State) (c : CoreRef) (k : Core) : (s.setCore c k).invals = s.invals := rfl
@[simp] theorem State.setCore_heldWrites (s : State) (c : CoreRef) (k : Core) : (s.setCore c k).heldWrites = s.heldWrites := rfl
@[simp] theorem State.setCore_links (s : State) (c : CoreRef) (k : Core) : (s.setCore c k).links = s.links := rfl
@[simp] theorem State.setCore_deviceNumber (s : State) (c : CoreRef) (k : Core) : (s.setCore c k).deviceNumber = s.deviceNumber := rfl
@[simp] theorem State.setCore_peers (s : State) (c : CoreRef) (k : Core) : (s.setCore c k).peers = s.peers := rfl
@[simp] theorem State.setCore_keys (s : State) (c : CoreRef) (k : Core) : (s.setCore c k).keys = s.keys := rfl
@[simp] theorem State.setCore_rcmb (s : State) (c : CoreRef) (k : Core) : (s.setCore c k).rcmb = s.rcmb := rfl
@[simp] theorem State.setCore_mx6 (s : State) (c : CoreRef) (k : Core) : (s.setCore c k).mx6 = s.mx6 := rfl
@[simp] theorem State.setCore_service (s : State) (c : CoreRef) (k : Core) : (s.setCore c k).service = s.service := rfl
@[simp] theorem State.setCore_faulted (s : State) (c : CoreRef) (k : Core) : (s.setCore c k).faulted = s.faulted := rfl
@[simp] theorem State.setCore_selfTest (s : State) (c : CoreRef) (k : Core) : (s.setCore c k).selfTest = s.selfTest := rfl
@[simp] theorem State.setCore_toFull (s : State) (c : CoreRef) (k : Core) : (s.setCore c k).toFull = s.toFull := rfl
@[simp] theorem State.setCore_idKey (s : State) (c : CoreRef) (k : Core) : (s.setCore c k).idKey = s.idKey := rfl
@[simp] theorem State.setCore_fwFile (s : State) (c : CoreRef) (k : Core) : (s.setCore c k).fwFile = s.fwFile := rfl
@[simp] theorem State.setCore_receipts (s : State) (c : CoreRef) (k : Core) : (s.setCore c k).receipts = s.receipts := rfl
@[simp] theorem State.setCore_receiptNo (s : State) (c : CoreRef) (k : Core) : (s.setCore c k).receiptNo = s.receiptNo := rfl
@[simp] theorem State.setCore_bootNo (s : State) (c : CoreRef) (k : Core) : (s.setCore c k).bootNo = s.bootNo := rfl
@[simp] theorem State.setCore_bootJournal (s : State) (c : CoreRef) (k : Core) : (s.setCore c k).bootJournal = s.bootJournal := rfl
@[simp] theorem State.setCore_bootSigs (s : State) (c : CoreRef) (k : Core) : (s.setCore c k).bootSigs = s.bootSigs := rfl
@[simp] theorem State.setCore_repairs (s : State) (c : CoreRef) (k : Core) : (s.setCore c k).repairs = s.repairs := rfl
@[simp] theorem State.setCore_channelsOff (s : State) (c : CoreRef) (k : Core) : (s.setCore c k).channelsOff = s.channelsOff := rfl
@[simp] theorem State.setCore_grandmaster (s : State) (c : CoreRef) (k : Core) : (s.setCore c k).grandmaster = s.grandmaster := rfl
@[simp] theorem State.setCore_clockOffset (s : State) (c : CoreRef) (k : Core) : (s.setCore c k).clockOffset = s.clockOffset := rfl
@[simp] theorem State.setCore_steered (s : State) (c : CoreRef) (k : Core) : (s.setCore c k).steered = s.steered := rfl
@[simp] theorem State.setCore_hostData (s : State) (c : CoreRef) (k : Core) : (s.setCore c k).hostData = s.hostData := rfl

/-! `modCore`. -/

@[simp] theorem State.modCore_cur (s : State) (c : CoreRef) (h : Core → Core) : (s.modCore c h).cur = s.cur := rfl
@[simp] theorem State.modCore_issue (s : State) (c : CoreRef) (h : Core → Core) : (s.modCore c h).issue = s.issue := rfl
@[simp] theorem State.modCore_agenda (s : State) (c : CoreRef) (h : Core → Core) : (s.modCore c h).agenda = s.agenda := rfl
@[simp] theorem State.modCore_turn (s : State) (c : CoreRef) (h : Core → Core) : (s.modCore c h).turn = s.turn := rfl
@[simp] theorem State.modCore_running (s : State) (c : CoreRef) (h : Core → Core) : (s.modCore c h).running = s.running := rfl
@[simp] theorem State.modCore_cycle (s : State) (c : CoreRef) (h : Core → Core) : (s.modCore c h).cycle = s.cycle := rfl
@[simp] theorem State.modCore_time19 (s : State) (c : CoreRef) (h : Core → Core) : (s.modCore c h).time19 = s.time19 := rfl
@[simp] theorem State.modCore_fresh (s : State) (c : CoreRef) (h : Core → Core) : (s.modCore c h).fresh = s.fresh := rfl
@[simp] theorem State.modCore_nextId (s : State) (c : CoreRef) (h : Core → Core) : (s.modCore c h).nextId = s.nextId := rfl
@[simp] theorem State.modCore_tower0 (s : State) (c : CoreRef) (h : Core → Core) : (s.modCore c h).tower0 = s.tower0 := rfl
@[simp] theorem State.modCore_tower1 (s : State) (c : CoreRef) (h : Core → Core) : (s.modCore c h).tower1 = s.tower1 := rfl
@[simp] theorem State.modCore_dev (s : State) (c : CoreRef) (h : Core → Core) : (s.modCore c h).dev = s.dev := rfl
@[simp] theorem State.modCore_hostmem (s : State) (c : CoreRef) (h : Core → Core) : (s.modCore c h).hostmem = s.hostmem := rfl
@[simp] theorem State.modCore_pieces (s : State) (c : CoreRef) (h : Core → Core) : (s.modCore c h).pieces = s.pieces := rfl
@[simp] theorem State.modCore_cmds (s : State) (c : CoreRef) (h : Core → Core) : (s.modCore c h).cmds = s.cmds := rfl
@[simp] theorem State.modCore_colls (s : State) (c : CoreRef) (h : Core → Core) : (s.modCore c h).colls = s.colls := rfl
@[simp] theorem State.modCore_collsDone (s : State) (c : CoreRef) (h : Core → Core) : (s.modCore c h).collsDone = s.collsDone := rfl
@[simp] theorem State.modCore_msgs (s : State) (c : CoreRef) (h : Core → Core) : (s.modCore c h).msgs = s.msgs := rfl
@[simp] theorem State.modCore_adds (s : State) (c : CoreRef) (h : Core → Core) : (s.modCore c h).adds = s.adds := rfl
@[simp] theorem State.modCore_jobs (s : State) (c : CoreRef) (h : Core → Core) : (s.modCore c h).jobs = s.jobs := rfl
@[simp] theorem State.modCore_jobsDone (s : State) (c : CoreRef) (h : Core → Core) : (s.modCore c h).jobsDone = s.jobsDone := rfl
@[simp] theorem State.modCore_scopes (s : State) (c : CoreRef) (h : Core → Core) : (s.modCore c h).scopes = s.scopes := rfl
@[simp] theorem State.modCore_nodes (s : State) (c : CoreRef) (h : Core → Core) : (s.modCore c h).nodes = s.nodes := rfl
@[simp] theorem State.modCore_spawnWait (s : State) (c : CoreRef) (h : Core → Core) : (s.modCore c h).spawnWait = s.spawnWait := rfl
@[simp] theorem State.modCore_launches (s : State) (c : CoreRef) (h : Core → Core) : (s.modCore c h).launches = s.launches := rfl
@[simp] theorem State.modCore_cancels (s : State) (c : CoreRef) (h : Core → Core) : (s.modCore c h).cancels = s.cancels := rfl
@[simp] theorem State.modCore_invals (s : State) (c : CoreRef) (h : Core → Core) : (s.modCore c h).invals = s.invals := rfl
@[simp] theorem State.modCore_heldWrites (s : State) (c : CoreRef) (h : Core → Core) : (s.modCore c h).heldWrites = s.heldWrites := rfl
@[simp] theorem State.modCore_links (s : State) (c : CoreRef) (h : Core → Core) : (s.modCore c h).links = s.links := rfl
@[simp] theorem State.modCore_deviceNumber (s : State) (c : CoreRef) (h : Core → Core) : (s.modCore c h).deviceNumber = s.deviceNumber := rfl
@[simp] theorem State.modCore_peers (s : State) (c : CoreRef) (h : Core → Core) : (s.modCore c h).peers = s.peers := rfl
@[simp] theorem State.modCore_keys (s : State) (c : CoreRef) (h : Core → Core) : (s.modCore c h).keys = s.keys := rfl
@[simp] theorem State.modCore_rcmb (s : State) (c : CoreRef) (h : Core → Core) : (s.modCore c h).rcmb = s.rcmb := rfl
@[simp] theorem State.modCore_mx6 (s : State) (c : CoreRef) (h : Core → Core) : (s.modCore c h).mx6 = s.mx6 := rfl
@[simp] theorem State.modCore_service (s : State) (c : CoreRef) (h : Core → Core) : (s.modCore c h).service = s.service := rfl
@[simp] theorem State.modCore_faulted (s : State) (c : CoreRef) (h : Core → Core) : (s.modCore c h).faulted = s.faulted := rfl
@[simp] theorem State.modCore_selfTest (s : State) (c : CoreRef) (h : Core → Core) : (s.modCore c h).selfTest = s.selfTest := rfl
@[simp] theorem State.modCore_toFull (s : State) (c : CoreRef) (h : Core → Core) : (s.modCore c h).toFull = s.toFull := rfl
@[simp] theorem State.modCore_idKey (s : State) (c : CoreRef) (h : Core → Core) : (s.modCore c h).idKey = s.idKey := rfl
@[simp] theorem State.modCore_fwFile (s : State) (c : CoreRef) (h : Core → Core) : (s.modCore c h).fwFile = s.fwFile := rfl
@[simp] theorem State.modCore_receipts (s : State) (c : CoreRef) (h : Core → Core) : (s.modCore c h).receipts = s.receipts := rfl
@[simp] theorem State.modCore_receiptNo (s : State) (c : CoreRef) (h : Core → Core) : (s.modCore c h).receiptNo = s.receiptNo := rfl
@[simp] theorem State.modCore_bootNo (s : State) (c : CoreRef) (h : Core → Core) : (s.modCore c h).bootNo = s.bootNo := rfl
@[simp] theorem State.modCore_bootJournal (s : State) (c : CoreRef) (h : Core → Core) : (s.modCore c h).bootJournal = s.bootJournal := rfl
@[simp] theorem State.modCore_bootSigs (s : State) (c : CoreRef) (h : Core → Core) : (s.modCore c h).bootSigs = s.bootSigs := rfl
@[simp] theorem State.modCore_repairs (s : State) (c : CoreRef) (h : Core → Core) : (s.modCore c h).repairs = s.repairs := rfl
@[simp] theorem State.modCore_channelsOff (s : State) (c : CoreRef) (h : Core → Core) : (s.modCore c h).channelsOff = s.channelsOff := rfl
@[simp] theorem State.modCore_grandmaster (s : State) (c : CoreRef) (h : Core → Core) : (s.modCore c h).grandmaster = s.grandmaster := rfl
@[simp] theorem State.modCore_clockOffset (s : State) (c : CoreRef) (h : Core → Core) : (s.modCore c h).clockOffset = s.clockOffset := rfl
@[simp] theorem State.modCore_steered (s : State) (c : CoreRef) (h : Core → Core) : (s.modCore c h).steered = s.steered := rfl
@[simp] theorem State.modCore_hostData (s : State) (c : CoreRef) (h : Core → Core) : (s.modCore c h).hostData = s.hostData := rfl

/-! `setCtx`. -/

@[simp] theorem State.setCtx_cur (s : State) (r : CtxRef) (x : Ctx) : (s.setCtx r x).cur = s.cur := rfl
@[simp] theorem State.setCtx_issue (s : State) (r : CtxRef) (x : Ctx) : (s.setCtx r x).issue = s.issue := rfl
@[simp] theorem State.setCtx_agenda (s : State) (r : CtxRef) (x : Ctx) : (s.setCtx r x).agenda = s.agenda := rfl
@[simp] theorem State.setCtx_turn (s : State) (r : CtxRef) (x : Ctx) : (s.setCtx r x).turn = s.turn := rfl
@[simp] theorem State.setCtx_running (s : State) (r : CtxRef) (x : Ctx) : (s.setCtx r x).running = s.running := rfl
@[simp] theorem State.setCtx_cycle (s : State) (r : CtxRef) (x : Ctx) : (s.setCtx r x).cycle = s.cycle := rfl
@[simp] theorem State.setCtx_time19 (s : State) (r : CtxRef) (x : Ctx) : (s.setCtx r x).time19 = s.time19 := rfl
@[simp] theorem State.setCtx_fresh (s : State) (r : CtxRef) (x : Ctx) : (s.setCtx r x).fresh = s.fresh := rfl
@[simp] theorem State.setCtx_nextId (s : State) (r : CtxRef) (x : Ctx) : (s.setCtx r x).nextId = s.nextId := rfl
@[simp] theorem State.setCtx_tower0 (s : State) (r : CtxRef) (x : Ctx) : (s.setCtx r x).tower0 = s.tower0 := rfl
@[simp] theorem State.setCtx_tower1 (s : State) (r : CtxRef) (x : Ctx) : (s.setCtx r x).tower1 = s.tower1 := rfl
@[simp] theorem State.setCtx_dev (s : State) (r : CtxRef) (x : Ctx) : (s.setCtx r x).dev = s.dev := rfl
@[simp] theorem State.setCtx_hostmem (s : State) (r : CtxRef) (x : Ctx) : (s.setCtx r x).hostmem = s.hostmem := rfl
@[simp] theorem State.setCtx_pieces (s : State) (r : CtxRef) (x : Ctx) : (s.setCtx r x).pieces = s.pieces := rfl
@[simp] theorem State.setCtx_cmds (s : State) (r : CtxRef) (x : Ctx) : (s.setCtx r x).cmds = s.cmds := rfl
@[simp] theorem State.setCtx_colls (s : State) (r : CtxRef) (x : Ctx) : (s.setCtx r x).colls = s.colls := rfl
@[simp] theorem State.setCtx_collsDone (s : State) (r : CtxRef) (x : Ctx) : (s.setCtx r x).collsDone = s.collsDone := rfl
@[simp] theorem State.setCtx_msgs (s : State) (r : CtxRef) (x : Ctx) : (s.setCtx r x).msgs = s.msgs := rfl
@[simp] theorem State.setCtx_adds (s : State) (r : CtxRef) (x : Ctx) : (s.setCtx r x).adds = s.adds := rfl
@[simp] theorem State.setCtx_jobs (s : State) (r : CtxRef) (x : Ctx) : (s.setCtx r x).jobs = s.jobs := rfl
@[simp] theorem State.setCtx_jobsDone (s : State) (r : CtxRef) (x : Ctx) : (s.setCtx r x).jobsDone = s.jobsDone := rfl
@[simp] theorem State.setCtx_scopes (s : State) (r : CtxRef) (x : Ctx) : (s.setCtx r x).scopes = s.scopes := rfl
@[simp] theorem State.setCtx_nodes (s : State) (r : CtxRef) (x : Ctx) : (s.setCtx r x).nodes = s.nodes := rfl
@[simp] theorem State.setCtx_spawnWait (s : State) (r : CtxRef) (x : Ctx) : (s.setCtx r x).spawnWait = s.spawnWait := rfl
@[simp] theorem State.setCtx_launches (s : State) (r : CtxRef) (x : Ctx) : (s.setCtx r x).launches = s.launches := rfl
@[simp] theorem State.setCtx_cancels (s : State) (r : CtxRef) (x : Ctx) : (s.setCtx r x).cancels = s.cancels := rfl
@[simp] theorem State.setCtx_invals (s : State) (r : CtxRef) (x : Ctx) : (s.setCtx r x).invals = s.invals := rfl
@[simp] theorem State.setCtx_heldWrites (s : State) (r : CtxRef) (x : Ctx) : (s.setCtx r x).heldWrites = s.heldWrites := rfl
@[simp] theorem State.setCtx_links (s : State) (r : CtxRef) (x : Ctx) : (s.setCtx r x).links = s.links := rfl
@[simp] theorem State.setCtx_deviceNumber (s : State) (r : CtxRef) (x : Ctx) : (s.setCtx r x).deviceNumber = s.deviceNumber := rfl
@[simp] theorem State.setCtx_peers (s : State) (r : CtxRef) (x : Ctx) : (s.setCtx r x).peers = s.peers := rfl
@[simp] theorem State.setCtx_keys (s : State) (r : CtxRef) (x : Ctx) : (s.setCtx r x).keys = s.keys := rfl
@[simp] theorem State.setCtx_rcmb (s : State) (r : CtxRef) (x : Ctx) : (s.setCtx r x).rcmb = s.rcmb := rfl
@[simp] theorem State.setCtx_mx6 (s : State) (r : CtxRef) (x : Ctx) : (s.setCtx r x).mx6 = s.mx6 := rfl
@[simp] theorem State.setCtx_service (s : State) (r : CtxRef) (x : Ctx) : (s.setCtx r x).service = s.service := rfl
@[simp] theorem State.setCtx_faulted (s : State) (r : CtxRef) (x : Ctx) : (s.setCtx r x).faulted = s.faulted := rfl
@[simp] theorem State.setCtx_selfTest (s : State) (r : CtxRef) (x : Ctx) : (s.setCtx r x).selfTest = s.selfTest := rfl
@[simp] theorem State.setCtx_toFull (s : State) (r : CtxRef) (x : Ctx) : (s.setCtx r x).toFull = s.toFull := rfl
@[simp] theorem State.setCtx_idKey (s : State) (r : CtxRef) (x : Ctx) : (s.setCtx r x).idKey = s.idKey := rfl
@[simp] theorem State.setCtx_fwFile (s : State) (r : CtxRef) (x : Ctx) : (s.setCtx r x).fwFile = s.fwFile := rfl
@[simp] theorem State.setCtx_receipts (s : State) (r : CtxRef) (x : Ctx) : (s.setCtx r x).receipts = s.receipts := rfl
@[simp] theorem State.setCtx_receiptNo (s : State) (r : CtxRef) (x : Ctx) : (s.setCtx r x).receiptNo = s.receiptNo := rfl
@[simp] theorem State.setCtx_bootNo (s : State) (r : CtxRef) (x : Ctx) : (s.setCtx r x).bootNo = s.bootNo := rfl
@[simp] theorem State.setCtx_bootJournal (s : State) (r : CtxRef) (x : Ctx) : (s.setCtx r x).bootJournal = s.bootJournal := rfl
@[simp] theorem State.setCtx_bootSigs (s : State) (r : CtxRef) (x : Ctx) : (s.setCtx r x).bootSigs = s.bootSigs := rfl
@[simp] theorem State.setCtx_repairs (s : State) (r : CtxRef) (x : Ctx) : (s.setCtx r x).repairs = s.repairs := rfl
@[simp] theorem State.setCtx_channelsOff (s : State) (r : CtxRef) (x : Ctx) : (s.setCtx r x).channelsOff = s.channelsOff := rfl
@[simp] theorem State.setCtx_grandmaster (s : State) (r : CtxRef) (x : Ctx) : (s.setCtx r x).grandmaster = s.grandmaster := rfl
@[simp] theorem State.setCtx_clockOffset (s : State) (r : CtxRef) (x : Ctx) : (s.setCtx r x).clockOffset = s.clockOffset := rfl
@[simp] theorem State.setCtx_steered (s : State) (r : CtxRef) (x : Ctx) : (s.setCtx r x).steered = s.steered := rfl
@[simp] theorem State.setCtx_hostData (s : State) (r : CtxRef) (x : Ctx) : (s.setCtx r x).hostData = s.hostData := rfl

/-! `modCtx`. -/

@[simp] theorem State.modCtx_cur (s : State) (r : CtxRef) (h : Ctx → Ctx) : (s.modCtx r h).cur = s.cur := rfl
@[simp] theorem State.modCtx_issue (s : State) (r : CtxRef) (h : Ctx → Ctx) : (s.modCtx r h).issue = s.issue := rfl
@[simp] theorem State.modCtx_agenda (s : State) (r : CtxRef) (h : Ctx → Ctx) : (s.modCtx r h).agenda = s.agenda := rfl
@[simp] theorem State.modCtx_turn (s : State) (r : CtxRef) (h : Ctx → Ctx) : (s.modCtx r h).turn = s.turn := rfl
@[simp] theorem State.modCtx_running (s : State) (r : CtxRef) (h : Ctx → Ctx) : (s.modCtx r h).running = s.running := rfl
@[simp] theorem State.modCtx_cycle (s : State) (r : CtxRef) (h : Ctx → Ctx) : (s.modCtx r h).cycle = s.cycle := rfl
@[simp] theorem State.modCtx_time19 (s : State) (r : CtxRef) (h : Ctx → Ctx) : (s.modCtx r h).time19 = s.time19 := rfl
@[simp] theorem State.modCtx_fresh (s : State) (r : CtxRef) (h : Ctx → Ctx) : (s.modCtx r h).fresh = s.fresh := rfl
@[simp] theorem State.modCtx_nextId (s : State) (r : CtxRef) (h : Ctx → Ctx) : (s.modCtx r h).nextId = s.nextId := rfl
@[simp] theorem State.modCtx_tower0 (s : State) (r : CtxRef) (h : Ctx → Ctx) : (s.modCtx r h).tower0 = s.tower0 := rfl
@[simp] theorem State.modCtx_tower1 (s : State) (r : CtxRef) (h : Ctx → Ctx) : (s.modCtx r h).tower1 = s.tower1 := rfl
@[simp] theorem State.modCtx_dev (s : State) (r : CtxRef) (h : Ctx → Ctx) : (s.modCtx r h).dev = s.dev := rfl
@[simp] theorem State.modCtx_hostmem (s : State) (r : CtxRef) (h : Ctx → Ctx) : (s.modCtx r h).hostmem = s.hostmem := rfl
@[simp] theorem State.modCtx_pieces (s : State) (r : CtxRef) (h : Ctx → Ctx) : (s.modCtx r h).pieces = s.pieces := rfl
@[simp] theorem State.modCtx_cmds (s : State) (r : CtxRef) (h : Ctx → Ctx) : (s.modCtx r h).cmds = s.cmds := rfl
@[simp] theorem State.modCtx_colls (s : State) (r : CtxRef) (h : Ctx → Ctx) : (s.modCtx r h).colls = s.colls := rfl
@[simp] theorem State.modCtx_collsDone (s : State) (r : CtxRef) (h : Ctx → Ctx) : (s.modCtx r h).collsDone = s.collsDone := rfl
@[simp] theorem State.modCtx_msgs (s : State) (r : CtxRef) (h : Ctx → Ctx) : (s.modCtx r h).msgs = s.msgs := rfl
@[simp] theorem State.modCtx_adds (s : State) (r : CtxRef) (h : Ctx → Ctx) : (s.modCtx r h).adds = s.adds := rfl
@[simp] theorem State.modCtx_jobs (s : State) (r : CtxRef) (h : Ctx → Ctx) : (s.modCtx r h).jobs = s.jobs := rfl
@[simp] theorem State.modCtx_jobsDone (s : State) (r : CtxRef) (h : Ctx → Ctx) : (s.modCtx r h).jobsDone = s.jobsDone := rfl
@[simp] theorem State.modCtx_scopes (s : State) (r : CtxRef) (h : Ctx → Ctx) : (s.modCtx r h).scopes = s.scopes := rfl
@[simp] theorem State.modCtx_nodes (s : State) (r : CtxRef) (h : Ctx → Ctx) : (s.modCtx r h).nodes = s.nodes := rfl
@[simp] theorem State.modCtx_spawnWait (s : State) (r : CtxRef) (h : Ctx → Ctx) : (s.modCtx r h).spawnWait = s.spawnWait := rfl
@[simp] theorem State.modCtx_launches (s : State) (r : CtxRef) (h : Ctx → Ctx) : (s.modCtx r h).launches = s.launches := rfl
@[simp] theorem State.modCtx_cancels (s : State) (r : CtxRef) (h : Ctx → Ctx) : (s.modCtx r h).cancels = s.cancels := rfl
@[simp] theorem State.modCtx_invals (s : State) (r : CtxRef) (h : Ctx → Ctx) : (s.modCtx r h).invals = s.invals := rfl
@[simp] theorem State.modCtx_heldWrites (s : State) (r : CtxRef) (h : Ctx → Ctx) : (s.modCtx r h).heldWrites = s.heldWrites := rfl
@[simp] theorem State.modCtx_links (s : State) (r : CtxRef) (h : Ctx → Ctx) : (s.modCtx r h).links = s.links := rfl
@[simp] theorem State.modCtx_deviceNumber (s : State) (r : CtxRef) (h : Ctx → Ctx) : (s.modCtx r h).deviceNumber = s.deviceNumber := rfl
@[simp] theorem State.modCtx_peers (s : State) (r : CtxRef) (h : Ctx → Ctx) : (s.modCtx r h).peers = s.peers := rfl
@[simp] theorem State.modCtx_keys (s : State) (r : CtxRef) (h : Ctx → Ctx) : (s.modCtx r h).keys = s.keys := rfl
@[simp] theorem State.modCtx_rcmb (s : State) (r : CtxRef) (h : Ctx → Ctx) : (s.modCtx r h).rcmb = s.rcmb := rfl
@[simp] theorem State.modCtx_mx6 (s : State) (r : CtxRef) (h : Ctx → Ctx) : (s.modCtx r h).mx6 = s.mx6 := rfl
@[simp] theorem State.modCtx_service (s : State) (r : CtxRef) (h : Ctx → Ctx) : (s.modCtx r h).service = s.service := rfl
@[simp] theorem State.modCtx_faulted (s : State) (r : CtxRef) (h : Ctx → Ctx) : (s.modCtx r h).faulted = s.faulted := rfl
@[simp] theorem State.modCtx_selfTest (s : State) (r : CtxRef) (h : Ctx → Ctx) : (s.modCtx r h).selfTest = s.selfTest := rfl
@[simp] theorem State.modCtx_toFull (s : State) (r : CtxRef) (h : Ctx → Ctx) : (s.modCtx r h).toFull = s.toFull := rfl
@[simp] theorem State.modCtx_idKey (s : State) (r : CtxRef) (h : Ctx → Ctx) : (s.modCtx r h).idKey = s.idKey := rfl
@[simp] theorem State.modCtx_fwFile (s : State) (r : CtxRef) (h : Ctx → Ctx) : (s.modCtx r h).fwFile = s.fwFile := rfl
@[simp] theorem State.modCtx_receipts (s : State) (r : CtxRef) (h : Ctx → Ctx) : (s.modCtx r h).receipts = s.receipts := rfl
@[simp] theorem State.modCtx_receiptNo (s : State) (r : CtxRef) (h : Ctx → Ctx) : (s.modCtx r h).receiptNo = s.receiptNo := rfl
@[simp] theorem State.modCtx_bootNo (s : State) (r : CtxRef) (h : Ctx → Ctx) : (s.modCtx r h).bootNo = s.bootNo := rfl
@[simp] theorem State.modCtx_bootJournal (s : State) (r : CtxRef) (h : Ctx → Ctx) : (s.modCtx r h).bootJournal = s.bootJournal := rfl
@[simp] theorem State.modCtx_bootSigs (s : State) (r : CtxRef) (h : Ctx → Ctx) : (s.modCtx r h).bootSigs = s.bootSigs := rfl
@[simp] theorem State.modCtx_repairs (s : State) (r : CtxRef) (h : Ctx → Ctx) : (s.modCtx r h).repairs = s.repairs := rfl
@[simp] theorem State.modCtx_channelsOff (s : State) (r : CtxRef) (h : Ctx → Ctx) : (s.modCtx r h).channelsOff = s.channelsOff := rfl
@[simp] theorem State.modCtx_grandmaster (s : State) (r : CtxRef) (h : Ctx → Ctx) : (s.modCtx r h).grandmaster = s.grandmaster := rfl
@[simp] theorem State.modCtx_clockOffset (s : State) (r : CtxRef) (h : Ctx → Ctx) : (s.modCtx r h).clockOffset = s.clockOffset := rfl
@[simp] theorem State.modCtx_steered (s : State) (r : CtxRef) (h : Ctx → Ctx) : (s.modCtx r h).steered = s.steered := rfl
@[simp] theorem State.modCtx_hostData (s : State) (r : CtxRef) (h : Ctx → Ctx) : (s.modCtx r h).hostData = s.hostData := rfl

/-! `setTower`. -/

@[simp] theorem State.setTower_cur (s : State) (t : Bool) (w : Tower) : (s.setTower t w).cur = s.cur := by cases t <;> rfl
@[simp] theorem State.setTower_issue (s : State) (t : Bool) (w : Tower) : (s.setTower t w).issue = s.issue := by cases t <;> rfl
@[simp] theorem State.setTower_agenda (s : State) (t : Bool) (w : Tower) : (s.setTower t w).agenda = s.agenda := by cases t <;> rfl
@[simp] theorem State.setTower_turn (s : State) (t : Bool) (w : Tower) : (s.setTower t w).turn = s.turn := by cases t <;> rfl
@[simp] theorem State.setTower_running (s : State) (t : Bool) (w : Tower) : (s.setTower t w).running = s.running := by cases t <;> rfl
@[simp] theorem State.setTower_cycle (s : State) (t : Bool) (w : Tower) : (s.setTower t w).cycle = s.cycle := by cases t <;> rfl
@[simp] theorem State.setTower_time19 (s : State) (t : Bool) (w : Tower) : (s.setTower t w).time19 = s.time19 := by cases t <;> rfl
@[simp] theorem State.setTower_fresh (s : State) (t : Bool) (w : Tower) : (s.setTower t w).fresh = s.fresh := by cases t <;> rfl
@[simp] theorem State.setTower_nextId (s : State) (t : Bool) (w : Tower) : (s.setTower t w).nextId = s.nextId := by cases t <;> rfl
@[simp] theorem State.setTower_cores (s : State) (t : Bool) (w : Tower) : (s.setTower t w).cores = s.cores := by cases t <;> rfl
@[simp] theorem State.setTower_dev (s : State) (t : Bool) (w : Tower) : (s.setTower t w).dev = s.dev := by cases t <;> rfl
@[simp] theorem State.setTower_hostmem (s : State) (t : Bool) (w : Tower) : (s.setTower t w).hostmem = s.hostmem := by cases t <;> rfl
@[simp] theorem State.setTower_pieces (s : State) (t : Bool) (w : Tower) : (s.setTower t w).pieces = s.pieces := by cases t <;> rfl
@[simp] theorem State.setTower_cmds (s : State) (t : Bool) (w : Tower) : (s.setTower t w).cmds = s.cmds := by cases t <;> rfl
@[simp] theorem State.setTower_colls (s : State) (t : Bool) (w : Tower) : (s.setTower t w).colls = s.colls := by cases t <;> rfl
@[simp] theorem State.setTower_collsDone (s : State) (t : Bool) (w : Tower) : (s.setTower t w).collsDone = s.collsDone := by cases t <;> rfl
@[simp] theorem State.setTower_msgs (s : State) (t : Bool) (w : Tower) : (s.setTower t w).msgs = s.msgs := by cases t <;> rfl
@[simp] theorem State.setTower_adds (s : State) (t : Bool) (w : Tower) : (s.setTower t w).adds = s.adds := by cases t <;> rfl
@[simp] theorem State.setTower_jobs (s : State) (t : Bool) (w : Tower) : (s.setTower t w).jobs = s.jobs := by cases t <;> rfl
@[simp] theorem State.setTower_jobsDone (s : State) (t : Bool) (w : Tower) : (s.setTower t w).jobsDone = s.jobsDone := by cases t <;> rfl
@[simp] theorem State.setTower_scopes (s : State) (t : Bool) (w : Tower) : (s.setTower t w).scopes = s.scopes := by cases t <;> rfl
@[simp] theorem State.setTower_nodes (s : State) (t : Bool) (w : Tower) : (s.setTower t w).nodes = s.nodes := by cases t <;> rfl
@[simp] theorem State.setTower_spawnWait (s : State) (t : Bool) (w : Tower) : (s.setTower t w).spawnWait = s.spawnWait := by cases t <;> rfl
@[simp] theorem State.setTower_launches (s : State) (t : Bool) (w : Tower) : (s.setTower t w).launches = s.launches := by cases t <;> rfl
@[simp] theorem State.setTower_cancels (s : State) (t : Bool) (w : Tower) : (s.setTower t w).cancels = s.cancels := by cases t <;> rfl
@[simp] theorem State.setTower_invals (s : State) (t : Bool) (w : Tower) : (s.setTower t w).invals = s.invals := by cases t <;> rfl
@[simp] theorem State.setTower_heldWrites (s : State) (t : Bool) (w : Tower) : (s.setTower t w).heldWrites = s.heldWrites := by cases t <;> rfl
@[simp] theorem State.setTower_links (s : State) (t : Bool) (w : Tower) : (s.setTower t w).links = s.links := by cases t <;> rfl
@[simp] theorem State.setTower_deviceNumber (s : State) (t : Bool) (w : Tower) : (s.setTower t w).deviceNumber = s.deviceNumber := by cases t <;> rfl
@[simp] theorem State.setTower_peers (s : State) (t : Bool) (w : Tower) : (s.setTower t w).peers = s.peers := by cases t <;> rfl
@[simp] theorem State.setTower_keys (s : State) (t : Bool) (w : Tower) : (s.setTower t w).keys = s.keys := by cases t <;> rfl
@[simp] theorem State.setTower_rcmb (s : State) (t : Bool) (w : Tower) : (s.setTower t w).rcmb = s.rcmb := by cases t <;> rfl
@[simp] theorem State.setTower_mx6 (s : State) (t : Bool) (w : Tower) : (s.setTower t w).mx6 = s.mx6 := by cases t <;> rfl
@[simp] theorem State.setTower_service (s : State) (t : Bool) (w : Tower) : (s.setTower t w).service = s.service := by cases t <;> rfl
@[simp] theorem State.setTower_faulted (s : State) (t : Bool) (w : Tower) : (s.setTower t w).faulted = s.faulted := by cases t <;> rfl
@[simp] theorem State.setTower_selfTest (s : State) (t : Bool) (w : Tower) : (s.setTower t w).selfTest = s.selfTest := by cases t <;> rfl
@[simp] theorem State.setTower_toFull (s : State) (t : Bool) (w : Tower) : (s.setTower t w).toFull = s.toFull := by cases t <;> rfl
@[simp] theorem State.setTower_idKey (s : State) (t : Bool) (w : Tower) : (s.setTower t w).idKey = s.idKey := by cases t <;> rfl
@[simp] theorem State.setTower_fwFile (s : State) (t : Bool) (w : Tower) : (s.setTower t w).fwFile = s.fwFile := by cases t <;> rfl
@[simp] theorem State.setTower_receipts (s : State) (t : Bool) (w : Tower) : (s.setTower t w).receipts = s.receipts := by cases t <;> rfl
@[simp] theorem State.setTower_receiptNo (s : State) (t : Bool) (w : Tower) : (s.setTower t w).receiptNo = s.receiptNo := by cases t <;> rfl
@[simp] theorem State.setTower_bootNo (s : State) (t : Bool) (w : Tower) : (s.setTower t w).bootNo = s.bootNo := by cases t <;> rfl
@[simp] theorem State.setTower_bootJournal (s : State) (t : Bool) (w : Tower) : (s.setTower t w).bootJournal = s.bootJournal := by cases t <;> rfl
@[simp] theorem State.setTower_bootSigs (s : State) (t : Bool) (w : Tower) : (s.setTower t w).bootSigs = s.bootSigs := by cases t <;> rfl
@[simp] theorem State.setTower_repairs (s : State) (t : Bool) (w : Tower) : (s.setTower t w).repairs = s.repairs := by cases t <;> rfl
@[simp] theorem State.setTower_channelsOff (s : State) (t : Bool) (w : Tower) : (s.setTower t w).channelsOff = s.channelsOff := by cases t <;> rfl
@[simp] theorem State.setTower_grandmaster (s : State) (t : Bool) (w : Tower) : (s.setTower t w).grandmaster = s.grandmaster := by cases t <;> rfl
@[simp] theorem State.setTower_clockOffset (s : State) (t : Bool) (w : Tower) : (s.setTower t w).clockOffset = s.clockOffset := by cases t <;> rfl
@[simp] theorem State.setTower_steered (s : State) (t : Bool) (w : Tower) : (s.setTower t w).steered = s.steered := by cases t <;> rfl
@[simp] theorem State.setTower_hostData (s : State) (t : Bool) (w : Tower) : (s.setTower t w).hostData = s.hostData := by cases t <;> rfl

/-! `modTower`. -/

@[simp] theorem State.modTower_cur (s : State) (t : Bool) (h : Tower → Tower) : (s.modTower t h).cur = s.cur := by cases t <;> rfl
@[simp] theorem State.modTower_issue (s : State) (t : Bool) (h : Tower → Tower) : (s.modTower t h).issue = s.issue := by cases t <;> rfl
@[simp] theorem State.modTower_agenda (s : State) (t : Bool) (h : Tower → Tower) : (s.modTower t h).agenda = s.agenda := by cases t <;> rfl
@[simp] theorem State.modTower_turn (s : State) (t : Bool) (h : Tower → Tower) : (s.modTower t h).turn = s.turn := by cases t <;> rfl
@[simp] theorem State.modTower_running (s : State) (t : Bool) (h : Tower → Tower) : (s.modTower t h).running = s.running := by cases t <;> rfl
@[simp] theorem State.modTower_cycle (s : State) (t : Bool) (h : Tower → Tower) : (s.modTower t h).cycle = s.cycle := by cases t <;> rfl
@[simp] theorem State.modTower_time19 (s : State) (t : Bool) (h : Tower → Tower) : (s.modTower t h).time19 = s.time19 := by cases t <;> rfl
@[simp] theorem State.modTower_fresh (s : State) (t : Bool) (h : Tower → Tower) : (s.modTower t h).fresh = s.fresh := by cases t <;> rfl
@[simp] theorem State.modTower_nextId (s : State) (t : Bool) (h : Tower → Tower) : (s.modTower t h).nextId = s.nextId := by cases t <;> rfl
@[simp] theorem State.modTower_cores (s : State) (t : Bool) (h : Tower → Tower) : (s.modTower t h).cores = s.cores := by cases t <;> rfl
@[simp] theorem State.modTower_dev (s : State) (t : Bool) (h : Tower → Tower) : (s.modTower t h).dev = s.dev := by cases t <;> rfl
@[simp] theorem State.modTower_hostmem (s : State) (t : Bool) (h : Tower → Tower) : (s.modTower t h).hostmem = s.hostmem := by cases t <;> rfl
@[simp] theorem State.modTower_pieces (s : State) (t : Bool) (h : Tower → Tower) : (s.modTower t h).pieces = s.pieces := by cases t <;> rfl
@[simp] theorem State.modTower_cmds (s : State) (t : Bool) (h : Tower → Tower) : (s.modTower t h).cmds = s.cmds := by cases t <;> rfl
@[simp] theorem State.modTower_colls (s : State) (t : Bool) (h : Tower → Tower) : (s.modTower t h).colls = s.colls := by cases t <;> rfl
@[simp] theorem State.modTower_collsDone (s : State) (t : Bool) (h : Tower → Tower) : (s.modTower t h).collsDone = s.collsDone := by cases t <;> rfl
@[simp] theorem State.modTower_msgs (s : State) (t : Bool) (h : Tower → Tower) : (s.modTower t h).msgs = s.msgs := by cases t <;> rfl
@[simp] theorem State.modTower_adds (s : State) (t : Bool) (h : Tower → Tower) : (s.modTower t h).adds = s.adds := by cases t <;> rfl
@[simp] theorem State.modTower_jobs (s : State) (t : Bool) (h : Tower → Tower) : (s.modTower t h).jobs = s.jobs := by cases t <;> rfl
@[simp] theorem State.modTower_jobsDone (s : State) (t : Bool) (h : Tower → Tower) : (s.modTower t h).jobsDone = s.jobsDone := by cases t <;> rfl
@[simp] theorem State.modTower_scopes (s : State) (t : Bool) (h : Tower → Tower) : (s.modTower t h).scopes = s.scopes := by cases t <;> rfl
@[simp] theorem State.modTower_nodes (s : State) (t : Bool) (h : Tower → Tower) : (s.modTower t h).nodes = s.nodes := by cases t <;> rfl
@[simp] theorem State.modTower_spawnWait (s : State) (t : Bool) (h : Tower → Tower) : (s.modTower t h).spawnWait = s.spawnWait := by cases t <;> rfl
@[simp] theorem State.modTower_launches (s : State) (t : Bool) (h : Tower → Tower) : (s.modTower t h).launches = s.launches := by cases t <;> rfl
@[simp] theorem State.modTower_cancels (s : State) (t : Bool) (h : Tower → Tower) : (s.modTower t h).cancels = s.cancels := by cases t <;> rfl
@[simp] theorem State.modTower_invals (s : State) (t : Bool) (h : Tower → Tower) : (s.modTower t h).invals = s.invals := by cases t <;> rfl
@[simp] theorem State.modTower_heldWrites (s : State) (t : Bool) (h : Tower → Tower) : (s.modTower t h).heldWrites = s.heldWrites := by cases t <;> rfl
@[simp] theorem State.modTower_links (s : State) (t : Bool) (h : Tower → Tower) : (s.modTower t h).links = s.links := by cases t <;> rfl
@[simp] theorem State.modTower_deviceNumber (s : State) (t : Bool) (h : Tower → Tower) : (s.modTower t h).deviceNumber = s.deviceNumber := by cases t <;> rfl
@[simp] theorem State.modTower_peers (s : State) (t : Bool) (h : Tower → Tower) : (s.modTower t h).peers = s.peers := by cases t <;> rfl
@[simp] theorem State.modTower_keys (s : State) (t : Bool) (h : Tower → Tower) : (s.modTower t h).keys = s.keys := by cases t <;> rfl
@[simp] theorem State.modTower_rcmb (s : State) (t : Bool) (h : Tower → Tower) : (s.modTower t h).rcmb = s.rcmb := by cases t <;> rfl
@[simp] theorem State.modTower_mx6 (s : State) (t : Bool) (h : Tower → Tower) : (s.modTower t h).mx6 = s.mx6 := by cases t <;> rfl
@[simp] theorem State.modTower_service (s : State) (t : Bool) (h : Tower → Tower) : (s.modTower t h).service = s.service := by cases t <;> rfl
@[simp] theorem State.modTower_faulted (s : State) (t : Bool) (h : Tower → Tower) : (s.modTower t h).faulted = s.faulted := by cases t <;> rfl
@[simp] theorem State.modTower_selfTest (s : State) (t : Bool) (h : Tower → Tower) : (s.modTower t h).selfTest = s.selfTest := by cases t <;> rfl
@[simp] theorem State.modTower_toFull (s : State) (t : Bool) (h : Tower → Tower) : (s.modTower t h).toFull = s.toFull := by cases t <;> rfl
@[simp] theorem State.modTower_idKey (s : State) (t : Bool) (h : Tower → Tower) : (s.modTower t h).idKey = s.idKey := by cases t <;> rfl
@[simp] theorem State.modTower_fwFile (s : State) (t : Bool) (h : Tower → Tower) : (s.modTower t h).fwFile = s.fwFile := by cases t <;> rfl
@[simp] theorem State.modTower_receipts (s : State) (t : Bool) (h : Tower → Tower) : (s.modTower t h).receipts = s.receipts := by cases t <;> rfl
@[simp] theorem State.modTower_receiptNo (s : State) (t : Bool) (h : Tower → Tower) : (s.modTower t h).receiptNo = s.receiptNo := by cases t <;> rfl
@[simp] theorem State.modTower_bootNo (s : State) (t : Bool) (h : Tower → Tower) : (s.modTower t h).bootNo = s.bootNo := by cases t <;> rfl
@[simp] theorem State.modTower_bootJournal (s : State) (t : Bool) (h : Tower → Tower) : (s.modTower t h).bootJournal = s.bootJournal := by cases t <;> rfl
@[simp] theorem State.modTower_bootSigs (s : State) (t : Bool) (h : Tower → Tower) : (s.modTower t h).bootSigs = s.bootSigs := by cases t <;> rfl
@[simp] theorem State.modTower_repairs (s : State) (t : Bool) (h : Tower → Tower) : (s.modTower t h).repairs = s.repairs := by cases t <;> rfl
@[simp] theorem State.modTower_channelsOff (s : State) (t : Bool) (h : Tower → Tower) : (s.modTower t h).channelsOff = s.channelsOff := by cases t <;> rfl
@[simp] theorem State.modTower_grandmaster (s : State) (t : Bool) (h : Tower → Tower) : (s.modTower t h).grandmaster = s.grandmaster := by cases t <;> rfl
@[simp] theorem State.modTower_clockOffset (s : State) (t : Bool) (h : Tower → Tower) : (s.modTower t h).clockOffset = s.clockOffset := by cases t <;> rfl
@[simp] theorem State.modTower_steered (s : State) (t : Bool) (h : Tower → Tower) : (s.modTower t h).steered = s.steered := by cases t <;> rfl
@[simp] theorem State.modTower_hostData (s : State) (t : Bool) (h : Tower → Tower) : (s.modTower t h).hostData = s.hostData := by cases t <;> rfl

/-! `modJob`. -/

@[simp] theorem State.modJob_cur (s : State) (n : Nat) (h : Job → Job) : (s.modJob n h).cur = s.cur := rfl
@[simp] theorem State.modJob_issue (s : State) (n : Nat) (h : Job → Job) : (s.modJob n h).issue = s.issue := rfl
@[simp] theorem State.modJob_agenda (s : State) (n : Nat) (h : Job → Job) : (s.modJob n h).agenda = s.agenda := rfl
@[simp] theorem State.modJob_turn (s : State) (n : Nat) (h : Job → Job) : (s.modJob n h).turn = s.turn := rfl
@[simp] theorem State.modJob_running (s : State) (n : Nat) (h : Job → Job) : (s.modJob n h).running = s.running := rfl
@[simp] theorem State.modJob_cycle (s : State) (n : Nat) (h : Job → Job) : (s.modJob n h).cycle = s.cycle := rfl
@[simp] theorem State.modJob_time19 (s : State) (n : Nat) (h : Job → Job) : (s.modJob n h).time19 = s.time19 := rfl
@[simp] theorem State.modJob_fresh (s : State) (n : Nat) (h : Job → Job) : (s.modJob n h).fresh = s.fresh := rfl
@[simp] theorem State.modJob_nextId (s : State) (n : Nat) (h : Job → Job) : (s.modJob n h).nextId = s.nextId := rfl
@[simp] theorem State.modJob_cores (s : State) (n : Nat) (h : Job → Job) : (s.modJob n h).cores = s.cores := rfl
@[simp] theorem State.modJob_tower0 (s : State) (n : Nat) (h : Job → Job) : (s.modJob n h).tower0 = s.tower0 := rfl
@[simp] theorem State.modJob_tower1 (s : State) (n : Nat) (h : Job → Job) : (s.modJob n h).tower1 = s.tower1 := rfl
@[simp] theorem State.modJob_dev (s : State) (n : Nat) (h : Job → Job) : (s.modJob n h).dev = s.dev := rfl
@[simp] theorem State.modJob_hostmem (s : State) (n : Nat) (h : Job → Job) : (s.modJob n h).hostmem = s.hostmem := rfl
@[simp] theorem State.modJob_pieces (s : State) (n : Nat) (h : Job → Job) : (s.modJob n h).pieces = s.pieces := rfl
@[simp] theorem State.modJob_cmds (s : State) (n : Nat) (h : Job → Job) : (s.modJob n h).cmds = s.cmds := rfl
@[simp] theorem State.modJob_colls (s : State) (n : Nat) (h : Job → Job) : (s.modJob n h).colls = s.colls := rfl
@[simp] theorem State.modJob_collsDone (s : State) (n : Nat) (h : Job → Job) : (s.modJob n h).collsDone = s.collsDone := rfl
@[simp] theorem State.modJob_msgs (s : State) (n : Nat) (h : Job → Job) : (s.modJob n h).msgs = s.msgs := rfl
@[simp] theorem State.modJob_adds (s : State) (n : Nat) (h : Job → Job) : (s.modJob n h).adds = s.adds := rfl
@[simp] theorem State.modJob_jobsDone (s : State) (n : Nat) (h : Job → Job) : (s.modJob n h).jobsDone = s.jobsDone := rfl
@[simp] theorem State.modJob_scopes (s : State) (n : Nat) (h : Job → Job) : (s.modJob n h).scopes = s.scopes := rfl
@[simp] theorem State.modJob_nodes (s : State) (n : Nat) (h : Job → Job) : (s.modJob n h).nodes = s.nodes := rfl
@[simp] theorem State.modJob_spawnWait (s : State) (n : Nat) (h : Job → Job) : (s.modJob n h).spawnWait = s.spawnWait := rfl
@[simp] theorem State.modJob_launches (s : State) (n : Nat) (h : Job → Job) : (s.modJob n h).launches = s.launches := rfl
@[simp] theorem State.modJob_cancels (s : State) (n : Nat) (h : Job → Job) : (s.modJob n h).cancels = s.cancels := rfl
@[simp] theorem State.modJob_invals (s : State) (n : Nat) (h : Job → Job) : (s.modJob n h).invals = s.invals := rfl
@[simp] theorem State.modJob_heldWrites (s : State) (n : Nat) (h : Job → Job) : (s.modJob n h).heldWrites = s.heldWrites := rfl
@[simp] theorem State.modJob_links (s : State) (n : Nat) (h : Job → Job) : (s.modJob n h).links = s.links := rfl
@[simp] theorem State.modJob_deviceNumber (s : State) (n : Nat) (h : Job → Job) : (s.modJob n h).deviceNumber = s.deviceNumber := rfl
@[simp] theorem State.modJob_peers (s : State) (n : Nat) (h : Job → Job) : (s.modJob n h).peers = s.peers := rfl
@[simp] theorem State.modJob_keys (s : State) (n : Nat) (h : Job → Job) : (s.modJob n h).keys = s.keys := rfl
@[simp] theorem State.modJob_rcmb (s : State) (n : Nat) (h : Job → Job) : (s.modJob n h).rcmb = s.rcmb := rfl
@[simp] theorem State.modJob_mx6 (s : State) (n : Nat) (h : Job → Job) : (s.modJob n h).mx6 = s.mx6 := rfl
@[simp] theorem State.modJob_service (s : State) (n : Nat) (h : Job → Job) : (s.modJob n h).service = s.service := rfl
@[simp] theorem State.modJob_faulted (s : State) (n : Nat) (h : Job → Job) : (s.modJob n h).faulted = s.faulted := rfl
@[simp] theorem State.modJob_selfTest (s : State) (n : Nat) (h : Job → Job) : (s.modJob n h).selfTest = s.selfTest := rfl
@[simp] theorem State.modJob_toFull (s : State) (n : Nat) (h : Job → Job) : (s.modJob n h).toFull = s.toFull := rfl
@[simp] theorem State.modJob_idKey (s : State) (n : Nat) (h : Job → Job) : (s.modJob n h).idKey = s.idKey := rfl
@[simp] theorem State.modJob_fwFile (s : State) (n : Nat) (h : Job → Job) : (s.modJob n h).fwFile = s.fwFile := rfl
@[simp] theorem State.modJob_receipts (s : State) (n : Nat) (h : Job → Job) : (s.modJob n h).receipts = s.receipts := rfl
@[simp] theorem State.modJob_receiptNo (s : State) (n : Nat) (h : Job → Job) : (s.modJob n h).receiptNo = s.receiptNo := rfl
@[simp] theorem State.modJob_bootNo (s : State) (n : Nat) (h : Job → Job) : (s.modJob n h).bootNo = s.bootNo := rfl
@[simp] theorem State.modJob_bootJournal (s : State) (n : Nat) (h : Job → Job) : (s.modJob n h).bootJournal = s.bootJournal := rfl
@[simp] theorem State.modJob_bootSigs (s : State) (n : Nat) (h : Job → Job) : (s.modJob n h).bootSigs = s.bootSigs := rfl
@[simp] theorem State.modJob_repairs (s : State) (n : Nat) (h : Job → Job) : (s.modJob n h).repairs = s.repairs := rfl
@[simp] theorem State.modJob_channelsOff (s : State) (n : Nat) (h : Job → Job) : (s.modJob n h).channelsOff = s.channelsOff := rfl
@[simp] theorem State.modJob_grandmaster (s : State) (n : Nat) (h : Job → Job) : (s.modJob n h).grandmaster = s.grandmaster := rfl
@[simp] theorem State.modJob_clockOffset (s : State) (n : Nat) (h : Job → Job) : (s.modJob n h).clockOffset = s.clockOffset := rfl
@[simp] theorem State.modJob_steered (s : State) (n : Nat) (h : Job → Job) : (s.modJob n h).steered = s.steered := rfl
@[simp] theorem State.modJob_hostData (s : State) (n : Nat) (h : Job → Job) : (s.modJob n h).hostData = s.hostData := rfl

/-! `modScope`. -/

@[simp] theorem State.modScope_cur (s : State) (b : Bool) (n : Nat) (h : Scope → Scope) : (s.modScope b n h).cur = s.cur := rfl
@[simp] theorem State.modScope_issue (s : State) (b : Bool) (n : Nat) (h : Scope → Scope) : (s.modScope b n h).issue = s.issue := rfl
@[simp] theorem State.modScope_agenda (s : State) (b : Bool) (n : Nat) (h : Scope → Scope) : (s.modScope b n h).agenda = s.agenda := rfl
@[simp] theorem State.modScope_turn (s : State) (b : Bool) (n : Nat) (h : Scope → Scope) : (s.modScope b n h).turn = s.turn := rfl
@[simp] theorem State.modScope_running (s : State) (b : Bool) (n : Nat) (h : Scope → Scope) : (s.modScope b n h).running = s.running := rfl
@[simp] theorem State.modScope_cycle (s : State) (b : Bool) (n : Nat) (h : Scope → Scope) : (s.modScope b n h).cycle = s.cycle := rfl
@[simp] theorem State.modScope_time19 (s : State) (b : Bool) (n : Nat) (h : Scope → Scope) : (s.modScope b n h).time19 = s.time19 := rfl
@[simp] theorem State.modScope_fresh (s : State) (b : Bool) (n : Nat) (h : Scope → Scope) : (s.modScope b n h).fresh = s.fresh := rfl
@[simp] theorem State.modScope_nextId (s : State) (b : Bool) (n : Nat) (h : Scope → Scope) : (s.modScope b n h).nextId = s.nextId := rfl
@[simp] theorem State.modScope_cores (s : State) (b : Bool) (n : Nat) (h : Scope → Scope) : (s.modScope b n h).cores = s.cores := rfl
@[simp] theorem State.modScope_tower0 (s : State) (b : Bool) (n : Nat) (h : Scope → Scope) : (s.modScope b n h).tower0 = s.tower0 := rfl
@[simp] theorem State.modScope_tower1 (s : State) (b : Bool) (n : Nat) (h : Scope → Scope) : (s.modScope b n h).tower1 = s.tower1 := rfl
@[simp] theorem State.modScope_dev (s : State) (b : Bool) (n : Nat) (h : Scope → Scope) : (s.modScope b n h).dev = s.dev := rfl
@[simp] theorem State.modScope_hostmem (s : State) (b : Bool) (n : Nat) (h : Scope → Scope) : (s.modScope b n h).hostmem = s.hostmem := rfl
@[simp] theorem State.modScope_pieces (s : State) (b : Bool) (n : Nat) (h : Scope → Scope) : (s.modScope b n h).pieces = s.pieces := rfl
@[simp] theorem State.modScope_cmds (s : State) (b : Bool) (n : Nat) (h : Scope → Scope) : (s.modScope b n h).cmds = s.cmds := rfl
@[simp] theorem State.modScope_colls (s : State) (b : Bool) (n : Nat) (h : Scope → Scope) : (s.modScope b n h).colls = s.colls := rfl
@[simp] theorem State.modScope_collsDone (s : State) (b : Bool) (n : Nat) (h : Scope → Scope) : (s.modScope b n h).collsDone = s.collsDone := rfl
@[simp] theorem State.modScope_msgs (s : State) (b : Bool) (n : Nat) (h : Scope → Scope) : (s.modScope b n h).msgs = s.msgs := rfl
@[simp] theorem State.modScope_adds (s : State) (b : Bool) (n : Nat) (h : Scope → Scope) : (s.modScope b n h).adds = s.adds := rfl
@[simp] theorem State.modScope_jobs (s : State) (b : Bool) (n : Nat) (h : Scope → Scope) : (s.modScope b n h).jobs = s.jobs := rfl
@[simp] theorem State.modScope_jobsDone (s : State) (b : Bool) (n : Nat) (h : Scope → Scope) : (s.modScope b n h).jobsDone = s.jobsDone := rfl
@[simp] theorem State.modScope_nodes (s : State) (b : Bool) (n : Nat) (h : Scope → Scope) : (s.modScope b n h).nodes = s.nodes := rfl
@[simp] theorem State.modScope_spawnWait (s : State) (b : Bool) (n : Nat) (h : Scope → Scope) : (s.modScope b n h).spawnWait = s.spawnWait := rfl
@[simp] theorem State.modScope_launches (s : State) (b : Bool) (n : Nat) (h : Scope → Scope) : (s.modScope b n h).launches = s.launches := rfl
@[simp] theorem State.modScope_cancels (s : State) (b : Bool) (n : Nat) (h : Scope → Scope) : (s.modScope b n h).cancels = s.cancels := rfl
@[simp] theorem State.modScope_invals (s : State) (b : Bool) (n : Nat) (h : Scope → Scope) : (s.modScope b n h).invals = s.invals := rfl
@[simp] theorem State.modScope_heldWrites (s : State) (b : Bool) (n : Nat) (h : Scope → Scope) : (s.modScope b n h).heldWrites = s.heldWrites := rfl
@[simp] theorem State.modScope_links (s : State) (b : Bool) (n : Nat) (h : Scope → Scope) : (s.modScope b n h).links = s.links := rfl
@[simp] theorem State.modScope_deviceNumber (s : State) (b : Bool) (n : Nat) (h : Scope → Scope) : (s.modScope b n h).deviceNumber = s.deviceNumber := rfl
@[simp] theorem State.modScope_peers (s : State) (b : Bool) (n : Nat) (h : Scope → Scope) : (s.modScope b n h).peers = s.peers := rfl
@[simp] theorem State.modScope_keys (s : State) (b : Bool) (n : Nat) (h : Scope → Scope) : (s.modScope b n h).keys = s.keys := rfl
@[simp] theorem State.modScope_rcmb (s : State) (b : Bool) (n : Nat) (h : Scope → Scope) : (s.modScope b n h).rcmb = s.rcmb := rfl
@[simp] theorem State.modScope_mx6 (s : State) (b : Bool) (n : Nat) (h : Scope → Scope) : (s.modScope b n h).mx6 = s.mx6 := rfl
@[simp] theorem State.modScope_service (s : State) (b : Bool) (n : Nat) (h : Scope → Scope) : (s.modScope b n h).service = s.service := rfl
@[simp] theorem State.modScope_faulted (s : State) (b : Bool) (n : Nat) (h : Scope → Scope) : (s.modScope b n h).faulted = s.faulted := rfl
@[simp] theorem State.modScope_selfTest (s : State) (b : Bool) (n : Nat) (h : Scope → Scope) : (s.modScope b n h).selfTest = s.selfTest := rfl
@[simp] theorem State.modScope_toFull (s : State) (b : Bool) (n : Nat) (h : Scope → Scope) : (s.modScope b n h).toFull = s.toFull := rfl
@[simp] theorem State.modScope_idKey (s : State) (b : Bool) (n : Nat) (h : Scope → Scope) : (s.modScope b n h).idKey = s.idKey := rfl
@[simp] theorem State.modScope_fwFile (s : State) (b : Bool) (n : Nat) (h : Scope → Scope) : (s.modScope b n h).fwFile = s.fwFile := rfl
@[simp] theorem State.modScope_receipts (s : State) (b : Bool) (n : Nat) (h : Scope → Scope) : (s.modScope b n h).receipts = s.receipts := rfl
@[simp] theorem State.modScope_receiptNo (s : State) (b : Bool) (n : Nat) (h : Scope → Scope) : (s.modScope b n h).receiptNo = s.receiptNo := rfl
@[simp] theorem State.modScope_bootNo (s : State) (b : Bool) (n : Nat) (h : Scope → Scope) : (s.modScope b n h).bootNo = s.bootNo := rfl
@[simp] theorem State.modScope_bootJournal (s : State) (b : Bool) (n : Nat) (h : Scope → Scope) : (s.modScope b n h).bootJournal = s.bootJournal := rfl
@[simp] theorem State.modScope_bootSigs (s : State) (b : Bool) (n : Nat) (h : Scope → Scope) : (s.modScope b n h).bootSigs = s.bootSigs := rfl
@[simp] theorem State.modScope_repairs (s : State) (b : Bool) (n : Nat) (h : Scope → Scope) : (s.modScope b n h).repairs = s.repairs := rfl
@[simp] theorem State.modScope_channelsOff (s : State) (b : Bool) (n : Nat) (h : Scope → Scope) : (s.modScope b n h).channelsOff = s.channelsOff := rfl
@[simp] theorem State.modScope_grandmaster (s : State) (b : Bool) (n : Nat) (h : Scope → Scope) : (s.modScope b n h).grandmaster = s.grandmaster := rfl
@[simp] theorem State.modScope_clockOffset (s : State) (b : Bool) (n : Nat) (h : Scope → Scope) : (s.modScope b n h).clockOffset = s.clockOffset := rfl
@[simp] theorem State.modScope_steered (s : State) (b : Bool) (n : Nat) (h : Scope → Scope) : (s.modScope b n h).steered = s.steered := rfl
@[simp] theorem State.modScope_hostData (s : State) (b : Bool) (n : Nat) (h : Scope → Scope) : (s.modScope b n h).hostData = s.hostData := rfl

/-! `modNode`. -/

@[simp] theorem State.modNode_cur (s : State) (n : Nat) (h : Node → Node) : (s.modNode n h).cur = s.cur := rfl
@[simp] theorem State.modNode_issue (s : State) (n : Nat) (h : Node → Node) : (s.modNode n h).issue = s.issue := rfl
@[simp] theorem State.modNode_agenda (s : State) (n : Nat) (h : Node → Node) : (s.modNode n h).agenda = s.agenda := rfl
@[simp] theorem State.modNode_turn (s : State) (n : Nat) (h : Node → Node) : (s.modNode n h).turn = s.turn := rfl
@[simp] theorem State.modNode_running (s : State) (n : Nat) (h : Node → Node) : (s.modNode n h).running = s.running := rfl
@[simp] theorem State.modNode_cycle (s : State) (n : Nat) (h : Node → Node) : (s.modNode n h).cycle = s.cycle := rfl
@[simp] theorem State.modNode_time19 (s : State) (n : Nat) (h : Node → Node) : (s.modNode n h).time19 = s.time19 := rfl
@[simp] theorem State.modNode_fresh (s : State) (n : Nat) (h : Node → Node) : (s.modNode n h).fresh = s.fresh := rfl
@[simp] theorem State.modNode_nextId (s : State) (n : Nat) (h : Node → Node) : (s.modNode n h).nextId = s.nextId := rfl
@[simp] theorem State.modNode_cores (s : State) (n : Nat) (h : Node → Node) : (s.modNode n h).cores = s.cores := rfl
@[simp] theorem State.modNode_tower0 (s : State) (n : Nat) (h : Node → Node) : (s.modNode n h).tower0 = s.tower0 := rfl
@[simp] theorem State.modNode_tower1 (s : State) (n : Nat) (h : Node → Node) : (s.modNode n h).tower1 = s.tower1 := rfl
@[simp] theorem State.modNode_dev (s : State) (n : Nat) (h : Node → Node) : (s.modNode n h).dev = s.dev := rfl
@[simp] theorem State.modNode_hostmem (s : State) (n : Nat) (h : Node → Node) : (s.modNode n h).hostmem = s.hostmem := rfl
@[simp] theorem State.modNode_pieces (s : State) (n : Nat) (h : Node → Node) : (s.modNode n h).pieces = s.pieces := rfl
@[simp] theorem State.modNode_cmds (s : State) (n : Nat) (h : Node → Node) : (s.modNode n h).cmds = s.cmds := rfl
@[simp] theorem State.modNode_colls (s : State) (n : Nat) (h : Node → Node) : (s.modNode n h).colls = s.colls := rfl
@[simp] theorem State.modNode_collsDone (s : State) (n : Nat) (h : Node → Node) : (s.modNode n h).collsDone = s.collsDone := rfl
@[simp] theorem State.modNode_msgs (s : State) (n : Nat) (h : Node → Node) : (s.modNode n h).msgs = s.msgs := rfl
@[simp] theorem State.modNode_adds (s : State) (n : Nat) (h : Node → Node) : (s.modNode n h).adds = s.adds := rfl
@[simp] theorem State.modNode_jobs (s : State) (n : Nat) (h : Node → Node) : (s.modNode n h).jobs = s.jobs := rfl
@[simp] theorem State.modNode_jobsDone (s : State) (n : Nat) (h : Node → Node) : (s.modNode n h).jobsDone = s.jobsDone := rfl
@[simp] theorem State.modNode_scopes (s : State) (n : Nat) (h : Node → Node) : (s.modNode n h).scopes = s.scopes := rfl
@[simp] theorem State.modNode_spawnWait (s : State) (n : Nat) (h : Node → Node) : (s.modNode n h).spawnWait = s.spawnWait := rfl
@[simp] theorem State.modNode_launches (s : State) (n : Nat) (h : Node → Node) : (s.modNode n h).launches = s.launches := rfl
@[simp] theorem State.modNode_cancels (s : State) (n : Nat) (h : Node → Node) : (s.modNode n h).cancels = s.cancels := rfl
@[simp] theorem State.modNode_invals (s : State) (n : Nat) (h : Node → Node) : (s.modNode n h).invals = s.invals := rfl
@[simp] theorem State.modNode_heldWrites (s : State) (n : Nat) (h : Node → Node) : (s.modNode n h).heldWrites = s.heldWrites := rfl
@[simp] theorem State.modNode_links (s : State) (n : Nat) (h : Node → Node) : (s.modNode n h).links = s.links := rfl
@[simp] theorem State.modNode_deviceNumber (s : State) (n : Nat) (h : Node → Node) : (s.modNode n h).deviceNumber = s.deviceNumber := rfl
@[simp] theorem State.modNode_peers (s : State) (n : Nat) (h : Node → Node) : (s.modNode n h).peers = s.peers := rfl
@[simp] theorem State.modNode_keys (s : State) (n : Nat) (h : Node → Node) : (s.modNode n h).keys = s.keys := rfl
@[simp] theorem State.modNode_rcmb (s : State) (n : Nat) (h : Node → Node) : (s.modNode n h).rcmb = s.rcmb := rfl
@[simp] theorem State.modNode_mx6 (s : State) (n : Nat) (h : Node → Node) : (s.modNode n h).mx6 = s.mx6 := rfl
@[simp] theorem State.modNode_service (s : State) (n : Nat) (h : Node → Node) : (s.modNode n h).service = s.service := rfl
@[simp] theorem State.modNode_faulted (s : State) (n : Nat) (h : Node → Node) : (s.modNode n h).faulted = s.faulted := rfl
@[simp] theorem State.modNode_selfTest (s : State) (n : Nat) (h : Node → Node) : (s.modNode n h).selfTest = s.selfTest := rfl
@[simp] theorem State.modNode_toFull (s : State) (n : Nat) (h : Node → Node) : (s.modNode n h).toFull = s.toFull := rfl
@[simp] theorem State.modNode_idKey (s : State) (n : Nat) (h : Node → Node) : (s.modNode n h).idKey = s.idKey := rfl
@[simp] theorem State.modNode_fwFile (s : State) (n : Nat) (h : Node → Node) : (s.modNode n h).fwFile = s.fwFile := rfl
@[simp] theorem State.modNode_receipts (s : State) (n : Nat) (h : Node → Node) : (s.modNode n h).receipts = s.receipts := rfl
@[simp] theorem State.modNode_receiptNo (s : State) (n : Nat) (h : Node → Node) : (s.modNode n h).receiptNo = s.receiptNo := rfl
@[simp] theorem State.modNode_bootNo (s : State) (n : Nat) (h : Node → Node) : (s.modNode n h).bootNo = s.bootNo := rfl
@[simp] theorem State.modNode_bootJournal (s : State) (n : Nat) (h : Node → Node) : (s.modNode n h).bootJournal = s.bootJournal := rfl
@[simp] theorem State.modNode_bootSigs (s : State) (n : Nat) (h : Node → Node) : (s.modNode n h).bootSigs = s.bootSigs := rfl
@[simp] theorem State.modNode_repairs (s : State) (n : Nat) (h : Node → Node) : (s.modNode n h).repairs = s.repairs := rfl
@[simp] theorem State.modNode_channelsOff (s : State) (n : Nat) (h : Node → Node) : (s.modNode n h).channelsOff = s.channelsOff := rfl
@[simp] theorem State.modNode_grandmaster (s : State) (n : Nat) (h : Node → Node) : (s.modNode n h).grandmaster = s.grandmaster := rfl
@[simp] theorem State.modNode_clockOffset (s : State) (n : Nat) (h : Node → Node) : (s.modNode n h).clockOffset = s.clockOffset := rfl
@[simp] theorem State.modNode_steered (s : State) (n : Nat) (h : Node → Node) : (s.modNode n h).steered = s.steered := rfl
@[simp] theorem State.modNode_hostData (s : State) (n : Nat) (h : Node → Node) : (s.modNode n h).hostData = s.hostData := rfl

/-! `modDmem`. -/

@[simp] theorem State.modDmem_cur (s : State) (sp : DevSpace) (h : DevMem → DevMem) : (s.modDmem sp h).cur = s.cur := by cases sp <;> simp [State.modDmem]
@[simp] theorem State.modDmem_issue (s : State) (sp : DevSpace) (h : DevMem → DevMem) : (s.modDmem sp h).issue = s.issue := by cases sp <;> simp [State.modDmem]
@[simp] theorem State.modDmem_agenda (s : State) (sp : DevSpace) (h : DevMem → DevMem) : (s.modDmem sp h).agenda = s.agenda := by cases sp <;> simp [State.modDmem]
@[simp] theorem State.modDmem_turn (s : State) (sp : DevSpace) (h : DevMem → DevMem) : (s.modDmem sp h).turn = s.turn := by cases sp <;> simp [State.modDmem]
@[simp] theorem State.modDmem_running (s : State) (sp : DevSpace) (h : DevMem → DevMem) : (s.modDmem sp h).running = s.running := by cases sp <;> simp [State.modDmem]
@[simp] theorem State.modDmem_cycle (s : State) (sp : DevSpace) (h : DevMem → DevMem) : (s.modDmem sp h).cycle = s.cycle := by cases sp <;> simp [State.modDmem]
@[simp] theorem State.modDmem_time19 (s : State) (sp : DevSpace) (h : DevMem → DevMem) : (s.modDmem sp h).time19 = s.time19 := by cases sp <;> simp [State.modDmem]
@[simp] theorem State.modDmem_fresh (s : State) (sp : DevSpace) (h : DevMem → DevMem) : (s.modDmem sp h).fresh = s.fresh := by cases sp <;> simp [State.modDmem]
@[simp] theorem State.modDmem_nextId (s : State) (sp : DevSpace) (h : DevMem → DevMem) : (s.modDmem sp h).nextId = s.nextId := by cases sp <;> simp [State.modDmem]
@[simp] theorem State.modDmem_cores (s : State) (sp : DevSpace) (h : DevMem → DevMem) : (s.modDmem sp h).cores = s.cores := by cases sp <;> simp [State.modDmem]
@[simp] theorem State.modDmem_hostmem (s : State) (sp : DevSpace) (h : DevMem → DevMem) : (s.modDmem sp h).hostmem = s.hostmem := by cases sp <;> simp [State.modDmem]
@[simp] theorem State.modDmem_pieces (s : State) (sp : DevSpace) (h : DevMem → DevMem) : (s.modDmem sp h).pieces = s.pieces := by cases sp <;> simp [State.modDmem]
@[simp] theorem State.modDmem_cmds (s : State) (sp : DevSpace) (h : DevMem → DevMem) : (s.modDmem sp h).cmds = s.cmds := by cases sp <;> simp [State.modDmem]
@[simp] theorem State.modDmem_colls (s : State) (sp : DevSpace) (h : DevMem → DevMem) : (s.modDmem sp h).colls = s.colls := by cases sp <;> simp [State.modDmem]
@[simp] theorem State.modDmem_collsDone (s : State) (sp : DevSpace) (h : DevMem → DevMem) : (s.modDmem sp h).collsDone = s.collsDone := by cases sp <;> simp [State.modDmem]
@[simp] theorem State.modDmem_msgs (s : State) (sp : DevSpace) (h : DevMem → DevMem) : (s.modDmem sp h).msgs = s.msgs := by cases sp <;> simp [State.modDmem]
@[simp] theorem State.modDmem_adds (s : State) (sp : DevSpace) (h : DevMem → DevMem) : (s.modDmem sp h).adds = s.adds := by cases sp <;> simp [State.modDmem]
@[simp] theorem State.modDmem_jobs (s : State) (sp : DevSpace) (h : DevMem → DevMem) : (s.modDmem sp h).jobs = s.jobs := by cases sp <;> simp [State.modDmem]
@[simp] theorem State.modDmem_jobsDone (s : State) (sp : DevSpace) (h : DevMem → DevMem) : (s.modDmem sp h).jobsDone = s.jobsDone := by cases sp <;> simp [State.modDmem]
@[simp] theorem State.modDmem_scopes (s : State) (sp : DevSpace) (h : DevMem → DevMem) : (s.modDmem sp h).scopes = s.scopes := by cases sp <;> simp [State.modDmem]
@[simp] theorem State.modDmem_nodes (s : State) (sp : DevSpace) (h : DevMem → DevMem) : (s.modDmem sp h).nodes = s.nodes := by cases sp <;> simp [State.modDmem]
@[simp] theorem State.modDmem_spawnWait (s : State) (sp : DevSpace) (h : DevMem → DevMem) : (s.modDmem sp h).spawnWait = s.spawnWait := by cases sp <;> simp [State.modDmem]
@[simp] theorem State.modDmem_launches (s : State) (sp : DevSpace) (h : DevMem → DevMem) : (s.modDmem sp h).launches = s.launches := by cases sp <;> simp [State.modDmem]
@[simp] theorem State.modDmem_cancels (s : State) (sp : DevSpace) (h : DevMem → DevMem) : (s.modDmem sp h).cancels = s.cancels := by cases sp <;> simp [State.modDmem]
@[simp] theorem State.modDmem_invals (s : State) (sp : DevSpace) (h : DevMem → DevMem) : (s.modDmem sp h).invals = s.invals := by cases sp <;> simp [State.modDmem]
@[simp] theorem State.modDmem_heldWrites (s : State) (sp : DevSpace) (h : DevMem → DevMem) : (s.modDmem sp h).heldWrites = s.heldWrites := by cases sp <;> simp [State.modDmem]
@[simp] theorem State.modDmem_links (s : State) (sp : DevSpace) (h : DevMem → DevMem) : (s.modDmem sp h).links = s.links := by cases sp <;> simp [State.modDmem]
@[simp] theorem State.modDmem_deviceNumber (s : State) (sp : DevSpace) (h : DevMem → DevMem) : (s.modDmem sp h).deviceNumber = s.deviceNumber := by cases sp <;> simp [State.modDmem]
@[simp] theorem State.modDmem_peers (s : State) (sp : DevSpace) (h : DevMem → DevMem) : (s.modDmem sp h).peers = s.peers := by cases sp <;> simp [State.modDmem]
@[simp] theorem State.modDmem_keys (s : State) (sp : DevSpace) (h : DevMem → DevMem) : (s.modDmem sp h).keys = s.keys := by cases sp <;> simp [State.modDmem]
@[simp] theorem State.modDmem_rcmb (s : State) (sp : DevSpace) (h : DevMem → DevMem) : (s.modDmem sp h).rcmb = s.rcmb := by cases sp <;> simp [State.modDmem]
@[simp] theorem State.modDmem_mx6 (s : State) (sp : DevSpace) (h : DevMem → DevMem) : (s.modDmem sp h).mx6 = s.mx6 := by cases sp <;> simp [State.modDmem]
@[simp] theorem State.modDmem_service (s : State) (sp : DevSpace) (h : DevMem → DevMem) : (s.modDmem sp h).service = s.service := by cases sp <;> simp [State.modDmem]
@[simp] theorem State.modDmem_faulted (s : State) (sp : DevSpace) (h : DevMem → DevMem) : (s.modDmem sp h).faulted = s.faulted := by cases sp <;> simp [State.modDmem]
@[simp] theorem State.modDmem_selfTest (s : State) (sp : DevSpace) (h : DevMem → DevMem) : (s.modDmem sp h).selfTest = s.selfTest := by cases sp <;> simp [State.modDmem]
@[simp] theorem State.modDmem_toFull (s : State) (sp : DevSpace) (h : DevMem → DevMem) : (s.modDmem sp h).toFull = s.toFull := by cases sp <;> simp [State.modDmem]
@[simp] theorem State.modDmem_idKey (s : State) (sp : DevSpace) (h : DevMem → DevMem) : (s.modDmem sp h).idKey = s.idKey := by cases sp <;> simp [State.modDmem]
@[simp] theorem State.modDmem_fwFile (s : State) (sp : DevSpace) (h : DevMem → DevMem) : (s.modDmem sp h).fwFile = s.fwFile := by cases sp <;> simp [State.modDmem]
@[simp] theorem State.modDmem_receipts (s : State) (sp : DevSpace) (h : DevMem → DevMem) : (s.modDmem sp h).receipts = s.receipts := by cases sp <;> simp [State.modDmem]
@[simp] theorem State.modDmem_receiptNo (s : State) (sp : DevSpace) (h : DevMem → DevMem) : (s.modDmem sp h).receiptNo = s.receiptNo := by cases sp <;> simp [State.modDmem]
@[simp] theorem State.modDmem_bootNo (s : State) (sp : DevSpace) (h : DevMem → DevMem) : (s.modDmem sp h).bootNo = s.bootNo := by cases sp <;> simp [State.modDmem]
@[simp] theorem State.modDmem_bootJournal (s : State) (sp : DevSpace) (h : DevMem → DevMem) : (s.modDmem sp h).bootJournal = s.bootJournal := by cases sp <;> simp [State.modDmem]
@[simp] theorem State.modDmem_bootSigs (s : State) (sp : DevSpace) (h : DevMem → DevMem) : (s.modDmem sp h).bootSigs = s.bootSigs := by cases sp <;> simp [State.modDmem]
@[simp] theorem State.modDmem_repairs (s : State) (sp : DevSpace) (h : DevMem → DevMem) : (s.modDmem sp h).repairs = s.repairs := by cases sp <;> simp [State.modDmem]
@[simp] theorem State.modDmem_channelsOff (s : State) (sp : DevSpace) (h : DevMem → DevMem) : (s.modDmem sp h).channelsOff = s.channelsOff := by cases sp <;> simp [State.modDmem]
@[simp] theorem State.modDmem_grandmaster (s : State) (sp : DevSpace) (h : DevMem → DevMem) : (s.modDmem sp h).grandmaster = s.grandmaster := by cases sp <;> simp [State.modDmem]
@[simp] theorem State.modDmem_clockOffset (s : State) (sp : DevSpace) (h : DevMem → DevMem) : (s.modDmem sp h).clockOffset = s.clockOffset := by cases sp <;> simp [State.modDmem]
@[simp] theorem State.modDmem_steered (s : State) (sp : DevSpace) (h : DevMem → DevMem) : (s.modDmem sp h).steered = s.steered := by cases sp <;> simp [State.modDmem]
@[simp] theorem State.modDmem_hostData (s : State) (sp : DevSpace) (h : DevMem → DevMem) : (s.modDmem sp h).hostData = s.hostData := by cases sp <;> simp [State.modDmem]

/-! Reading back. -/

@[simp] theorem State.core_setCore (s : State) (c : CoreRef) (k : Core) : (s.setCore c k).core c = k := by
  simp [State.core, State.setCore]

theorem State.core_setCore_ne (s : State) {c d : CoreRef} (k : Core) (h : d ≠ c) : (s.setCore c k).core d = s.core d := by
  have h' : c.val ≠ d.val := fun e => h (Fin.ext e.symm)
  simp [State.core, State.setCore, Vector.getElem_set_ne, h']

@[simp] theorem State.core_modCore (s : State) (c : CoreRef) (h : Core → Core) : (s.modCore c h).core c = h (s.core c) := by
  simp [State.modCore]

theorem State.core_modCore_ne (s : State) {c d : CoreRef} (f : Core → Core) (h : d ≠ c) : (s.modCore c f).core d = s.core d :=
  State.core_setCore_ne s _ h

@[simp] theorem Core.ctx_setCtx (k : Core) (q : Bool) (x : Ctx) : (k.setCtx q x).ctx q = x := by
  cases q <;> rfl

theorem Core.ctx_setCtx_ne (k : Core) {p q : Bool} (x : Ctx) (h : p ≠ q) : (k.setCtx q x).ctx p = k.ctx p := by
  cases p <;> cases q <;> first | rfl | exact absurd rfl h

@[simp] theorem State.ctx_setCtx (s : State) (r : CtxRef) (x : Ctx) : (s.setCtx r x).ctx r = x := by
  simp [State.ctx, State.setCtx]

theorem State.ctx_setCtx_ne (s : State) {r q : CtxRef} (x : Ctx) (h : q ≠ r) : (s.setCtx r x).ctx q = s.ctx q := by
  by_cases hc : q.core = r.core
  · have hq : q.q ≠ r.q := fun e => h (by cases q; cases r; simp_all)
    simp [State.ctx, State.setCtx, hc, Core.ctx_setCtx_ne _ x hq]
  · simp [State.ctx, State.setCtx, State.core_setCore_ne _ _ hc]

@[simp] theorem State.ctx_modCtx (s : State) (r : CtxRef) (h : Ctx → Ctx) : (s.modCtx r h).ctx r = h (s.ctx r) := by
  simp [State.modCtx]

theorem State.ctx_modCtx_ne (s : State) {r q : CtxRef} (f : Ctx → Ctx) (h : q ≠ r) : (s.modCtx r f).ctx q = s.ctx q :=
  State.ctx_setCtx_ne s _ h

@[simp] theorem State.modCtx_modCtx (s : State) (r : CtxRef) (f g : Ctx → Ctx) :
    (s.modCtx r f).modCtx r g = s.modCtx r (g ∘ f) := by
  simp only [State.modCtx, State.ctx_setCtx, Function.comp]
  simp only [State.setCtx, State.core_setCore]
  simp only [State.setCore, Core.setCtx]
  cases r.q <;> simp

@[simp] theorem State.tower_setTower (s : State) (t : Bool) (w : Tower) : (s.setTower t w).tower t = w := by
  cases t <;> rfl

theorem State.tower_setTower_ne (s : State) {t u : Bool} (w : Tower) (h : u ≠ t) : (s.setTower t w).tower u = s.tower u := by
  cases t <;> cases u <;> first | rfl | exact absurd rfl h

@[simp] theorem State.tower_modTower (s : State) (t : Bool) (h : Tower → Tower) : (s.modTower t h).tower t = h (s.tower t) := by
  cases t <;> rfl

theorem State.tower_modTower_ne (s : State) {t u : Bool} (f : Tower → Tower) (h : u ≠ t) :
    (s.modTower t f).tower u = s.tower u := State.tower_setTower_ne s _ h

@[simp] theorem State.core_setTower (s : State) (t : Bool) (w : Tower) (c : CoreRef) : (s.setTower t w).core c = s.core c := by
  cases t <;> rfl

@[simp] theorem State.core_modTower (s : State) (t : Bool) (h : Tower → Tower) (c : CoreRef) : (s.modTower t h).core c = s.core c := by
  cases t <;> rfl

@[simp] theorem State.ctx_modTower (s : State) (t : Bool) (h : Tower → Tower) (r : CtxRef) : (s.modTower t h).ctx r = s.ctx r := by
  cases t <;> rfl

@[simp] theorem State.tower_setCore (s : State) (c : CoreRef) (k : Core) (t : Bool) : (s.setCore c k).tower t = s.tower t := rfl
@[simp] theorem State.tower_modCore (s : State) (c : CoreRef) (h : Core → Core) (t : Bool) : (s.modCore c h).tower t = s.tower t := rfl
@[simp] theorem State.tower_setCtx (s : State) (r : CtxRef) (x : Ctx) (t : Bool) : (s.setCtx r x).tower t = s.tower t := rfl
@[simp] theorem State.tower_modCtx (s : State) (r : CtxRef) (h : Ctx → Ctx) (t : Bool) : (s.modCtx r h).tower t = s.tower t := rfl

/-- A context's change leaves every core's own fields alone. -/
theorem Core.setCtx_mem (k : Core) (q : Bool) (x : Ctx) : (k.setCtx q x).mem = k.mem := by cases q <;> rfl

@[simp] theorem State.core_modCtx_mem (s : State) (r : CtxRef) (h : Ctx → Ctx) (c : CoreRef) :
    ((s.modCtx r h).core c).mem = (s.core c).mem := by
  by_cases hc : c = r.core
  · subst hc; simp [State.modCtx, State.setCtx, Core.setCtx_mem]
  · simp [State.modCtx, State.setCtx, State.core_setCore_ne _ _ hc]

end Sys2Proof.Machine
end

