-- ==== Sys2Proof/Laws/Ops.lean ====
section
/-!
SUPPORT. What the shared operations of issue come to: a slot word staged with no bundle open, the verdict on one record, a
general slot word that runs, waits, parks or traps (R16, R17, R26 to R30).
-/

namespace Sys2Proof.Machine

/-! Staging. -/

/-- With no bundle open, a record is a bundle of its own. -/
theorem State.stage_closed {s : State} (h : s.issue = Issue.closed) (a : SlotRec) :
    s.stage a = s.carry s.cur [a] (verdictOf s.me [a]) := by
  cases s
  simp only at h
  subst h
  rfl

/-- With a bundle open, a record joins it and nothing else changes. -/
theorem State.stage_open {s : State} (h : s.issue.opened = true) (a : SlotRec) :
    s.stage a = { s with issue := { s.issue with recs := s.issue.recs ++ [a] } } := by
  simp [State.stage, h]

theorem State.slotNo_closed {s : State} (h : s.issue = Issue.closed) (m : SlotMap) : s.slotNo m = m.slot := by
  simp [State.slotNo, h, Issue.closed]

theorem State.drawn_closed {s : State} (h : s.issue = Issue.closed) : s.drawn = 0 := by
  simp [State.drawn, h, Issue.closed]

/-! The verdict on one record (R28, R29, R30, R99). -/

theorem clashing_single (a : SlotRec) : clashing [a] = [] := by
  simp [clashing]

theorem verdict_commit {x : Ctx} {a : SlotRec} (hi : a.illop = false) (hw : a.wait = false) (hh : a.waitHeld = false)
    (hp : a.parks = none) (hf : a.fault = none) (hr : a.fixed = 0 ∨ x.outstanding + a.fixed ≤ 48) :
    verdictOf x [a] = .commit := by
  have hr' : ¬ (48 < x.outstanding + a.fixed ∧ 0 < a.fixed) := by omega
  simp [verdictOf, hi, hw, hh, hp, hf, faultsOf, clashing_single]
  omega

theorem verdict_trap {x : Ctx} {a : SlotRec} {f : SlotFault} (hi : a.illop = false) (hw : a.wait = false)
    (hh : a.waitHeld = false) (hp : a.parks = none) (hf : a.fault = some f) (hr : a.fixed = 0 ∨ x.outstanding + a.fixed ≤ 48) :
    verdictOf x [a] = .trap [(a, f)] := by
  have hr' : ¬ (48 < x.outstanding + a.fixed ∧ 0 < a.fixed) := by omega
  simp [verdictOf, hi, hw, hh, hp, hf, faultsOf, clashing_single]
  omega

theorem verdict_illop {x : Ctx} {a : SlotRec} (hi : a.illop = true) : verdictOf x [a] = .trap [(a, trap 0x01)] := by
  simp [verdictOf, hi]

theorem verdict_wait {x : Ctx} {a : SlotRec} (hi : a.illop = false) (hh : a.waitHeld = false) (hw : a.wait = true) :
    verdictOf x [a] = .wait := by
  simp [verdictOf, hi, hh, hw]

theorem verdict_waitHeld {x : Ctx} {a : SlotRec} (hi : a.illop = false) (hf : a.fault = none) (hw : a.wait = false)
    (hh : a.waitHeld = true) : verdictOf x [a] = .waitHeld := by
  simp [verdictOf, hi, hh, hw, hf]

theorem verdict_park {x : Ctx} {a : SlotRec} {p : Park} (hi : a.illop = false) (hw : a.wait = false) (hh : a.waitHeld = false)
    (hp : a.parks = some p) (hr : a.fixed = 0 ∨ x.outstanding + a.fixed ≤ 48) : verdictOf x [a] = .park p := by
  have hr' : ¬ (48 < x.outstanding + a.fixed ∧ 0 < a.fixed) := by omega
  simp [verdictOf, hi, hw, hh, hp]
  omega

/-- The trap words of a bundle of one faulting slot. -/
theorem trapWordsOf_single (a : SlotRec) (f : SlotFault) : trapWordsOf [(a, f)] = oneFault a.slot a.word f := by
  simp only [trapWordsOf, oneFault, List.foldl_cons, List.foldl_nil,
    show (0 : W64) ||| BitVec.twoPow 64 a.slot = BitVec.twoPow 64 a.slot from BitVec.zero_or]
  rfl

theorem State.coreFound_nil (s : State) (c : CoreRef) (cause code job tenant scope : Nat) :
    s.coreFound c cause code job tenant scope [] = s := by
  simp [State.coreFound]

/-- The trap of one slot that found no uncorrectable word. -/
theorem State.trapBundle_single {s : State} {a : SlotRec} {f : SlotFault} (h : f.found = []) :
    s.trapBundle s.cur [(a, f)] = s.trapped a.slot a.word f := by
  simp [State.trapBundle, h, State.coreFound_nil, trapWordsOf_single, State.trapped]

/-! Slots whose word runs. -/

theorem Runs.blockers {h : Shape} {g : G} {s : State} (w : Runs h g s) : h.blockers g s.me = [] := by
  simp only [Shape.blockers, List.filter_eq_nil_iff]
  intro r hr
  have hf := w.full r (by
    simp only [List.mem_append, List.mem_map, List.mem_filter] at hr ⊢
    rcases hr with ⟨t, ⟨ht, _⟩, rfl⟩ | hr
    · exact Or.inl ⟨t, ht, rfl⟩
    · exact Or.inr hr)
  simp [hf]

theorem Runs.starved {h : Shape} {g : G} {s : State} (w : Runs h g s) : h.starved g s.me = false := by
  simp only [Shape.starved, List.any_eq_false]
  intro t ht
  have hf := w.full t.1 (by simp only [List.mem_append, List.mem_map]; exact Or.inl ⟨t, ht, rfl⟩)
  simp [hf]

theorem Runs.guard_nil {h : Shape} {g : G} {s : State} (w : Runs h g s) :
    ((h.guard.reg g.p).toList.filter fun r => !s.me.isFull r) = [] := by
  rcases hr : h.guard.reg g.p with _ | r
  · rfl
  · simp [w.guard r hr]

/-- The record of a general slot word that runs, by what its checks and effects come to. -/
theorem Runs.eval {h : Shape} {g : G} {s : State} (w : Runs h g s) (slot : Nat) (word : SlotWord) (fixed : Bool) (body : Res) :
    h.eval s.me slot word g fixed body =
      (let base := { SlotRec.idle slot word with fixed := if fixed then 1 else 0, dests := (h.dests g).filter fun r => !r.zero }
       match body with
       | .wait => { SlotRec.idle slot word with wait := true }
       | .waitHeld => { SlotRec.idle slot word with waitHeld := true }
       | .park p => { base with parks := some p }
       | .trap f => { base with fault := some f }
       | .ok effs draws => { base with effs := effs, draws := draws }) := by
  simp only [Shape.eval, Ctx.evalWith, w.guard_nil, w.on, w.blockers, w.starved, List.isEmpty_nil]
  cases body <;> rfl

/-! Commit. -/

theorem Ctx.advance_plain {x : Ctx} {effs : List Effect} (h : effs.findSome? Ctx.advance.flow = none) : x.advance effs = x.ahead := by
  unfold Ctx.advance Ctx.ahead
  rw [h]
  cases x.npc with
  | some t => rfl
  | none =>
    cases hl : x.loops with
    | nil => simp only [loopStep]
    | cons e es =>
      simp only [loopStep]
      by_cases h1 : e.stop = x.pc
      · by_cases h2 : e.count = 1
        · rw [if_pos h1, if_pos h2, if_neg (fun h => h h1), if_pos h2]
        · rw [if_pos h1, if_neg h2, if_neg (fun h => h h1), if_neg h2]
      · simp only [h1, if_false, ne_eq, not_false_eq_true, if_true, ← hl]

theorem Ctx.ahead_setReplayAt (x : Ctx) (r : Option Nat) : ({ x with replayAt := r } : Ctx).ahead = { x.ahead with replayAt := r } := by
  unfold Ctx.ahead
  simp only
  repeat' split
  all_goals rfl

@[simp] theorem Ctx.ahead_replay (x : Ctx) : x.ahead.replay = x.replay := by
  unfold Ctx.ahead
  repeat' split
  all_goals rfl

@[simp] theorem Ctx.ahead_replayAt (x : Ctx) : x.ahead.replayAt = x.replayAt := by
  unfold Ctx.ahead
  repeat' split
  all_goals rfl

theorem Ctx.resumeAt_ahead (x : Ctx) (cycle : Nat) : (x.resumeAt cycle).ahead =
    { x.ahead with replayAt := if x.ahead.replay && x.ahead.replayAt.isNone then some cycle else x.ahead.replayAt } := by
  rw [Ctx.ahead_replay, Ctx.ahead_replayAt, ← Ctx.ahead_setReplayAt]
  unfold Ctx.resumeAt
  split <;> rfl

/-- A bundle that names no next bundle commits: the context goes on, then the effects are made in order, slot 4's writes after
the reads that come before them, those that end or suspend the context last (R29, R30, R56). -/
theorem State.commit_plain (s : State) {effs : List Effect} (h : effs.findSome? Ctx.advance.flow = none) (draws : Nat) :
    s.commit s.cur effs draws =
      (effs.filter Effect.writes4 ++ effs.filter Effect.leaves).foldl (fun a e => a.apply s.cur e)
        (((effs.filter fun e => !e.leaves && !e.writes4).foldl (fun a e => a.apply s.cur e) (s.onward draws)).beforeWrites
          s.cur effs) := by
  have e := (Ctx.advance_plain (x := s.me.resumeAt s.cycle) h).trans (Ctx.resumeAt_ahead s.me s.cycle)
  unfold State.commit State.onward State.modCtx
  simp only [e]
  rfl

/-- Without a slot 5 read in the bundle its writes have nothing more to wait for. -/
theorem State.beforeWrites_alone (s : State) (r : CtxRef) {effs : List Effect} (h : bundleRead effs = none) :
    s.beforeWrites r effs = s := by
  simp [State.beforeWrites, h]

/-- The same as equations of a bundle that holds one slot's effects: without a slot 5 read, and nothing after its writes, the effects
are made in order, the leaving ones last. -/
theorem State.commit_alone (s : State) {effs : List Effect} (h : effs.findSome? Ctx.advance.flow = none)
    (hr : bundleRead effs = none) (draws : Nat) :
    s.commit s.cur effs draws =
      ((effs.filter fun e => !e.leaves && !e.writes4) ++ effs.filter Effect.writes4 ++ effs.filter Effect.leaves).foldl
        (fun a e => a.apply s.cur e) (s.onward draws) := by
  rw [State.commit_plain s h, State.beforeWrites_alone _ _ hr, List.foldl_append, List.foldl_append, List.foldl_append]

/-- A bundle of effects that neither leave, nor name a next bundle, nor read through slot 5, its writes last, commits in their
order. -/
theorem State.commit_sorted (s : State) {rs ws : List Effect}
    (h : ∀ e ∈ rs ++ ws, Ctx.advance.flow e = none ∧ e.leaves = false ∧ bundleRead [e] = none)
    (hr : ∀ e ∈ rs, e.writes4 = false) (hw : ∀ e ∈ ws, e.writes4 = true) (draws : Nat) :
    s.commit s.cur (rs ++ ws) draws = (rs ++ ws).foldl (fun a e => a.apply s.cur e) (s.onward draws) := by
  have hb : bundleRead (rs ++ ws) = none := by
    unfold bundleRead
    rw [List.findSome?_eq_none_iff]
    intro e he
    have := (h e he).2.2
    simpa [bundleRead] using this
  rw [State.commit_alone s (by rw [List.findSome?_eq_none_iff]; exact fun e he => (h e he).1) hb]
  have e1 : ((rs ++ ws).filter fun e => !e.leaves && !e.writes4) = rs := by
    rw [List.filter_append, List.filter_eq_self.mpr fun e he => by simp [(h e (List.mem_append_left _ he)).2.1, hr e he],
      List.filter_eq_nil_iff.mpr fun e he => by simp [hw e he], List.append_nil]
  have e2 : (rs ++ ws).filter Effect.writes4 = ws := by
    rw [List.filter_append, List.filter_eq_nil_iff.mpr fun e he => by simp [hr e he], List.filter_eq_self.mpr hw, List.nil_append]
  have e3 : (rs ++ ws).filter Effect.leaves = [] := List.filter_eq_nil_iff.mpr fun e he => by simp [(h e he).2.1]
  rw [e1, e2, e3, List.append_nil]

/-- A bundle that names the next bundle commits: the context goes where it says, then the effects are made in order. -/
theorem State.commit_flow (s : State) (effs : List Effect) (F : Ctx → Ctx)
    (h : ∀ x : Ctx, x.pc = s.me.pc → x.npc = s.me.npc → x.loops = s.me.loops → x.advance effs = F x)
    (hl : ∀ e ∈ effs, e.leaves = false ∧ e.writes4 = false) (hr : bundleRead effs = none) :
    s.commit s.cur effs 0 =
      effs.foldl (fun a e => a.apply s.cur e) (s.modCtx s.cur fun x => let y := F (x.resumeAt s.cycle); { y with emul := 0 }) := by
  unfold State.commit
  rw [List.filter_eq_self.mpr fun e he => by simp [hl e he], List.filter_eq_nil_iff.mpr fun e he => by simp [hl e he],
    List.filter_eq_nil_iff.mpr fun e he => by simp [hl e he]]
  simp only [State.beforeWrites_alone _ _ hr, List.append_nil, List.foldl_nil]
  have e := h (s.me.resumeAt s.cycle) (by unfold Ctx.resumeAt; split <;> rfl) (by unfold Ctx.resumeAt; split <;> rfl)
    (by unfold Ctx.resumeAt; split <;> rfl)
  have z (y : Ctx) : ({ y with emul := 0, spec := { y.spec with rngctr := y.spec.rngctr + BitVec.ofNat 64 0 } } : Ctx) =
      { y with emul := 0 } := by simp
  refine congrArg (fun u : State => effs.foldl (fun (a : State) e => a.apply s.cur e) u) ?_
  exact congrArg (s.setCtx s.cur) ((z _).trans (congrArg (fun y : Ctx => ({ y with emul := 0 } : Ctx)) e))

/-- A bundle of one effect commits. -/
theorem State.commit_one (s : State) {e : Effect} (h : Ctx.advance.flow e = none) (hr : bundleRead [e] = none) (draws : Nat) :
    s.commit s.cur [e] draws = (s.onward draws).apply s.cur e := by
  rw [State.commit_alone s (by simp [h]) hr]
  have : e.writes4 = true → e.leaves = false := by cases e <;> simp [Effect.writes4, Effect.writeRange, Effect.leaves]
  cases hl : e.leaves <;> cases hw : e.writes4 <;> simp_all

/-- A bundle without effects commits. -/
theorem State.commit_nil (s : State) (draws : Nat) : s.commit s.cur [] draws = s.onward draws := by
  rw [State.commit_alone s rfl rfl]
  rfl

/-- A bundle whose only effect is a one-cycle result. -/
theorem State.commit_reg (s : State) (v : RVal) : s.commit s.cur [.reg v] 0 = s.now v := State.commit_one s rfl rfl 0

/-- A bundle whose only effect is a result of a latency. -/
theorem State.commit_launch (s : State) (v : RVal) (flags : BitVec 5) (lat draws : Nat) :
    s.commit s.cur [.launch v flags lat] draws = s.later lat v flags draws := State.commit_one s rfl rfl draws

/-- A general slot word that runs commits its effects. -/
theorem slotOp_runs {h : Shape} {g : G} {s : State} (w : Runs h g s) (m : SlotMap) (op : BitVec 8) (fixed : Bool)
    {body : Ctx → Res} {effs : List Effect} {draws : Nat} (hb : body s.me = .ok effs draws) :
    s.slotOp m op h g fixed body = .next (s.commit s.cur effs draws) := by
  have hroom := w.room
  rw [State.slotOp, State.stage_closed w.closed, w.eval, hb,
    verdict_commit rfl rfl rfl rfl rfl (by cases fixed with | false => exact Or.inl rfl | true => exact Or.inr (by simp only [if_true]; omega))]
  simp [State.carry]

/-- A general slot word that runs and fails a check takes its trap. -/
theorem slotOp_traps {h : Shape} {g : G} {s : State} (w : Runs h g s) (m : SlotMap) (op : BitVec 8) (fixed : Bool)
    {body : Ctx → Res} {f : SlotFault} (hb : body s.me = .trap f) (hn : f.found = []) :
    s.slotOp m op h g fixed body = .next (s.trapped m.slot (State.slotOp.wordOf op g) f) := by
  have hroom := w.room
  rw [State.slotOp, State.stage_closed w.closed, w.eval, hb, State.slotNo_closed w.closed,
    verdict_trap (f := f) rfl rfl rfl rfl rfl (by cases fixed with | false => exact Or.inl rfl | true => exact Or.inr (by simp only [if_true]; omega))]
  simp only [State.carry]
  rw [State.trapBundle_single hn]
  rfl

/-- A general slot word that runs and has to wait changes nothing. -/
theorem slotOp_waits {h : Shape} {g : G} {s : State} (w : Runs h g s) (m : SlotMap) (op : BitVec 8) (fixed : Bool)
    {body : Ctx → Res} (hb : body s.me = .wait) : s.slotOp m op h g fixed body = .next s := by
  rw [State.slotOp, State.stage_closed w.closed, w.eval, hb, verdict_wait rfl rfl rfl]
  rfl

/-- A general slot word that runs and waits for held results is the first resumed bundle (R101). -/
theorem slotOp_waitsHeld {h : Shape} {g : G} {s : State} (w : Runs h g s) (m : SlotMap) (op : BitVec 8) (fixed : Bool)
    {body : Ctx → Res} (hb : body s.me = .waitHeld) :
    s.slotOp m op h g fixed body = .next (s.modCtx s.cur fun x => x.resumeAt s.cycle) := by
  rw [State.slotOp, State.stage_closed w.closed, w.eval, hb, verdict_waitHeld rfl rfl rfl rfl]
  rfl

/-- A general slot word that runs and parks its context. -/
theorem slotOp_parks {h : Shape} {g : G} {s : State} (w : Runs h g s) (m : SlotMap) (op : BitVec 8) (fixed : Bool)
    {body : Ctx → Res} {p : Park} (hb : body s.me = .park p) :
    s.slotOp m op h g fixed body = .next (s.modCtx s.cur fun x => { x with status := .parked p }) := by
  have hroom := w.room
  rw [State.slotOp, State.stage_closed w.closed, w.eval, hb,
    verdict_park (p := p) rfl rfl rfl rfl (by cases fixed with | false => exact Or.inl rfl | true => exact Or.inr (by simp only [if_true]; omega))]
  rfl

/-- Every general slot word answers a next state. -/
theorem slotOp_next (s : State) (m : SlotMap) (op : BitVec 8) (h : Shape) (g : G) (fixed : Bool) (body : Ctx → Res) :
    ∃ t, s.slotOp m op h g fixed body = .next t := ⟨_, rfl⟩

end Sys2Proof.Machine
end

