-- ==== Sys2Proof/Laws/Local.lean ====
section
/-!
SUPPORT. What the effects of slot 4 come to: which parts of the state each may change, and which bytes (R70, R73, R76).
-/

namespace Sys2Proof.Machine

/-! Reach. -/

theorem OnlyLocal.refl (s : State) : OnlyLocal s s where
  rest := rfl
  towers _ := rfl
  others _ _ := rfl
  here := by
    unfold Core.setCtx State.ctx Core.ctx
    cases s.cur.q <;> rfl

theorem OnlyLocal.cur {s t : State} (h : OnlyLocal s t) : t.cur = s.cur := by rw [h.rest]

theorem OnlyLocal.trans {s t u : State} (h : OnlyLocal s t) (k : OnlyLocal t u) : OnlyLocal s u where
  rest := by
    have e := k.rest
    rw [h.rest] at e
    exact e
  towers w := by rw [k.towers w, h.towers w]
  others c hc := by rw [k.others c (by rw [h.cur]; exact hc), h.others c hc]
  here := by
    have e := k.here
    rw [h.cur] at e
    rw [e, h.here]
    unfold Core.setCtx
    cases s.cur.q <;> rfl

theorem SameBytes.refl (s : State) : SameBytes s s := ⟨fun _ _ => rfl, fun _ _ => rfl, fun _ _ => rfl⟩

theorem SameBytes.trans {s t u : State} (h : SameBytes s t) (k : SameBytes t u) : SameBytes s u :=
  ⟨fun c a => (k.bytes c a).trans (h.bytes c a), fun c a => (k.has c a).trans (h.has c a), fun c a => (k.poison c a).trans (h.poison c a)⟩

/-- A change of the current context alone. -/
theorem OnlyLocal.modCtx (s : State) (f : Ctx → Ctx) : OnlyLocal s (s.modCtx s.cur f) where
  rest := rfl
  towers _ := rfl
  others c hc := State.core_setCore_ne _ _ hc
  here := by
    rw [State.ctx_modCtx]
    simp only [State.modCtx, State.setCtx, State.core_setCore]

theorem SameBytes.modCtx (s : State) (r : CtxRef) (f : Ctx → Ctx) : SameBytes s (s.modCtx r f) where
  bytes c a := by unfold State.byteAt; rw [State.core_modCtx_mem, State.tower_modCtx]
  has c a := by rw [State.core_modCtx_mem]
  poison c a := by rw [State.core_modCtx_mem]

/-- A change of the current core's scratchpad and record of banks. -/
theorem OnlyLocal.modCore (s : State) {f : Core → Core}
    (h : ∀ k, f k = { k with mem := (f k).mem, banks := (f k).banks, bankCycle := (f k).bankCycle }) :
    OnlyLocal s (s.modCore s.cur.core f) where
  rest := rfl
  towers _ := rfl
  others c hc := State.core_modCore_ne _ _ hc
  here := by
    unfold State.ctx
    rw [State.core_modCore]
    rw [h (s.core s.cur.core)]
    unfold Core.setCtx Core.ctx
    cases s.cur.q <;> rfl

theorem State.ctx_modCore (s : State) (c : CoreRef) {f : Core → Core} (hp : ∀ k, (f k).p = k.p) (hq : ∀ k, (f k).q = k.q) (r : CtxRef) :
    (s.modCore c f).ctx r = s.ctx r := by
  unfold State.ctx
  by_cases hc : r.core = c
  · subst hc
    rw [State.core_modCore]
    unfold Core.ctx
    cases r.q <;> simp [hp, hq]
  · rw [State.core_modCore_ne _ _ hc]

theorem SameBytes.modCore (s : State) (c : CoreRef) {f : Core → Core} (hl : ∀ a, (f (s.core c)).mem.load a = (s.core c).mem.load a)
    (hh : ∀ a, (f (s.core c)).mem.has a = (s.core c).mem.has a) (hp : ∀ a, (f (s.core c)).mem.poisoned a = (s.core c).mem.poisoned a) :
    SameBytes s (s.modCore c f) where
  bytes d a := by
    unfold State.byteAt
    rw [State.tower_modCore]
    by_cases hd : d = c
    · subst hd; rw [State.core_modCore, hl]
    · rw [State.core_modCore_ne _ _ hd]
  has d a := by
    by_cases hd : d = c
    · subst hd; rw [State.core_modCore, hh]
    · rw [State.core_modCore_ne _ _ hd]
  poison d a := by
    by_cases hd : d = c
    · subst hd; rw [State.core_modCore, hp]
    · rw [State.core_modCore_ne _ _ hd]

/-- A step that changes neither the context nor a byte, a vacancy or a poison. -/
structure Quiet (s t : State) : Prop where
  only : OnlyLocal s t
  same : SameBytes s t
  ctx : t.ctx s.cur = s.ctx s.cur

theorem Quiet.refl (s : State) : Quiet s s := ⟨.refl s, .refl s, rfl⟩

theorem Quiet.trans {s t u : State} (h : Quiet s t) (k : Quiet t u) : Quiet s u :=
  ⟨h.only.trans k.only, h.same.trans k.same, by rw [← h.ctx, ← h.only.cur, k.ctx]⟩

theorem Quiet.banks (s : State) (b : BitVec 32) : Quiet s (s.apply s.cur (.banks b)) := by
  simp only [State.apply]
  exact ⟨OnlyLocal.modCore s fun _ => rfl, SameBytes.modCore s _ (fun _ => rfl) (fun _ => rfl) (fun _ => rfl),
    by rw [State.ctx_modCore] <;> intro <;> rfl⟩

theorem Quiet.touch (s : State) (a n : Nat) : Quiet s (s.apply s.cur (.touch a n)) := by
  simp only [State.apply]
  split
  · exact .refl s
  · exact ⟨OnlyLocal.modCore s fun _ => rfl, SameBytes.modCore s _ (fun _ => Scratch.load_correct _ _ _ _) (fun _ => Scratch.has_correct _ _ _ _)
      (fun _ => Scratch.poisoned_correct _ _ _ _), by rw [State.ctx_modCore] <;> intro <;> rfl⟩

theorem Quiet.foldl {s : State} (es : List Effect) (h : ∀ e ∈ es, ∀ u : State, Quiet u (u.apply u.cur e)) :
    Quiet s (es.foldl (fun a e => a.apply s.cur e) s) := by
  have key : ∀ (es : List Effect), (∀ e ∈ es, ∀ u : State, Quiet u (u.apply u.cur e)) → ∀ u : State, u.cur = s.cur →
      Quiet u (es.foldl (fun a e => a.apply s.cur e) u) := by
    intro es
    induction es with
    | nil => exact fun _ u _ => .refl u
    | cons e es ih =>
      intro h u hu
      have h1 := h e List.mem_cons_self u
      rw [hu] at h1
      exact h1.trans (ih (fun e he => h e (List.mem_cons_of_mem _ he)) _ (by rw [h1.only.cur, hu]))
  exact key es h s rfl

/-- The reads of ranges: banks and corrected words. -/
theorem Quiet.reads (s : State) (b : BitVec 32) (rs : List (Nat × Nat)) :
    Quiet s ((Effect.banks b :: rs.map fun r => Effect.touch r.1 r.2).foldl (fun a e => a.apply s.cur e) s) := by
  refine Quiet.foldl _ fun e he u => ?_
  rcases List.mem_cons.mp he with rfl | he
  · exact .banks u b
  · obtain ⟨r, _, rfl⟩ := List.mem_map.mp he
    exact .touch u _ _

/-! A bundle over its effects. -/

theorem OnlyLocal.onward (s : State) (draws : Nat) : OnlyLocal s (s.onward draws) := .modCtx s _

theorem SameBytes.onward (s : State) (draws : Nat) : SameBytes s (s.onward draws) := .modCtx s _ _

@[simp] theorem State.onward_cur (s : State) (draws : Nat) : (s.onward draws).cur = s.cur := rfl

@[simp] theorem State.onward_ctx (s : State) (draws : Nat) : (s.onward draws).ctx s.cur = s.me.onward s.cycle draws :=
  State.ctx_modCtx _ _ _

/-- A bundle that reads ranges, may set STATUS.VAC, and launches a result. -/
theorem State.commit_readsInto (s : State) (b : BitVec 32) (rs : List (Nat × Nat)) (vac : Bool) (v : RVal) (fl : BitVec 5) (lat : Nat) :
    let t := s.commit s.cur (Effect.banks b :: rs.map (fun r => Effect.touch r.1 r.2) ++ (if vac then [Effect.status stVac] else []) ++
      [.launch v fl lat]) 0
    OnlyLocal s t ∧ SameBytes s t ∧
      t.ctx s.cur = ((s.me.onward s.cycle 0).orStatus (if vac then stVac else 0)).await v fl (s.cycle + lat) := by
  intro t
  have ht := State.commit_sorted s (ws := []) (rs := Effect.banks b :: rs.map (fun r => Effect.touch r.1 r.2) ++
      (if vac then [Effect.status stVac] else []) ++ [Effect.launch v fl lat])
    (fun e he => by
      simp only [List.append_nil, List.mem_append, List.mem_cons, List.mem_map, List.not_mem_nil, or_false] at he
      rcases he with ((rfl | ⟨r, _, rfl⟩) | he) | rfl
      · exact ⟨rfl, rfl, rfl⟩
      · exact ⟨rfl, rfl, rfl⟩
      · cases vac <;> simp at he
        subst he; exact ⟨rfl, rfl, rfl⟩
      · exact ⟨rfl, rfl, rfl⟩)
    (fun e he => by
      simp only [List.mem_append, List.mem_cons, List.mem_map, List.not_mem_nil, or_false] at he
      rcases he with ((rfl | ⟨r, _, rfl⟩) | he) | rfl
      · rfl
      · rfl
      · cases vac <;> simp at he
        subst he; rfl
      · rfl)
    (fun e he => by simp at he) 0
  rw [List.append_nil] at ht
  change t = _ at ht
  rw [List.foldl_append, List.foldl_append] at ht
  have hq := Quiet.reads (s.onward 0) b rs
  rw [State.onward_cur] at hq
  generalize hu : (Effect.banks b :: rs.map fun r => Effect.touch r.1 r.2).foldl (fun a e => a.apply s.cur e) (s.onward 0) = u at ht hq
  have huc : u.cur = s.cur := hq.only.cur
  have hcy : u.cycle = s.cycle := by rw [hq.only.rest]; rfl
  have hx := hq.ctx
  rw [State.onward_cur, State.onward_ctx] at hx
  have e : t = u.modCtx s.cur fun x => (x.orStatus (if vac then stVac else 0)).await v fl (s.cycle + lat) := by
    rw [ht]
    cases vac
    · simp only [Bool.false_eq_true, if_false, List.foldl_nil, List.foldl_cons, State.apply, State.startResult, hcy]
      have : ∀ x : Ctx, x.orStatus 0 = x := fun x => by
        have e : x.spec.status ||| 0 = x.spec.status := BitVec.or_zero
        simp only [Ctx.orStatus, e]
      simp only [this]; rfl
    · simp only [if_true, List.foldl_nil, List.foldl_cons, State.apply, State.startResult, State.modCtx_modCtx, State.modCtx_cycle, hcy]; rfl
  rw [e]
  have hm := OnlyLocal.modCtx u fun x => (x.orStatus (if vac then stVac else 0)).await v fl (s.cycle + lat)
  rw [huc] at hm
  exact ⟨((OnlyLocal.onward s 0).trans hq.only).trans hm, ((SameBytes.onward s 0).trans hq.same).trans (.modCtx _ _ _), by
    rw [State.ctx_modCtx, hx]⟩

/-! Stores. -/

theorem isCtl_of_oneMemory {c d : CoreRef} (h : oneMemory c d = true) : isCtl c = isCtl d ∧ towerOf c = towerOf d := by
  simp only [oneMemory, Bool.or_eq_true, beq_iff_eq, Bool.and_eq_true] at h
  rcases h with rfl | ⟨⟨h1, h2⟩, h3⟩
  · exact ⟨rfl, rfl⟩
  · exact ⟨by rw [h1, h2], h3⟩

/-- A store to a control memory changes that memory alone. -/
theorem State.store_ctl {s : State} {c : CoreRef} (h : isCtl c = true) (off : Nat) (bs : List Byte) :
    s.store c off bs = s.modTower (towerOf c) fun w => { w with ctlmem := putBytes w.ctlmem off bs } := by
  rw [State.store, if_pos h]

theorem State.store_local {s : State} {c : CoreRef} (h : isCtl c = false) (off : Nat) (bs : List Byte) :
    s.store c off bs = s.modCore c fun k => { k with mem := k.mem.put off bs } := by
  rw [State.store, if_neg (by simp [h])]

theorem State.tower_modTower_eq (s : State) (t u : Bool) (f : Tower → Tower) :
    (s.modTower t f).tower u = if u = t then f (s.tower u) else s.tower u := by
  by_cases h : u = t
  · subst h; simp
  · rw [if_neg h, State.tower_modTower_ne _ _ h]

theorem OnlyLocal.modTower (s : State) (t : Bool) {f : Tower → Tower} (h : ∀ w, f w = { w with ctlmem := (f w).ctlmem }) :
    OnlyLocal s (s.modTower t f) where
  rest := by cases t <;> rfl
  towers u := by
    rw [State.tower_modTower_eq]
    split
    · exact h _
    · rfl
  others c _ := State.core_modTower _ _ _ _
  here := by
    rw [State.core_modTower, State.ctx_modTower]
    exact (OnlyLocal.refl s).here

theorem written_cons (w : Nat × List Byte) (ws : List (Nat × List Byte)) (a : Nat) (old : Byte) :
    written (w :: ws) a old = written ws a (if w.1 ≤ a ∧ a < w.1 + w.2.length then w.2.getD (a - w.1) 0xFF else old) := rfl

theorem tabGet_putBytes {m : List Host.Cell} (h : tabWf 0 m = true) (off : Nat) (bs : List Byte) (a : Nat) :
    tabGet 0 (putBytes m off bs) a = if off ≤ a ∧ a < off + bs.length then bs.getD (a - off) 0xFF else tabGet 0 m a := by
  rw [putBytes, tabGet_tabPut _ h]
  split
  · rename_i hin
    have : a - off < bs.length := by omega
    simp [List.getD, List.getElem?_eq_getElem this]
  · rfl

/-- One store of the current core. -/
theorem Wrote.store {s : State} (h : s.LocalForm) (off : Nat) (bs : List Byte) :
    Wrote [(off, bs)] s (s.store s.cur.core off bs) ∧ (s.store s.cur.core off bs).LocalForm ∧
      ∀ r, (s.store s.cur.core off bs).ctx r = s.ctx r := by
  cases hc : isCtl s.cur.core
  · rw [State.store_local hc]
    refine ⟨⟨OnlyLocal.modCore s fun _ => rfl, fun c a => ?_, fun c a => ?_, fun c a => ?_⟩, ⟨?_, h.2⟩, fun r => ?_⟩
    · by_cases hcc : c = s.cur.core
      · subst hcc
        simp only [State.byteAt, hc, Bool.false_eq_true, if_false, State.core_modCore, oneMemory, beq_self_eq_true, Bool.true_or, if_true]
        exact Scratch.load_put h.1 off bs a
      · have : oneMemory c s.cur.core = false := by simp [oneMemory, hcc, hc]
        simp only [State.byteAt, State.core_modCore_ne _ _ hcc, State.tower_modCore, this, Bool.false_eq_true, if_false]
    · by_cases hcc : c = s.cur.core
      · subst hcc
        rw [State.core_modCore]
        simp only [beq_self_eq_true, hc, Bool.not_false, Bool.and_self, Bool.true_and, Scratch.has_put h.1, halvesWritten, List.any_cons, List.any_nil,
          Bool.or_false]
        rw [Bool.or_comm]
      · rw [State.core_modCore_ne _ _ hcc]
        simp [hcc]
    · by_cases hcc : c = s.cur.core
      · subst hcc; rw [State.core_modCore]; exact Scratch.poisoned_put _ _ _ _
      · rw [State.core_modCore_ne _ _ hcc]
    · show ((s.modCore s.cur.core _).core s.cur.core).mem.wf = true
      rw [State.core_modCore]
      exact Scratch.put_wf h.1 off bs
    · rw [State.ctx_modCore] <;> intro <;> rfl
  · rw [State.store_ctl hc]
    refine ⟨⟨OnlyLocal.modTower s _ fun _ => rfl, fun c a => ?_, fun c a => ?_, fun c a => ?_⟩, ⟨?_, ?_⟩, fun r => State.ctx_modTower _ _ _ _⟩
    · unfold State.byteAt
      rw [State.core_modTower, State.tower_modTower_eq]
      cases hcc : isCtl c
      · have : oneMemory c s.cur.core = false := by
          have : c ≠ s.cur.core := fun e => by rw [e, hc] at hcc; cases hcc
          simp [oneMemory, this, hcc]
        simp [this]
      · by_cases ht : towerOf c = towerOf s.cur.core
        · have : oneMemory c s.cur.core = true := by simp [oneMemory, hcc, hc, ht]
          simp only [ht, if_true, this]
          exact tabGet_putBytes h.2 off bs a
        · have : oneMemory c s.cur.core = false := by
            have : c ≠ s.cur.core := fun e => ht (by rw [e])
            simp [oneMemory, this, ht]
          simp [ht, this]
    · rw [State.core_modTower]
      by_cases hcc : c = s.cur.core
      · subst hcc; simp [hc]
      · simp [hcc]
    · rw [State.core_modTower]
    · show ((s.modTower _ _).core (s.modTower _ _).cur.core).mem.wf = true
      rw [State.core_modTower, show (s.modTower (towerOf s.cur.core) fun w => { w with ctlmem := putBytes w.ctlmem off bs }).cur = s.cur by
        cases towerOf s.cur.core <;> rfl]
      exact h.1
    · show tabWf 0 ((s.modTower _ _).tower (towerOf (s.modTower _ _).cur.core)).ctlmem = true
      rw [show (s.modTower (towerOf s.cur.core) fun w => { w with ctlmem := putBytes w.ctlmem off bs }).cur = s.cur by
        cases towerOf s.cur.core <;> rfl, State.tower_modTower]
      exact putBytes_wf h.2 off bs

theorem Wrote.trans {ws vs : List (Nat × List Byte)} {s t u : State} (h : Wrote ws s t) (k : Wrote vs t u) : Wrote (ws ++ vs) s u where
  only := h.only.trans k.only
  bytes c a := by
    have e := k.bytes c a
    rw [h.only.cur, h.bytes] at e
    rw [e]
    split
    · simp only [written, List.foldl_append]
    · rfl
  has c a := by
    have e := k.has c a
    rw [h.only.cur, h.has] at e
    rw [e]
    simp only [halvesWritten, List.any_append]
    cases (s.core c).mem.has a <;> cases c == s.cur.core <;> cases isCtl c <;> simp
  poison c a := (k.poison c a).trans (h.poison c a)

theorem Wrote.of_quiet {s t : State} (h : Quiet s t) : Wrote [] s t where
  only := h.only
  bytes c a := by rw [h.same.bytes]; split <;> rfl
  has c a := by rw [h.same.has]; simp [halvesWritten]
  poison := h.same.poison

theorem OnlyLocal.localForm_of_ctx {s : State} (h : s.LocalForm) (f : Ctx → Ctx) : (s.modCtx s.cur f).LocalForm := by
  refine ⟨?_, h.2⟩
  show ((s.modCtx s.cur f).core s.cur.core).mem.wf = true
  rw [State.core_modCtx_mem]
  exact h.1

/-- Stores one after the other. -/
theorem Wrote.stores {s : State} (h : s.LocalForm) (ws : List (Nat × List Byte)) :
    let t := (ws.map fun w => Effect.store w.1 w.2).foldl (fun a e => a.apply s.cur e) s
    Wrote ws s t ∧ t.LocalForm ∧ ∀ r, t.ctx r = s.ctx r := by
  have key : ∀ (ws : List (Nat × List Byte)) (u : State), u.LocalForm → u.cur = s.cur →
      let t := (ws.map fun w => Effect.store w.1 w.2).foldl (fun a e => a.apply s.cur e) u
      Wrote ws u t ∧ t.LocalForm ∧ ∀ r, t.ctx r = u.ctx r := by
    intro ws
    induction ws with
    | nil => exact fun u hu _ => ⟨.of_quiet (.refl u), hu, fun _ => rfl⟩
    | cons w ws ih =>
      intro u hu hc t
      obtain ⟨h1, h2, h3⟩ := Wrote.store hu w.1 w.2
      rw [hc] at h1 h2 h3
      obtain ⟨h4, h5, h6⟩ := ih _ h2 (by rw [h1.only.cur, hc])
      exact ⟨h1.trans h4, h5, fun r => (h6 r).trans (h3 r)⟩
  exact key ws s h rfl

/-- A bundle of stores (R77 to R79). -/
theorem State.commit_stores (s : State) (h : s.LocalForm) (b : BitVec 32) (ws : List (Nat × List Byte)) :
    let t := s.commit s.cur (Effect.banks b :: ws.map fun w => Effect.store w.1 w.2) 0
    Wrote ws s t ∧ t.ctx s.cur = s.me.onward s.cycle 0 := by
  intro t
  have ht := State.commit_sorted s (rs := [Effect.banks b]) (ws := ws.map fun w => Effect.store w.1 w.2)
    (fun e he => by
      rcases List.mem_cons.mp he with rfl | he
      · exact ⟨rfl, rfl, rfl⟩
      · obtain ⟨r, _, rfl⟩ := List.mem_map.mp he
        exact ⟨rfl, rfl, rfl⟩)
    (fun e he => by rw [List.mem_singleton.mp he]; rfl)
    (fun e he => by obtain ⟨r, _, rfl⟩ := List.mem_map.mp he; rfl) 0
  rw [List.singleton_append, List.foldl_cons] at ht
  change t = _ at ht
  have hb := Quiet.banks (s.onward 0) b
  rw [State.onward_cur] at hb
  have hf : ((s.onward 0).apply s.cur (.banks b)).LocalForm := by
    refine ⟨?_, h.2⟩
    show (((s.onward 0).modCore s.cur.core _).core s.cur.core).mem.wf = true
    rw [State.core_modCore]
    exact (OnlyLocal.localForm_of_ctx h _).1
  have hcur : ((s.onward 0).apply s.cur (.banks b)).cur = s.cur := hb.only.cur
  obtain ⟨h1, h2, h3⟩ := Wrote.stores hf ws
  rw [hcur] at h1 h2 h3
  rw [← ht] at h1 h2 h3
  have h0 : Wrote [] s (s.onward 0) := by
    refine ⟨.onward s 0, fun c a => ?_, fun c a => ?_, (SameBytes.onward s 0).poison⟩
    · rw [(SameBytes.onward s 0).bytes]; split <;> rfl
    · rw [(SameBytes.onward s 0).has]; simp [halvesWritten]
  refine ⟨(h0.trans ((Wrote.of_quiet hb).trans h1)), ?_⟩
  rw [h3, show ((s.onward 0).apply s.cur (.banks b)).ctx s.cur = (s.onward 0).ctx s.cur from hb.ctx, State.onward_ctx]

/-! Reads. -/

theorem tabRun_get {α : Type} (d : α) {m : List (Nat × α)} (hm : m.Pairwise (fun a b => a.1 < b.1)) (k n : Nat) :
    tabRun d m k n = (List.range n).map fun i => tabGet d m (k + i) := by
  unfold tabRun
  refine List.map_congr_left fun i hi => ?_
  have := List.mem_range.mp hi
  exact tabGet_tabNear d hm (by omega)

theorem Scratch.loads_eq {m : Scratch} (h : m.wf = true) (off n : Nat) : m.loads off n = (List.range n).map fun i => m.load (off + i) := by
  apply List.ext_getElem?
  intro i
  by_cases hi : i < n
  · rw [Scratch.load_loads h off n i hi]; simp [hi]
  · rw [List.getElem?_eq_none (by simp [Scratch.loads]; omega), List.getElem?_eq_none (by simp; omega)]

/-- The bytes that a read of the current core returns. -/
theorem State.bytes4_eq {s : State} (h : s.LocalForm) (a n : Nat) : s.bytes4 a n = s.bytesAt s.cur.core a n := by
  unfold State.bytes4 State.localBytes State.bytesAt State.byteAt
  cases hc : isCtl s.cur.core
  · simp only [Bool.false_eq_true, if_false]
    exact Scratch.loads_eq h.1 a n
  · simp only [if_true]
    exact tabRun_get 0 ((tabWf_iff _ _).mp h.2).1 a n

/-- Whether a read finds a vacant byte. -/
theorem State.fill4_eq {s : State} (h : s.LocalForm) (rs : List (Nat × Nat)) : s.fill4 rs =
    if !isCtl s.cur.core && rs.any fun r => (List.range r.2).any fun i => !(s.core s.cur.core).mem.has (r.1 + i) then [.status stVac] else [] := by
  have : (s.core s.cur.core).anyFill rs = rs.any fun r => (List.range r.2).any fun i => !(s.core s.cur.core).mem.has (r.1 + i) := by
    unfold Core.anyFill
    congr 1
    funext r
    rw [Bool.eq_iff_iff, List.any_eq_true, List.any_eq_true]
    constructor
    · rintro ⟨i, hi, hn⟩
      have := List.mem_range.mp hi
      rw [Scratch.has_near h.1 (by omega)] at hn
      exact ⟨i, hi, hn⟩
    · rintro ⟨i, hi, hn⟩
      have := List.mem_range.mp hi
      exact ⟨i, hi, by rw [Scratch.has_near h.1 (by omega)]; exact hn⟩
  rw [State.fill4, this]

/-- A general slot word that runs and fails a check, with the uncorrectable words it found. -/
theorem slotOp_fails {h : Shape} {g : G} {s : State} (w : Runs h g s) (m : SlotMap) (op : BitVec 8) (fixed : Bool)
    {body : Ctx → Res} {f : SlotFault} (hb : body s.me = .trap f) :
    s.slotOp m op h g fixed body = .next (s.fails m.slot (State.slotOp.wordOf op g) f) := by
  have hroom := w.room
  rw [State.slotOp, State.stage_closed w.closed, w.eval, hb, State.slotNo_closed w.closed]
  rw [verdict_trap (f := f) rfl rfl rfl rfl rfl (by cases fixed with | false => exact Or.inl rfl | true => exact Or.inr (by simp only [if_true]; omega))]
  simp only [State.carry, State.trapBundle, trapWordsOf_single, State.fails]
  simp [SlotRec.idle]

/-- A slot 4 operation whose check fails. -/
theorem slot4_traps {h : Shape} {g : G} {u : State} {op : BitVec 8} {fixed : Bool} {kind : Acc4} {rs : Ctx → List (Nat × Nat)}
    {body : State → Ctx → Res} {f : SlotFault} {s : State} (hs : u.reached h g kind rs = s) (w : Runs h g s)
    (ha : s.acqOut s.cur = false) (hb : body s s.me = .trap f) :
    u.slot4 op h g fixed kind rs body = .next (s.fails 4 (State.slotOp.wordOf op g) f) := by
  have e : u.slot4 op h g fixed kind rs body = s.slotOp .l op h g fixed fun x => if s.acqOut s.cur then .wait else body s x := by
    subst hs; rfl
  rw [e]
  exact slotOp_fails w .l op fixed (by rw [ha]; exact hb)

/-- A slot 4 operation that runs. -/
theorem slot4_runs {h : Shape} {g : G} {u : State} {op : BitVec 8} {fixed : Bool} {kind : Acc4} {rs : Ctx → List (Nat × Nat)}
    {body : State → Ctx → Res} {effs : List Effect} {s : State} (hs : u.reached h g kind rs = s) (w : Runs h g s)
    (ha : s.acqOut s.cur = false) (hb : body s s.me = done effs) :
    u.slot4 op h g fixed kind rs body = .next (s.commit s.cur effs 0) := by
  have e : u.slot4 op h g fixed kind rs body = s.slotOp .l op h g fixed fun x => if s.acqOut s.cur then .wait else body s x := by
    subst hs; rfl
  rw [e, slotOp_runs w .l op fixed (by rw [ha]; exact hb)]

/-! Local atomics (R88). -/

theorem Wrote.nil_of {a : Nat} {s t : State} (h : Wrote [(a, [])] s t) : Wrote [] s t where
  only := h.only
  bytes c b := by
    rw [h.bytes]
    simp only [written, List.foldl_cons, List.foldl_nil, List.length_nil]
    split
    · rw [if_neg (by omega)]
    · rfl
  has c b := by rw [h.has]; simp [halvesWritten]
  poison := h.poison

theorem State.localForm_of {s t : State} (h : s.LocalForm) (q : OnlyLocal s t) (hm : (t.core s.cur.core).mem.wf = true)
    (ht : (t.tower (towerOf s.cur.core)).ctlmem = (s.tower (towerOf s.cur.core)).ctlmem) : t.LocalForm := by
  unfold State.LocalForm
  rw [q.cur, ht]
  exact ⟨hm, h.2⟩

theorem State.localForm_banks {s : State} (h : s.LocalForm) (b : BitVec 32) : (s.apply s.cur (.banks b)).LocalForm :=
  State.localForm_of h (Quiet.banks s b).only (by simp only [State.apply, State.core_modCore]; exact h.1) (by simp only [State.apply, State.tower_modCore])

theorem State.localForm_touch {s : State} (h : s.LocalForm) (a n : Nat) : (s.apply s.cur (.touch a n)).LocalForm := by
  refine State.localForm_of h (Quiet.touch s a n).only ?_ ?_
  · simp only [State.apply]
    split
    · exact h.1
    · rw [State.core_modCore]; exact Scratch.correct_wf h.1 _ _
  · simp only [State.apply]
    split
    · rfl
    · rw [State.tower_modCore]

/-- The bytes that a core's own read returns. -/
theorem State.localBytes_eq {s : State} (h : s.LocalForm) (a n : Nat) : s.localBytes s.cur.core a n = s.bytesAt s.cur.core a n :=
  State.bytes4_eq h a n

/-- A local atomic that runs: its check fails, or as one event its old value is in flight, its write is made, and what waits
re-tests. -/
theorem amo_laws {g : G} {u : State} {op : BitVec 8} {h : Shape} {n : Nat} {what : BitVec 2}
    {s : State} (hs : u.reached h g .atomic (fun x => [((x.s g.a).toNat, n)]) = s) (w : Runs h g s) (ha : s.acqOut s.cur = false) :
    (∀ f, s.checks4 s.me .atomic n (s.me.s g.a).toNat n = some f → u.amo op h g n what = .next (s.fails 4 (State.slotOp.wordOf op g) f)) ∧
    (s.checks4 s.me .atomic n (s.me.s g.a).toNat n = none → s.LocalForm → ∃ t, u.amo op h g n what = .next t ∧
      let a := (s.me.s g.a).toNat
      let old : W64 := BitVec.ofNat 64 (leNat (s.bytesAt s.cur.core a n))
      ∃ p, Wrote ((atomicNew what old (s.me.s g.b) (s.me.s g.d)).map fun v => (a, leBytes n v.toNat)).toList s p ∧
        p.ctx s.cur = (s.me.onward s.cycle 0).await (.s g.d old) 0 (s.cycle + 8) ∧ t = p.retestCore s.cur.core) := by
  refine ⟨fun f hf => slot4_traps hs w ha ?_, fun hn hl => ?_⟩
  · simp only [show s.checks4 s.me .atomic n (s.me.sa g).toNat n = some f from hf]
  · refine ⟨_, slot4_runs hs w ha (effs := [.banks (banksOf [((s.me.s g.a).toNat, n)]), .touch (s.me.s g.a).toNat n,
      .amo n what (s.me.s g.a).toNat (s.me.s g.b) (s.me.s g.d) g.d]) ?_, ?_⟩
    · simp only [show s.checks4 s.me .atomic n (s.me.sa g).toNat n = none from hn]; rfl
    · intro a old
      rw [State.commit_alone _ rfl rfl]
      simp only [List.filter, Effect.leaves, Effect.writes4, Effect.writeRange, Option.isSome, Bool.not_false, Bool.not_true,
        Bool.and_true, Bool.and_false, List.append_nil, List.cons_append, List.nil_append, List.foldl_cons, List.foldl_nil]
      have l0 : (s.onward 0).LocalForm := OnlyLocal.localForm_of_ctx hl _
      have q1 := Quiet.banks (s.onward 0) (banksOf [(a, n)])
      have l1 := State.localForm_banks l0 (banksOf [(a, n)])
      rw [State.onward_cur] at q1 l1
      have q2 := Quiet.touch ((s.onward 0).apply s.cur (.banks (banksOf [(a, n)]))) a n
      have l2 := State.localForm_touch l1 a n
      rw [show ((s.onward 0).apply s.cur (.banks (banksOf [(a, n)]))).cur = s.cur from q1.only.cur] at q2 l2
      have q := q1.trans q2
      generalize ((s.onward 0).apply s.cur (.banks (banksOf [(a, n)]))).apply s.cur (.touch a n) = p0 at q l2
      have e0 : p0.cur = s.cur := q.only.cur
      have c0 : p0.cycle = s.cycle := by rw [q.only.rest]; rfl
      have w0 : Wrote [] s (s.onward 0) :=
        ⟨.onward s 0, fun c a => by rw [(SameBytes.onward s 0).bytes]; split <;> rfl,
          fun c a => by rw [(SameBytes.onward s 0).has]; simp [halvesWritten], (SameBytes.onward s 0).poison⟩
      have wq := w0.trans (Wrote.of_quiet q)
      have hold : BitVec.ofNat 64 (leNat (p0.localBytes s.cur.core a n)) = old := by
        have := State.localBytes_eq l2 a n
        rw [e0] at this
        rw [this]
        have : p0.bytesAt s.cur.core a n = s.bytesAt s.cur.core a n := by
          unfold State.bytesAt
          refine List.map_congr_left fun i _ => ?_
          rw [q.same.bytes]
          exact (SameBytes.onward s 0).bytes _ _
        rw [this]
      let bs := match atomicNew what old (s.me.s g.b) (s.me.s g.d) with | some v => leBytes n v.toNat | none => []
      let v : RVal := .s g.d old
      obtain ⟨w2, w2c, w3⟩ := Wrote.store l2 a bs
      rw [e0] at w2 w2c w3
      let p1 := p0.store s.cur.core a bs
      have e1 : p1.cur = s.cur := w2.only.cur.trans e0
      have c1 : p1.cycle = s.cycle := (congrArg State.cycle w2.only.rest).trans c0
      have key : p1.startResult s.cur v 0 8 = p1.modCtx s.cur fun x => x.await v 0 (s.cycle + 8) := by
        unfold State.startResult
        rw [c1]
        rfl
      have o1 : OnlyLocal p1 (p1.modCtx s.cur fun x => x.await v 0 (s.cycle + 8)) := by
        have := OnlyLocal.modCtx p1 fun x => x.await v 0 (s.cycle + 8); rwa [e1] at this
      have m1 : SameBytes p1 (p1.modCtx s.cur fun x => x.await v 0 (s.cycle + 8)) := .modCtx _ _ _
      have w1 : Wrote [] p1 (p1.modCtx s.cur fun x => x.await v 0 (s.cycle + 8)) :=
        ⟨o1, fun c a => by rw [m1.bytes]; split <;> rfl, fun c a => by rw [m1.has]; simp [halvesWritten], m1.poison⟩
      have wf := (wq.trans w2).trans w1
      simp only [List.nil_append, List.append_nil] at wf
      refine ⟨p1.modCtx s.cur fun x => x.await v 0 (s.cycle + 8), ?_, ?_, ?_⟩
      · revert wf
        simp only [bs]
        cases atomicNew what old (s.me.s g.b) (s.me.s g.d) with
        | none => exact Wrote.nil_of
        | some v => exact fun h => h
      · rw [State.ctx_modCtx, w3, show p0.ctx s.cur = (s.onward 0).ctx s.cur from q.ctx, State.onward_ctx]
      · rw [← key]
        simp only [State.apply, State.atomic4]
        change BitVec.ofNat 64 (leNat (p0.localBytes s.cur.core (s.me.s g.a).toNat n)) = old at hold
        rw [hold] <;> rfl

end Sys2Proof.Machine
end

