-- ==== Sys2Proof/Laws/Matrix.lean ====
section
/-!
SUPPORT. What a drain's publish leaves of its core's scratchpad (R206): every byte of its sectors and every other one.
-/

namespace Sys2Proof.Machine

@[simp] theorem Matrix.setAcc_queue (m : Matrix) (i : Bool) (a : Acc) : (m.setAcc i a).queue = m.queue := by
  unfold Matrix.setAcc; split <;> rfl
@[simp] theorem Matrix.acc_setAcc (m : Matrix) (i : Bool) (a : Acc) : (m.setAcc i a).acc i = a := by cases i <;> rfl

/-- Writes one after another leave at a byte the value that all those that reach it agree on. -/
theorem Scratch.load_puts (L : List (Nat × List Byte)) {m : Scratch} (h : m.wf = true) (a : Nat) (v : Byte)
    (all : ∀ r ∈ L, r.1 ≤ a → a < r.1 + r.2.length → r.2.getD (a - r.1) 0xFF = v)
    (some_ : m.load a = v ∨ ∃ r ∈ L, r.1 ≤ a ∧ a < r.1 + r.2.length) :
    (L.foldl (fun (m : Scratch) r => m.put r.1 r.2) m).load a = v := by
  induction L generalizing m with
  | nil => simpa using some_
  | cons r L ih =>
    have hput := Scratch.load_put h r.1 r.2 a
    refine ih (Scratch.put_wf h _ _) (fun q hq => all q (List.mem_cons_of_mem _ hq)) ?_
    by_cases hr : r.1 ≤ a ∧ a < r.1 + r.2.length
    · rw [if_pos hr] at hput
      exact .inl (hput.trans (all r (by simp) hr.1 hr.2))
    · rw [if_neg hr] at hput
      rcases some_ with hv | ⟨q, hq, hqa⟩
      · exact .inl (hput.trans hv)
      · rcases List.mem_cons.1 hq with rfl | hq
        · exact absurd hqa hr
        · exact .inr ⟨q, hq, hqa⟩

/-- Writes one after another leave a present byte present, and make each byte that one of them reaches present. -/
theorem Scratch.has_puts (L : List (Nat × List Byte)) {m : Scratch} (h : m.wf = true) (a : Nat)
    (some_ : m.has a = true ∨ ∃ r ∈ L, r.1 ≤ a ∧ a < r.1 + r.2.length) :
    (L.foldl (fun (m : Scratch) r => m.put r.1 r.2) m).has a = true := by
  induction L generalizing m with
  | nil => simpa using some_
  | cons r L ih =>
    have hput := Scratch.has_put h r.1 r.2 a
    refine ih (Scratch.put_wf h _ _) ?_
    rcases some_ with hv | ⟨q, hq, hqa⟩
    · exact .inl (by rw [hput, hv, Bool.or_true])
    · rcases List.mem_cons.1 hq with rfl | hq
      · refine .inl ?_
        rw [hput, Bool.or_eq_true]
        left
        simp only [decide_eq_true_eq]
        omega
      · exact .inr ⟨q, hq, hqa⟩

/-- The bytes of runs, each with its address. -/
def spread (L : List (Nat × List Byte)) : List (Nat × Option Byte) :=
  L.flatMap fun r => r.2.zipIdx.map fun b => (r.1 + b.2, some b.1)

/-- The runs of a list of bytes hold its bytes and no other. -/
theorem spread_runsOf (l : List (Nat × Option Byte)) : spread (runsOf l) = l.filter (·.2.isSome) := by
  induction l with
  | nil => rfl
  | cons x l ih =>
    obtain ⟨a, v⟩ := x
    cases v with
    | none => simpa [runsOf] using ih
    | some v =>
      rw [List.filter_cons_of_pos (by rfl), ← ih, runsOf]
      split
      · rename_i b bs r hr
        rw [hr]
        split
        · rename_i hb
          subst hb
          simp only [spread, List.flatMap_cons, List.zipIdx_cons, List.map_cons, Nat.add_zero, List.cons_append, Nat.zero_add]
          congr 2
          rw [List.zipIdx_succ, List.map_map]
          refine List.map_congr_left fun p _ => ?_
          simp only [Function.comp_apply, Prod.mk.injEq, and_true]
          omega
        · simp [spread]
      · rename_i hr
        rw [hr]
        simp [spread]

/-- A byte of a run is the list's, at its address. -/
theorem spread_mem {L : List (Nat × List Byte)} {r : Nat × List Byte} (hr : r ∈ L) {a : Nat} (h1 : r.1 ≤ a) (h2 : a < r.1 + r.2.length) :
    (a, some (r.2.getD (a - r.1) 0xFF)) ∈ spread L := by
  refine List.mem_flatMap.2 ⟨r, hr, List.mem_map.2 ⟨(r.2.getD (a - r.1) 0xFF, a - r.1), ?_, ?_⟩⟩
  · have hi : a - r.1 < r.2.length := by omega
    rw [List.mem_zipIdx_iff_getElem?, List.getD_eq_getElem?_getD, List.getElem?_eq_getElem hi]
    rfl
  · simp only [Prod.mk.injEq, and_true]
    omega

/-- A byte of the list lies in some run. -/
theorem of_spread_mem {L : List (Nat × List Byte)} {a : Nat} {v : Option Byte} (h : (a, v) ∈ spread L) :
    ∃ r ∈ L, r.1 ≤ a ∧ a < r.1 + r.2.length := by
  obtain ⟨r, hr, hb⟩ := List.mem_flatMap.1 h
  obtain ⟨⟨b, i⟩, hp, he⟩ := List.mem_map.1 hb
  have hi := List.mem_zipIdx' hp
  have := congrArg Prod.fst he
  simp only at this
  exact ⟨r, hr, by omega, by omega⟩

/-- A list of bytes written run by run. -/
theorem Scratch.load_byteRuns (l : List (Nat × Byte)) {m : Scratch} (h : m.wf = true) (a : Nat) (v : Byte)
    (all : ∀ b ∈ l, b.1 = a → b.2 = v) (some_ : m.load a = v ∨ ∃ b ∈ l, b.1 = a) :
    ((byteRuns l).foldl (fun (m : Scratch) r => m.put r.1 r.2) m).load a = v := by
  have hs : spread (byteRuns l) = l.map fun b => (b.1, some b.2) := by
    rw [byteRuns, spread_runsOf, List.filter_eq_self]
    intro p hp
    obtain ⟨b, _, rfl⟩ := List.mem_map.1 hp
    rfl
  refine Scratch.load_puts _ h a v (fun r hr h1 h2 => ?_) (some_.imp_right fun ⟨b, hb, he⟩ => ?_)
  · have := spread_mem hr h1 h2
    rw [hs] at this
    obtain ⟨b, hb, he⟩ := List.mem_map.1 this
    simp only [Prod.mk.injEq, Option.some.injEq] at he
    rw [← he.2]
    exact all b hb he.1
  · refine of_spread_mem (v := some b.2) ?_
    rw [hs]
    exact List.mem_map.2 ⟨b, hb, by rw [he]⟩

/-- Poison leaves every byte as it reads. -/
theorem Scratch.poisons_load (l : List Nat) (m : Scratch) (a : Nat) :
    (l.foldl (fun (m : Scratch) sec => m.poison sec) m).load a = m.load a ∧ (l.foldl (fun (m : Scratch) sec => m.poison sec) m).has a = m.has a := by
  induction l generalizing m with
  | nil => exact ⟨rfl, rfl⟩
  | cons b l ih => exact ⟨(ih _).1, (ih _).2⟩

/-- Segments that return to power change nothing else of a core, and none loses power (R94). -/
theorem Core.powerUps (l : List Nat) (k : Core) : ∃ down : BitVec 32,
    l.foldl (fun (k : Core) sec => k.powerUp (32 * sec) 32) k = { k with segDown := down } ∧
      ∀ g, down.getLsbD g = true → k.segDown.getLsbD g = true := by
  have one (l : List Nat) (d : BitVec 32) (g : Nat) (h : (l.foldl (fun d g => setBit d g false) d).getLsbD g = true) :
      d.getLsbD g = true := by
    induction l generalizing d with
    | nil => exact h
    | cons b l ih =>
      have := ih _ h
      unfold setBit at this
      simp at this
      exact this.1
  induction l generalizing k with
  | nil => exact ⟨k.segDown, rfl, fun _ h => h⟩
  | cons b l ih =>
    obtain ⟨d, hd, hg⟩ := ih (k.powerUp (32 * b) 32)
    refine ⟨d, ?_, fun g h => ?_⟩
    · rw [List.foldl_cons, hd]
      unfold Core.powerUp
      split <;> rfl
    · have := hg g h
      unfold Core.powerUp at this
      split at this
      · exact this
      · exact one _ _ g this

/-- What a drain's publish does to its core: the drain leaves its engine; each byte of its sectors is present, one of the view as
computed and any other zero; every other byte reads as before (R206). -/
theorem Core.publishDrain_laws (k : Core) (h : k.mem.wf = true) (mx6 : Bool) (d : Drain) (ds : List Drain) :
    let secs := runSectors (viewRuns mx6 d.dst)
    ∃ (m : Scratch) (down : BitVec 32), k.publishDrain mx6 d ds = { k.endDrain d ds with mem := m, segDown := down } ∧
      (∀ g, down.getLsbD g = true → k.segDown.getLsbD g = true) ∧
      (∀ a, a / 32 ∈ secs → m.has a = true) ∧
      (∀ b ∈ d.out, (∀ b' ∈ d.out, b'.1 = b.1 → b'.2 = b.2) → m.load b.1 = b.2) ∧
      (∀ a, (∀ b ∈ d.out, b.1 ≠ a) → m.load a = if a / 32 ∈ secs then 0 else k.mem.load a) := by
  intro secs
  obtain ⟨down, hk, hdown⟩ := Core.powerUps secs (k.endDrain d ds)
  set m0 := (secs.map fun sec => (32 * sec, List.replicate 32 (0 : Byte))).foldl (fun (m : Scratch) r => m.put r.1 r.2) k.mem with hm0
  set m1 := (byteRuns d.out).foldl (fun (m : Scratch) r => m.put r.1 r.2) m0 with hm1
  have hw0 : m0.wf = true := Scratch.puts_wf h _
  have zero (a : Nat) : m0.load a = if a / 32 ∈ secs then 0 else k.mem.load a := by
    split
    · rename_i ha
      refine Scratch.load_puts _ h a 0 (fun r hr h1 h2 => ?_) (.inr ⟨(32 * (a / 32), List.replicate 32 0), List.mem_map.2 ⟨_, ha, rfl⟩, ?_, ?_⟩)
      · obtain ⟨sec, _, rfl⟩ := List.mem_map.1 hr
        simp only [List.length_replicate] at h2 ⊢
        rw [List.getD_eq_getElem?_getD, List.getElem?_replicate, if_pos (by omega)]
        rfl
      · simp only; omega
      · simp only [List.length_replicate]; omega
    · rename_i ha
      refine Scratch.load_puts _ h a _ (fun r hr h1 h2 => ?_) (.inl rfl)
      obtain ⟨sec, hs, rfl⟩ := List.mem_map.1 hr
      simp only [List.length_replicate] at h1 h2
      exact absurd (show a / 32 ∈ secs by rw [show a / 32 = sec by omega]; exact hs) ha
  refine ⟨if d.outPois then secs.foldl (fun (m : Scratch) sec => m.poison sec) m1 else m1, down, ?_, hdown, fun a ha => ?_, fun b hb hu => ?_,
    fun a ha => ?_⟩
  · unfold Core.publishDrain
    simp only
    rw [hk, hm1, hm0, List.foldl_map]
    rfl
  · have h1 : m1.has a = true := by
      refine Scratch.has_puts _ hw0 a (.inl (Scratch.has_puts _ h a (.inr ⟨(32 * (a / 32), List.replicate 32 0), List.mem_map.2 ⟨_, ha, rfl⟩, ?_, ?_⟩)))
      · simp only; omega
      · simp only [List.length_replicate]; omega
    split
    · rw [(Scratch.poisons_load _ _ _).2]; exact h1
    · exact h1
  · have h1 : m1.load b.1 = b.2 := Scratch.load_byteRuns _ hw0 _ _ hu (.inr ⟨b, hb, rfl⟩)
    split
    · rw [(Scratch.poisons_load _ _ _).1]; exact h1
    · exact h1
  · have h1 : m1.load a = m0.load a := Scratch.load_byteRuns _ hw0 a _ (fun b hb he => absurd he (ha b hb)) (.inl rfl)
    rw [← zero a, ← h1]
    split
    · exact (Scratch.poisons_load _ _ _).1
    · rfl

end Sys2Proof.Machine
end

