-- ==== Sys2Proof/Laws/Registers.lean ====
section
/-!
SUPPORT. Registers: one lemma per field per update of a context, and what a register reads after a write, a mark or a landing
(R18, R23, R25).
-/

namespace Sys2Proof.Machine

/-! `write`. -/

@[simp] theorem Ctx.write_status (x : Ctx) (v : RVal) : (x.write v).status = x.status := by cases v <;> simp only [Ctx.write] <;> first | rfl | (split <;> rfl)
@[simp] theorem Ctx.write_node (x : Ctx) (v : RVal) : (x.write v).node = x.node := by cases v <;> simp only [Ctx.write] <;> first | rfl | (split <;> rfl)
@[simp] theorem Ctx.write_job (x : Ctx) (v : RVal) : (x.write v).job = x.job := by cases v <;> simp only [Ctx.write] <;> first | rfl | (split <;> rfl)
@[simp] theorem Ctx.write_pc (x : Ctx) (v : RVal) : (x.write v).pc = x.pc := by cases v <;> simp only [Ctx.write] <;> first | rfl | (split <;> rfl)
@[simp] theorem Ctx.write_npc (x : Ctx) (v : RVal) : (x.write v).npc = x.npc := by cases v <;> simp only [Ctx.write] <;> first | rfl | (split <;> rfl)
@[simp] theorem Ctx.write_emul (x : Ctx) (v : RVal) : (x.write v).emul = x.emul := by cases v <;> simp only [Ctx.write] <;> first | rfl | (split <;> rfl)
@[simp] theorem Ctx.write_full (x : Ctx) (v : RVal) : (x.write v).full = x.full := by cases v <;> simp only [Ctx.write] <;> first | rfl | (split <;> rfl)
@[simp] theorem Ctx.write_spec (x : Ctx) (v : RVal) : (x.write v).spec = x.spec := by cases v <;> simp only [Ctx.write] <;> first | rfl | (split <;> rfl)
@[simp] theorem Ctx.write_loops (x : Ctx) (v : RVal) : (x.write v).loops = x.loops := by cases v <;> simp only [Ctx.write] <;> first | rfl | (split <;> rfl)
@[simp] theorem Ctx.write_inflight (x : Ctx) (v : RVal) : (x.write v).inflight = x.inflight := by cases v <;> simp only [Ctx.write] <;> first | rfl | (split <;> rfl)
@[simp] theorem Ctx.write_snap (x : Ctx) (v : RVal) : (x.write v).snap = x.snap := by cases v <;> simp only [Ctx.write] <;> first | rfl | (split <;> rfl)
@[simp] theorem Ctx.write_replay (x : Ctx) (v : RVal) : (x.write v).replay = x.replay := by cases v <;> simp only [Ctx.write] <;> first | rfl | (split <;> rfl)
@[simp] theorem Ctx.write_replayAt (x : Ctx) (v : RVal) : (x.write v).replayAt = x.replayAt := by cases v <;> simp only [Ctx.write] <;> first | rfl | (split <;> rfl)
@[simp] theorem Ctx.write_asyncQ (x : Ctx) (v : RVal) : (x.write v).asyncQ = x.asyncQ := by cases v <;> simp only [Ctx.write] <;> first | rfl | (split <;> rfl)
@[simp] theorem Ctx.write_refusals (x : Ctx) (v : RVal) : (x.write v).refusals = x.refusals := by cases v <;> simp only [Ctx.write] <;> first | rfl | (split <;> rfl)
@[simp] theorem Ctx.write_flagFile (x : Ctx) (v : RVal) : (x.write v).flagFile = x.flagFile := by cases v <;> simp only [Ctx.write] <;> first | rfl | (split <;> rfl)
@[simp] theorem Ctx.write_cmdSeq (x : Ctx) (v : RVal) : (x.write v).cmdSeq = x.cmdSeq := by cases v <;> simp only [Ctx.write] <;> first | rfl | (split <;> rfl)
@[simp] theorem Ctx.write_s5Seq (x : Ctx) (v : RVal) : (x.write v).s5Seq = x.s5Seq := by cases v <;> simp only [Ctx.write] <;> first | rfl | (split <;> rfl)
@[simp] theorem Ctx.write_palette (x : Ctx) (v : RVal) : (x.write v).palette = x.palette := by cases v <;> simp only [Ctx.write] <;> first | rfl | (split <;> rfl)
@[simp] theorem Ctx.write_stream (x : Ctx) (v : RVal) : (x.write v).stream = x.stream := by cases v <;> simp only [Ctx.write] <;> first | rfl | (split <;> rfl)
@[simp] theorem Ctx.write_s5 (x : Ctx) (v : RVal) : (x.write v).s5 = x.s5 := by cases v <;> simp only [Ctx.write] <;> first | rfl | (split <;> rfl)
@[simp] theorem Ctx.write_relZero (x : Ctx) (v : RVal) : (x.write v).relZero = x.relZero := by cases v <;> simp only [Ctx.write] <;> first | rfl | (split <;> rfl)
@[simp] theorem Ctx.write_readFar (x : Ctx) (v : RVal) : (x.write v).readFar = x.readFar := by cases v <;> simp only [Ctx.write] <;> first | rfl | (split <;> rfl)
@[simp] theorem Ctx.write_groups (x : Ctx) (v : RVal) : (x.write v).groups = x.groups := by cases v <;> simp only [Ctx.write] <;> first | rfl | (split <;> rfl)
@[simp] theorem Ctx.write_atelier (x : Ctx) (v : RVal) : (x.write v).atelier = x.atelier := by cases v <;> simp only [Ctx.write] <;> first | rfl | (split <;> rfl)
@[simp] theorem Ctx.write_cbarDone (x : Ctx) (v : RVal) : (x.write v).cbarDone = x.cbarDone := by cases v <;> simp only [Ctx.write] <;> first | rfl | (split <;> rfl)
@[simp] theorem Ctx.write_notBefore (x : Ctx) (v : RVal) : (x.write v).notBefore = x.notBefore := by cases v <;> simp only [Ctx.write] <;> first | rfl | (split <;> rfl)
@[simp] theorem Ctx.write_preempt (x : Ctx) (v : RVal) : (x.write v).preempt = x.preempt := by cases v <;> simp only [Ctx.write] <;> first | rfl | (split <;> rfl)
@[simp] theorem Ctx.write_ptag (x : Ctx) (v : RVal) : (x.write v).ptag = x.ptag := by cases v <;> simp only [Ctx.write] <;> first | rfl | (split <;> rfl)

/-! `mark`. -/

@[simp] theorem Ctx.mark_status (x : Ctx) (r : Reg) (b : Bool) : (x.mark r b).status = x.status := by cases r <;> simp only [Ctx.mark] <;> first | rfl | (split <;> rfl)
@[simp] theorem Ctx.mark_node (x : Ctx) (r : Reg) (b : Bool) : (x.mark r b).node = x.node := by cases r <;> simp only [Ctx.mark] <;> first | rfl | (split <;> rfl)
@[simp] theorem Ctx.mark_job (x : Ctx) (r : Reg) (b : Bool) : (x.mark r b).job = x.job := by cases r <;> simp only [Ctx.mark] <;> first | rfl | (split <;> rfl)
@[simp] theorem Ctx.mark_pc (x : Ctx) (r : Reg) (b : Bool) : (x.mark r b).pc = x.pc := by cases r <;> simp only [Ctx.mark] <;> first | rfl | (split <;> rfl)
@[simp] theorem Ctx.mark_npc (x : Ctx) (r : Reg) (b : Bool) : (x.mark r b).npc = x.npc := by cases r <;> simp only [Ctx.mark] <;> first | rfl | (split <;> rfl)
@[simp] theorem Ctx.mark_emul (x : Ctx) (r : Reg) (b : Bool) : (x.mark r b).emul = x.emul := by cases r <;> simp only [Ctx.mark] <;> first | rfl | (split <;> rfl)
@[simp] theorem Ctx.mark_sregs (x : Ctx) (r : Reg) (b : Bool) : (x.mark r b).sregs = x.sregs := by cases r <;> simp only [Ctx.mark] <;> first | rfl | (split <;> rfl)
@[simp] theorem Ctx.mark_vregs (x : Ctx) (r : Reg) (b : Bool) : (x.mark r b).vregs = x.vregs := by cases r <;> simp only [Ctx.mark] <;> first | rfl | (split <;> rfl)
@[simp] theorem Ctx.mark_pregs (x : Ctx) (r : Reg) (b : Bool) : (x.mark r b).pregs = x.pregs := by cases r <;> simp only [Ctx.mark] <;> first | rfl | (split <;> rfl)
@[simp] theorem Ctx.mark_kregs (x : Ctx) (r : Reg) (b : Bool) : (x.mark r b).kregs = x.kregs := by cases r <;> simp only [Ctx.mark] <;> first | rfl | (split <;> rfl)
@[simp] theorem Ctx.mark_spec (x : Ctx) (r : Reg) (b : Bool) : (x.mark r b).spec = x.spec := by cases r <;> simp only [Ctx.mark] <;> first | rfl | (split <;> rfl)
@[simp] theorem Ctx.mark_loops (x : Ctx) (r : Reg) (b : Bool) : (x.mark r b).loops = x.loops := by cases r <;> simp only [Ctx.mark] <;> first | rfl | (split <;> rfl)
@[simp] theorem Ctx.mark_inflight (x : Ctx) (r : Reg) (b : Bool) : (x.mark r b).inflight = x.inflight := by cases r <;> simp only [Ctx.mark] <;> first | rfl | (split <;> rfl)
@[simp] theorem Ctx.mark_snap (x : Ctx) (r : Reg) (b : Bool) : (x.mark r b).snap = x.snap := by cases r <;> simp only [Ctx.mark] <;> first | rfl | (split <;> rfl)
@[simp] theorem Ctx.mark_replay (x : Ctx) (r : Reg) (b : Bool) : (x.mark r b).replay = x.replay := by cases r <;> simp only [Ctx.mark] <;> first | rfl | (split <;> rfl)
@[simp] theorem Ctx.mark_replayAt (x : Ctx) (r : Reg) (b : Bool) : (x.mark r b).replayAt = x.replayAt := by cases r <;> simp only [Ctx.mark] <;> first | rfl | (split <;> rfl)
@[simp] theorem Ctx.mark_asyncQ (x : Ctx) (r : Reg) (b : Bool) : (x.mark r b).asyncQ = x.asyncQ := by cases r <;> simp only [Ctx.mark] <;> first | rfl | (split <;> rfl)
@[simp] theorem Ctx.mark_refusals (x : Ctx) (r : Reg) (b : Bool) : (x.mark r b).refusals = x.refusals := by cases r <;> simp only [Ctx.mark] <;> first | rfl | (split <;> rfl)
@[simp] theorem Ctx.mark_flagFile (x : Ctx) (r : Reg) (b : Bool) : (x.mark r b).flagFile = x.flagFile := by cases r <;> simp only [Ctx.mark] <;> first | rfl | (split <;> rfl)
@[simp] theorem Ctx.mark_cmdSeq (x : Ctx) (r : Reg) (b : Bool) : (x.mark r b).cmdSeq = x.cmdSeq := by cases r <;> simp only [Ctx.mark] <;> first | rfl | (split <;> rfl)
@[simp] theorem Ctx.mark_s5Seq (x : Ctx) (r : Reg) (b : Bool) : (x.mark r b).s5Seq = x.s5Seq := by cases r <;> simp only [Ctx.mark] <;> first | rfl | (split <;> rfl)
@[simp] theorem Ctx.mark_palette (x : Ctx) (r : Reg) (b : Bool) : (x.mark r b).palette = x.palette := by cases r <;> simp only [Ctx.mark] <;> first | rfl | (split <;> rfl)
@[simp] theorem Ctx.mark_stream (x : Ctx) (r : Reg) (b : Bool) : (x.mark r b).stream = x.stream := by cases r <;> simp only [Ctx.mark] <;> first | rfl | (split <;> rfl)
@[simp] theorem Ctx.mark_s5 (x : Ctx) (r : Reg) (b : Bool) : (x.mark r b).s5 = x.s5 := by cases r <;> simp only [Ctx.mark] <;> first | rfl | (split <;> rfl)
@[simp] theorem Ctx.mark_relZero (x : Ctx) (r : Reg) (b : Bool) : (x.mark r b).relZero = x.relZero := by cases r <;> simp only [Ctx.mark] <;> first | rfl | (split <;> rfl)
@[simp] theorem Ctx.mark_readFar (x : Ctx) (r : Reg) (b : Bool) : (x.mark r b).readFar = x.readFar := by cases r <;> simp only [Ctx.mark] <;> first | rfl | (split <;> rfl)
@[simp] theorem Ctx.mark_groups (x : Ctx) (r : Reg) (b : Bool) : (x.mark r b).groups = x.groups := by cases r <;> simp only [Ctx.mark] <;> first | rfl | (split <;> rfl)
@[simp] theorem Ctx.mark_atelier (x : Ctx) (r : Reg) (b : Bool) : (x.mark r b).atelier = x.atelier := by cases r <;> simp only [Ctx.mark] <;> first | rfl | (split <;> rfl)
@[simp] theorem Ctx.mark_cbarDone (x : Ctx) (r : Reg) (b : Bool) : (x.mark r b).cbarDone = x.cbarDone := by cases r <;> simp only [Ctx.mark] <;> first | rfl | (split <;> rfl)
@[simp] theorem Ctx.mark_notBefore (x : Ctx) (r : Reg) (b : Bool) : (x.mark r b).notBefore = x.notBefore := by cases r <;> simp only [Ctx.mark] <;> first | rfl | (split <;> rfl)
@[simp] theorem Ctx.mark_preempt (x : Ctx) (r : Reg) (b : Bool) : (x.mark r b).preempt = x.preempt := by cases r <;> simp only [Ctx.mark] <;> first | rfl | (split <;> rfl)
@[simp] theorem Ctx.mark_ptag (x : Ctx) (r : Reg) (b : Bool) : (x.mark r b).ptag = x.ptag := by cases r <;> simp only [Ctx.mark] <;> first | rfl | (split <;> rfl)

/-! `orStatus`. -/

@[simp] theorem Ctx.orStatus_status (x : Ctx) (b : W64) : (x.orStatus b).status = x.status := rfl
@[simp] theorem Ctx.orStatus_node (x : Ctx) (b : W64) : (x.orStatus b).node = x.node := rfl
@[simp] theorem Ctx.orStatus_job (x : Ctx) (b : W64) : (x.orStatus b).job = x.job := rfl
@[simp] theorem Ctx.orStatus_pc (x : Ctx) (b : W64) : (x.orStatus b).pc = x.pc := rfl
@[simp] theorem Ctx.orStatus_npc (x : Ctx) (b : W64) : (x.orStatus b).npc = x.npc := rfl
@[simp] theorem Ctx.orStatus_emul (x : Ctx) (b : W64) : (x.orStatus b).emul = x.emul := rfl
@[simp] theorem Ctx.orStatus_sregs (x : Ctx) (b : W64) : (x.orStatus b).sregs = x.sregs := rfl
@[simp] theorem Ctx.orStatus_vregs (x : Ctx) (b : W64) : (x.orStatus b).vregs = x.vregs := rfl
@[simp] theorem Ctx.orStatus_pregs (x : Ctx) (b : W64) : (x.orStatus b).pregs = x.pregs := rfl
@[simp] theorem Ctx.orStatus_kregs (x : Ctx) (b : W64) : (x.orStatus b).kregs = x.kregs := rfl
@[simp] theorem Ctx.orStatus_full (x : Ctx) (b : W64) : (x.orStatus b).full = x.full := rfl
@[simp] theorem Ctx.orStatus_loops (x : Ctx) (b : W64) : (x.orStatus b).loops = x.loops := rfl
@[simp] theorem Ctx.orStatus_inflight (x : Ctx) (b : W64) : (x.orStatus b).inflight = x.inflight := rfl
@[simp] theorem Ctx.orStatus_snap (x : Ctx) (b : W64) : (x.orStatus b).snap = x.snap := rfl
@[simp] theorem Ctx.orStatus_replay (x : Ctx) (b : W64) : (x.orStatus b).replay = x.replay := rfl
@[simp] theorem Ctx.orStatus_replayAt (x : Ctx) (b : W64) : (x.orStatus b).replayAt = x.replayAt := rfl
@[simp] theorem Ctx.orStatus_asyncQ (x : Ctx) (b : W64) : (x.orStatus b).asyncQ = x.asyncQ := rfl
@[simp] theorem Ctx.orStatus_refusals (x : Ctx) (b : W64) : (x.orStatus b).refusals = x.refusals := rfl
@[simp] theorem Ctx.orStatus_flagFile (x : Ctx) (b : W64) : (x.orStatus b).flagFile = x.flagFile := rfl
@[simp] theorem Ctx.orStatus_cmdSeq (x : Ctx) (b : W64) : (x.orStatus b).cmdSeq = x.cmdSeq := rfl
@[simp] theorem Ctx.orStatus_s5Seq (x : Ctx) (b : W64) : (x.orStatus b).s5Seq = x.s5Seq := rfl
@[simp] theorem Ctx.orStatus_palette (x : Ctx) (b : W64) : (x.orStatus b).palette = x.palette := rfl
@[simp] theorem Ctx.orStatus_stream (x : Ctx) (b : W64) : (x.orStatus b).stream = x.stream := rfl
@[simp] theorem Ctx.orStatus_s5 (x : Ctx) (b : W64) : (x.orStatus b).s5 = x.s5 := rfl
@[simp] theorem Ctx.orStatus_relZero (x : Ctx) (b : W64) : (x.orStatus b).relZero = x.relZero := rfl
@[simp] theorem Ctx.orStatus_readFar (x : Ctx) (b : W64) : (x.orStatus b).readFar = x.readFar := rfl
@[simp] theorem Ctx.orStatus_groups (x : Ctx) (b : W64) : (x.orStatus b).groups = x.groups := rfl
@[simp] theorem Ctx.orStatus_atelier (x : Ctx) (b : W64) : (x.orStatus b).atelier = x.atelier := rfl
@[simp] theorem Ctx.orStatus_cbarDone (x : Ctx) (b : W64) : (x.orStatus b).cbarDone = x.cbarDone := rfl
@[simp] theorem Ctx.orStatus_notBefore (x : Ctx) (b : W64) : (x.orStatus b).notBefore = x.notBefore := rfl
@[simp] theorem Ctx.orStatus_preempt (x : Ctx) (b : W64) : (x.orStatus b).preempt = x.preempt := rfl
@[simp] theorem Ctx.orStatus_ptag (x : Ctx) (b : W64) : (x.orStatus b).ptag = x.ptag := rfl

/-! `orFlags`. -/

@[simp] theorem Ctx.orFlags_status (x : Ctx) (b : BitVec 5) : (x.orFlags b).status = x.status := rfl
@[simp] theorem Ctx.orFlags_node (x : Ctx) (b : BitVec 5) : (x.orFlags b).node = x.node := rfl
@[simp] theorem Ctx.orFlags_job (x : Ctx) (b : BitVec 5) : (x.orFlags b).job = x.job := rfl
@[simp] theorem Ctx.orFlags_pc (x : Ctx) (b : BitVec 5) : (x.orFlags b).pc = x.pc := rfl
@[simp] theorem Ctx.orFlags_npc (x : Ctx) (b : BitVec 5) : (x.orFlags b).npc = x.npc := rfl
@[simp] theorem Ctx.orFlags_emul (x : Ctx) (b : BitVec 5) : (x.orFlags b).emul = x.emul := rfl
@[simp] theorem Ctx.orFlags_sregs (x : Ctx) (b : BitVec 5) : (x.orFlags b).sregs = x.sregs := rfl
@[simp] theorem Ctx.orFlags_vregs (x : Ctx) (b : BitVec 5) : (x.orFlags b).vregs = x.vregs := rfl
@[simp] theorem Ctx.orFlags_pregs (x : Ctx) (b : BitVec 5) : (x.orFlags b).pregs = x.pregs := rfl
@[simp] theorem Ctx.orFlags_kregs (x : Ctx) (b : BitVec 5) : (x.orFlags b).kregs = x.kregs := rfl
@[simp] theorem Ctx.orFlags_full (x : Ctx) (b : BitVec 5) : (x.orFlags b).full = x.full := rfl
@[simp] theorem Ctx.orFlags_loops (x : Ctx) (b : BitVec 5) : (x.orFlags b).loops = x.loops := rfl
@[simp] theorem Ctx.orFlags_inflight (x : Ctx) (b : BitVec 5) : (x.orFlags b).inflight = x.inflight := rfl
@[simp] theorem Ctx.orFlags_snap (x : Ctx) (b : BitVec 5) : (x.orFlags b).snap = x.snap := rfl
@[simp] theorem Ctx.orFlags_replay (x : Ctx) (b : BitVec 5) : (x.orFlags b).replay = x.replay := rfl
@[simp] theorem Ctx.orFlags_replayAt (x : Ctx) (b : BitVec 5) : (x.orFlags b).replayAt = x.replayAt := rfl
@[simp] theorem Ctx.orFlags_asyncQ (x : Ctx) (b : BitVec 5) : (x.orFlags b).asyncQ = x.asyncQ := rfl
@[simp] theorem Ctx.orFlags_refusals (x : Ctx) (b : BitVec 5) : (x.orFlags b).refusals = x.refusals := rfl
@[simp] theorem Ctx.orFlags_flagFile (x : Ctx) (b : BitVec 5) : (x.orFlags b).flagFile = x.flagFile := rfl
@[simp] theorem Ctx.orFlags_cmdSeq (x : Ctx) (b : BitVec 5) : (x.orFlags b).cmdSeq = x.cmdSeq := rfl
@[simp] theorem Ctx.orFlags_s5Seq (x : Ctx) (b : BitVec 5) : (x.orFlags b).s5Seq = x.s5Seq := rfl
@[simp] theorem Ctx.orFlags_palette (x : Ctx) (b : BitVec 5) : (x.orFlags b).palette = x.palette := rfl
@[simp] theorem Ctx.orFlags_stream (x : Ctx) (b : BitVec 5) : (x.orFlags b).stream = x.stream := rfl
@[simp] theorem Ctx.orFlags_s5 (x : Ctx) (b : BitVec 5) : (x.orFlags b).s5 = x.s5 := rfl
@[simp] theorem Ctx.orFlags_relZero (x : Ctx) (b : BitVec 5) : (x.orFlags b).relZero = x.relZero := rfl
@[simp] theorem Ctx.orFlags_readFar (x : Ctx) (b : BitVec 5) : (x.orFlags b).readFar = x.readFar := rfl
@[simp] theorem Ctx.orFlags_groups (x : Ctx) (b : BitVec 5) : (x.orFlags b).groups = x.groups := rfl
@[simp] theorem Ctx.orFlags_atelier (x : Ctx) (b : BitVec 5) : (x.orFlags b).atelier = x.atelier := rfl
@[simp] theorem Ctx.orFlags_cbarDone (x : Ctx) (b : BitVec 5) : (x.orFlags b).cbarDone = x.cbarDone := rfl
@[simp] theorem Ctx.orFlags_notBefore (x : Ctx) (b : BitVec 5) : (x.orFlags b).notBefore = x.notBefore := rfl
@[simp] theorem Ctx.orFlags_preempt (x : Ctx) (b : BitVec 5) : (x.orFlags b).preempt = x.preempt := rfl
@[simp] theorem Ctx.orFlags_ptag (x : Ctx) (b : BitVec 5) : (x.orFlags b).ptag = x.ptag := rfl

/-! Reading back. -/

theorem Ctx.s_write (x : Ctx) (i j : BitVec 6) (v : W64) :
    (x.write (.s i v)).s j = if j = i ∧ j ≠ 0 then v else x.s j := by
  simp only [Ctx.write, Ctx.s]
  by_cases hi : i = 0
  · subst hi; by_cases hj : j = 0 <;> simp [hj]
  · by_cases hj : j = 0
    · simp [hj]
    · simp only [hi, if_false, hj]
      by_cases hij : j = i
      · have hj' : j ≠ 0#6 := hj
        subst hij; simp [hj']
      · have : i.toNat ≠ j.toNat := fun e => hij (BitVec.eq_of_toNat_eq e.symm)
        simp [Vector.getElem_set_ne, this, hij]

theorem Ctx.v_write (x : Ctx) (i j : BitVec 6) (v : Vec) : (x.write (.v i v)).v j = if j = i then v else x.v j := by
  simp only [Ctx.write, Ctx.v]
  by_cases hij : j = i
  · subst hij; simp
  · have : i.toNat ≠ j.toNat := fun e => hij (BitVec.eq_of_toNat_eq e.symm)
    simp [Vector.getElem_set_ne, this, hij]

theorem Ctx.k_write (x : Ctx) (i j : BitVec 3) (v : KMask) :
    (x.write (.k i v)).k j = if j = i ∧ j ≠ 0 then v else x.k j := by
  simp only [Ctx.write, Ctx.k]
  by_cases hi : i = 0
  · subst hi; by_cases hj : j = 0 <;> simp [hj]
  · by_cases hj : j = 0
    · simp [hj]
    · simp only [hi, if_false, hj]
      by_cases hij : j = i
      · have hj' : j ≠ 0#3 := hj
        subst hij; simp [hj']
      · have : i.toNat ≠ j.toNat := fun e => hij (BitVec.eq_of_toNat_eq e.symm)
        simp [Vector.getElem_set_ne, this, hij]

theorem getLsbD_setBit {w : Nat} (x : BitVec w) (i j : Nat) (b : Bool) (h : i < w) :
    (setBit x i b).getLsbD j = if j = i then b else x.getLsbD j := by
  have key : ∀ (p q : Bool), (if (decide (j = i)) then p else q) = if j = i then p else q := by intro p q; simp
  cases b <;> simp only [setBit, Bool.false_eq_true, if_false, if_true, BitVec.getLsbD_and, BitVec.getLsbD_or,
    BitVec.getLsbD_not, BitVec.getLsbD_twoPow]
  · by_cases hj : j = i
    · subst hj; simp [h]
    · have hj' : i ≠ j := fun e => hj e.symm
      simp only [hj, if_false, hj', decide_false, Bool.and_false, Bool.not_false, Bool.and_true]
      by_cases hw : j < w
      · simp [hw]
      · simp [hw, BitVec.getLsbD_of_ge x j (by omega)]
  · by_cases hj : j = i
    · subst hj; simp [h]
    · have hj' : i ≠ j := fun e => hj e.symm
      simp [hj, hj']

theorem Ctx.p_write (x : Ctx) (i j : BitVec 3) (v : Bool) :
    (x.write (.p i v)).p j = if j = i ∧ j ≠ 0 then v else x.p j := by
  simp only [Ctx.write, Ctx.p]
  by_cases hi : i = 0
  · subst hi; by_cases hj : j = 0 <;> simp [hj]
  · by_cases hj : j = 0
    · simp [hj]
    · simp only [hi, if_false, hj]
      have hlt : i.toNat < 8 := i.isLt
      rw [getLsbD_setBit _ _ _ _ hlt]
      by_cases hij : j = i
      · have hj' : j ≠ 0#3 := hj
        subst hij; simp [hj']
      · have : j.toNat ≠ i.toNat := fun e => hij (BitVec.eq_of_toNat_eq e)
        simp [this, hij]

/-- A mark sets the full/empty bit of its register and no other; s0, p0 and k0 stay full (R23, R25). -/
theorem Ctx.isFull_mark (x : Ctx) (r q : Reg) (b : Bool) :
    (x.mark r b).isFull q = if q = r ∧ q.zero = false then b else x.isFull q := by
  cases r with
  | s i => cases q with
    | s j =>
      simp only [Ctx.mark, Ctx.isFull, Reg.zero, Reg.s.injEq]
      by_cases hi : i = 0
      · subst hi; by_cases hj : j = 0 <;> simp [hj]
      · by_cases hj : j = 0
        · simp [hj]
        · have hlt : i.toNat < 64 := i.isLt
          simp only [hi, if_false, getLsbD_setBit _ _ _ _ hlt]
          by_cases hij : j = i
          · have hj' : j ≠ 0#6 := hj
            subst hij; simp [hj']
          · have : j.toNat ≠ i.toNat := fun e => hij (BitVec.eq_of_toNat_eq e)
            simp [this, hij]
    | v j => simp only [Ctx.mark, Ctx.isFull]; split <;> simp
    | p j => simp only [Ctx.mark, Ctx.isFull]; split <;> simp
    | k j => simp only [Ctx.mark, Ctx.isFull]; split <;> simp
  | v i => cases q with
    | v j =>
      have hlt : i.toNat < 64 := i.isLt
      simp only [Ctx.mark, Ctx.isFull, Reg.zero, Reg.v.injEq, getLsbD_setBit _ _ _ _ hlt]
      by_cases hij : j = i
      · subst hij; simp
      · have : j.toNat ≠ i.toNat := fun e => hij (BitVec.eq_of_toNat_eq e)
        simp [this, hij]
    | s j => simp [Ctx.mark, Ctx.isFull]
    | p j => simp [Ctx.mark, Ctx.isFull]
    | k j => simp [Ctx.mark, Ctx.isFull]
  | p i => cases q with
    | p j =>
      simp only [Ctx.mark, Ctx.isFull, Reg.zero, Reg.p.injEq]
      by_cases hi : i = 0
      · subst hi; by_cases hj : j = 0 <;> simp [hj]
      · by_cases hj : j = 0
        · simp [hj]
        · have hlt : i.toNat < 8 := i.isLt
          simp only [hi, if_false, getLsbD_setBit _ _ _ _ hlt]
          by_cases hij : j = i
          · have hj' : j ≠ 0#3 := hj
            subst hij; simp [hj']
          · have : j.toNat ≠ i.toNat := fun e => hij (BitVec.eq_of_toNat_eq e)
            simp [this, hij]
    | v j => simp only [Ctx.mark, Ctx.isFull]; split <;> simp
    | s j => simp only [Ctx.mark, Ctx.isFull]; split <;> simp
    | k j => simp only [Ctx.mark, Ctx.isFull]; split <;> simp
  | k i => cases q with
    | k j =>
      simp only [Ctx.mark, Ctx.isFull, Reg.zero, Reg.k.injEq]
      by_cases hi : i = 0
      · subst hi; by_cases hj : j = 0 <;> simp [hj]
      · by_cases hj : j = 0
        · simp [hj]
        · have hlt : i.toNat < 8 := i.isLt
          simp only [hi, if_false, getLsbD_setBit _ _ _ _ hlt]
          by_cases hij : j = i
          · have hj' : j ≠ 0#3 := hj
            subst hij; simp [hj']
          · have : j.toNat ≠ i.toNat := fun e => hij (BitVec.eq_of_toNat_eq e)
            simp [this, hij]
    | v j => simp only [Ctx.mark, Ctx.isFull]; split <;> simp
    | s j => simp only [Ctx.mark, Ctx.isFull]; split <;> simp
    | p j => simp only [Ctx.mark, Ctx.isFull]; split <;> simp

/-- A write changes no full/empty bit. -/
@[simp] theorem Ctx.isFull_write (x : Ctx) (v : RVal) (q : Reg) : (x.write v).isFull q = x.isFull q := by
  cases q <;> simp [Ctx.isFull]

@[simp] theorem Ctx.s_mark (x : Ctx) (r : Reg) (b : Bool) (i : BitVec 6) : (x.mark r b).s i = x.s i := by simp [Ctx.s]
@[simp] theorem Ctx.v_mark (x : Ctx) (r : Reg) (b : Bool) (i : BitVec 6) : (x.mark r b).v i = x.v i := by simp [Ctx.v]
@[simp] theorem Ctx.p_mark (x : Ctx) (r : Reg) (b : Bool) (i : BitVec 3) : (x.mark r b).p i = x.p i := by simp [Ctx.p]
@[simp] theorem Ctx.k_mark (x : Ctx) (r : Reg) (b : Bool) (i : BitVec 3) : (x.mark r b).k i = x.k i := by simp [Ctx.k]

end Sys2Proof.Machine
end

