-- ==== Sys2Proof/Laws/Report.lean ====
section
/-!
SUPPORT. What a write through the page tables, a report, and an answer leave alone (R106, R265, R293): the cores.
-/

namespace Sys2Proof.Machine

@[simp] theorem State.modPte_cores (s : State) (a : Nat) (f : W64 → W64) : (s.modPte a f).cores = s.cores :=
  State.modDmem_cores _ _ _

@[simp] theorem State.wipeFrame_cores (s : State) (l : Leaf) (f : Nat) : (s.wipeFrame l f).cores = s.cores := by
  unfold State.wipeFrame
  split
  · exact State.modDmem_cores _ _ _
  · rfl

@[simp] theorem State.publishFrame_cores (s : State) (a f : Nat) : (s.publishFrame a f).cores = s.cores := State.modPte_cores _ _ _

@[simp] theorem State.reuseHost_cores (s : State) (l : Leaf) : (s.reuseHost l).2.cores = s.cores := by
  unfold State.reuseHost
  exact State.publishFrame_cores s l.at_ (pteFrame l.entry)

theorem State.backPage_cores {s u : State} {t : Bool} {l l' : Leaf} (h : s.backPage t l = some (l', u)) : u.cores = s.cores := by
  unfold State.backPage State.takeFrame at h
  split at h
  · cases h; rfl
  · split at h
    · obtain rfl : (s.reuseHost l).2 = u := congrArg Prod.snd (Option.some.inj h)
      exact State.reuseHost_cores s l
    · split at h
      · cases h
      · rename_i h2
        split at h2
        · cases h2
        · cases h2
          cases h
          rw [State.publishFrame_cores, State.wipeFrame_cores, State.modTower_cores]

theorem State.vwriteRun_cores (s : State) (t : Bool) (job va : Nat) (bs : List Byte) : (s.vwriteRun t job va bs).cores = s.cores := by
  unfold State.vwriteRun
  split
  · rfl
  · split
    · rfl
    · split
      · rfl
      · rename_i h
        split
        · rw [State.modDmem_cores]; exact State.backPage_cores h
        · exact (State.backPage_cores h : _)

/-- Easel's writes leave every core alone. -/
@[simp] theorem State.vwrite_cores (s : State) (t : Bool) (job va : Nat) (bs : List Byte) : (s.vwrite t job va bs).cores = s.cores := by
  unfold State.vwrite
  induction lineRuns 64 va bs generalizing s with
  | nil => rfl
  | cons r l ih => rw [List.foldl_cons, ih, State.vwriteRun_cores]

@[simp] theorem State.ringWrite_cores (s : State) (t : Bool) (job addr m : Nat) (rec : List Byte) :
    (s.ringWrite t job addr m rec).2.cores = s.cores := by
  unfold State.ringWrite
  simp only
  split <;> simp

@[simp] theorem State.postJob_cores (s : State) (job : Nat) (a : Answer) : (s.postJob job a).cores = s.cores := by
  unfold State.postJob
  split
  · exact State.modTower_cores _ _ _
  · rfl

/-- A report leaves every core alone. -/
@[simp] theorem State.report_cores (s : State) (job : Nat) (r : Report) : (s.report job r).cores = s.cores := by
  have e (u : State) (h : u.cores = s.cores) : (match u.ringOf (s.homeOf job) r.scope 17 with
      | some (a, m, note) =>
        let (ok, s1) := u.ringWrite (s.homeOf job) job a m (dwBytes (r.words u.time))
        if !ok then s1.modJob job fun j => { j with counts.lost := j.counts.lost + 1 }
        else match note with
        | some n => s1.vwrite (s.homeOf job) job n (leBytes 8 (s1.vdword job n + 1).toNat)
        | none => s1
      | none => u.postJob job { type := 0x0A, scope := r.scope, pay := ofDws 256 (r.words u.time) }).cores = s.cores := by
    rw [← h]
    split
    · simp only
      split
      · rw [State.modJob_cores, State.ringWrite_cores]
      · split
        · rw [State.vwrite_cores, State.ringWrite_cores]
        · rw [State.ringWrite_cores]
    · rw [State.postJob_cores]
  exact e _ (by split <;> rfl)

@[simp] theorem State.core_report (s : State) (job : Nat) (r : Report) (c : CoreRef) : (s.report job r).core c = s.core c := by
  simp only [State.core, State.report_cores]

/-- A change of a context leaves the rest of every core alone. -/
theorem State.modCtx_mx (s : State) (r : CtxRef) (f : Ctx → Ctx) (c : CoreRef) : ((s.modCtx r f).core c).mx = (s.core c).mx := by
  unfold State.modCtx State.setCtx
  by_cases h : c = r.core
  · subst h
    rw [State.core_setCore]
    unfold Core.setCtx
    split <;> rfl
  · rw [State.core_setCore_ne _ _ h]

/-- Newly found words of a core leave every matrix engine alone (R10). -/
theorem State.coreFound_mx (s : State) (c : CoreRef) (cause code job tenant scope : Nat) (ws : List Nat) (pal : Option Nat) (d : CoreRef) :
    ((s.coreFound c cause code job tenant scope ws pal).core d).mx = (s.core d).mx := by
  unfold State.coreFound
  generalize (ws.map (· / 4)).dedup = l
  induction l generalizing s with
  | nil => rfl
  | cons b l ih =>
    rw [List.foldl_cons, ih]
    split
    · rfl
    · rw [State.core_report]
      by_cases h : d = c
      · subst h; rw [State.core_modCore]
      · rw [State.core_modCore_ne _ _ h]

/-- A delivered trap leaves every matrix engine alone. -/
theorem State.deliver_mx {s u : State} {r : CtxRef} {node : Nat} {t : AsyncTrap} (h : s.deliver r node t = .done u) (c : CoreRef) :
    (u.core c).mx = (s.core c).mx := by
  unfold State.deliver at h
  split at h
  · split at h
    · cases h; exact State.modCtx_mx _ _ _ _
    · cases h
  · split at h
    · split at h
      · cases h; rfl
      · cases h
    · cases h

/-- A change of a core that keeps its matrix engine leaves every matrix engine alone. -/
theorem State.modCore_mx (s : State) (c : CoreRef) {f : Core → Core} (h : (f (s.core c)).mx = (s.core c).mx) (d : CoreRef) :
    ((s.modCore c f).core d).mx = (s.core d).mx := by
  by_cases e : d = c
  · subst e; rw [State.core_modCore, h]
  · rw [State.core_modCore_ne _ _ e]

/-- Two changes of a core are one. -/
theorem State.modCore_modCore (s : State) (c : CoreRef) (f g : Core → Core) : (s.modCore c f).modCore c g = s.modCore c fun k => g (f k) := by
  unfold State.modCore
  rw [State.core_setCore]
  simp [State.setCore]

/-- A reading leaves the matrix engine alone. -/
@[simp] theorem Core.readIn_mx (k : Core) (rd : Reading) : (k.readIn rd).mx = k.mx := by
  unfold Core.readIn
  induction rd generalizing k with
  | nil => rfl
  | cons b l ih => rw [List.foldl_cons, ih]; simp only [Core.powerUp]; split <;> rfl

/-- A reading that finds nothing reports nothing (R105). -/
theorem State.computeFound_clean {s : State} {c : CoreRef} {rd : Reading} (h : (s.core c).finds rd = false) (r : CtxRef)
    (node job tenant scope tag cause : Nat) :
    s.computeFound c r node job tenant scope tag rd cause = s.modCore c fun k => k.readIn rd := by
  have hf : ∀ e ∈ rd, (s.core c).mem.foundRead e.2.2.at_ e.2.2.len = [] := fun e he => by
    have := (List.any_eq_false.1 h) e he
    simpa using this
  have e (l : Reading) (hl : ∀ e ∈ l, (s.core c).mem.foundRead e.2.2.at_ e.2.2.len = []) : (l.foldl (fun (a : State) e =>
      a.coreFound c cause 0x23 job tenant scope ((a.core c).mem.foundRead e.2.2.at_ e.2.2.len) (some e.1)) s) = s := by
    induction l with
    | nil => rfl
    | cons b l ih =>
      rw [List.foldl_cons, hl b (by simp), show s.coreFound c cause 0x23 job tenant scope [] (some b.1) = s from rfl]
      exact ih fun e he => hl e (by simp [he])
  have e2 : (rd.find? fun e => !((s.core c).mem.foundRead e.2.2.at_ e.2.2.len).isEmpty) = none := by
    rw [List.find?_eq_none]
    intro x hx
    simp [hf x hx]
  unfold State.computeFound
  simp only [e rd hf, e2]

/-- What an engine's reads find leaves every matrix engine alone (R105). -/
theorem State.computeFound_mx (s : State) (c : CoreRef) (r : CtxRef) (node job tenant scope tag : Nat) (rd : Reading) (cause : Nat)
    (d : CoreRef) : ((s.computeFound c r node job tenant scope tag rd cause).core d).mx = (s.core d).mx := by
  have e (l : Reading) (s : State) : ((l.foldl (fun (a : State) e =>
      a.coreFound c cause 0x23 job tenant scope ((a.core c).mem.foundRead e.2.2.at_ e.2.2.len) (some e.1)) s).core d).mx =
      (s.core d).mx := by
    induction l generalizing s with
    | nil => rfl
    | cons b l ih => rw [List.foldl_cons, ih, State.coreFound_mx]
  unfold State.computeFound
  simp only
  split
  · rw [State.modCore_mx _ _ (Core.readIn_mx _ _), e]
  · split
    · rename_i h
      rw [State.deliver_mx h, State.modCore_mx _ _ (Core.readIn_mx _ _), e]
    · rw [State.modCore_mx _ _ (Core.readIn_mx _ _), e]
    · rw [State.core_report, State.modCore_mx _ _ (Core.readIn_mx _ _), e]

end Sys2Proof.Machine
end

