-- ==== Sys2Proof/Laws/Results.lean ====
section
/-! SUPPORT. How an instruction of general fields comes to complete with a result (R25, R114, R171), and the arithmetic of its
value. -/

namespace Sys2Proof.Machine

@[simp] theorem Ctx.sa_eq (x : Ctx) (g : G) : x.sa g = x.s g.a := rfl
@[simp] theorem Ctx.sb_eq (x : Ctx) (g : G) : x.sb g = x.s g.b := rfl
@[simp] theorem Ctx.va_eq (x : Ctx) (g : G) : x.va g = x.v g.a := rfl
@[simp] theorem Ctx.vb_eq (x : Ctx) (g : G) : x.vb g = x.v g.b := rfl
@[simp] theorem Ctx.vd_eq (x : Ctx) (g : G) : x.vd g = x.v g.d := rfl

theorem Now.of {i : G → Instr} {h : Shape} {op : BitVec 8} {m : SlotMap} {fx : Bool} {f f' : G → Ctx → RVal}
    (hi : ∀ g s, exec (i g) s = s.slotOp m op h g fx fun x => done [.reg (f g x)]) (e : ∀ g x, f g x = f' g x) : Now i h f' :=
  fun g s w => by rw [hi, slotOp_runs w m op fx (effs := [.reg (f g s.me)]) (draws := 0) rfl, State.commit_reg, e]

theorem Later.of {i : G → Instr} {h : Shape} {op : BitVec 8} {m : SlotMap} {fx : Bool} {lat : Nat} {f f' : G → Ctx → RVal}
    {fl : G → Ctx → BitVec 5}
    (hi : ∀ g s, exec (i g) s = s.slotOp m op h g fx fun x => done [.launch (f g x) (fl g x) lat]) (e : ∀ g x, f g x = f' g x) :
    Later i h lat f' fl := fun g s w => by
  rw [hi, slotOp_runs w m op fx (effs := [.launch (f g s.me) (fl g s.me) lat]) (draws := 0) rfl, State.commit_launch, e]

/-- The governed lanes, as the mask that an instruction works under has them. -/
theorem Ctx.governs_lanes (x : Ctx) (g : G) {w n : Nat} (hw : w = 8 ∨ w = 16 ∨ w = 32) (h : n < 2048 / w) :
    maskBit (x.lanes g) w n = x.governs g w n := by
  have flip (j : Nat) (hj : j < 128) : (x.lanes g).getLsbD j = ((x.k g.p).getLsbD j != g.n) := by
    unfold Ctx.lanes
    cases g.n <;> simp [hj]
  rcases hw with rfl | rfl | rfl <;> simp only [maskBit, Ctx.governs] <;> rw [flip _ (by omega)] <;> simp

theorem Lanes.of {i : G → Instr} {h : Shape} {op : BitVec 8} {w lat : Nat} (hw : w = 8 ∨ w = 16 ∨ w = 32)
    {f f' : G → Ctx → Nat → BitVec w} (hi : ∀ g s, exec (i g) s = s.vlanes op h g w lat (f g))
    (e : ∀ g x n, n < 2048 / w → f g x n = f' g x n) : Lanes i h w lat f' := fun g s hr => by
  refine ⟨mergeLanes w (s.me.lanes g) (s.me.vd g) (f g s.me), ?_, fun n hn => ?_⟩
  · rw [hi, State.vlanes, slotOp_runs hr .v op true rfl, State.commit_launch]
  · rw [lane_mergeLanes hw _ _ _ hn, Ctx.governs_lanes _ _ hw hn, e _ _ _ hn]
    rfl

theorem FloatLanes.of {i : G → Instr} {h : Shape} {op : BitVec 8} {w lat : Nat} (hw : w = 8 ∨ w = 16 ∨ w = 32)
    {f : G → Ctx → Nat → Lane} (hi : ∀ g s, exec (i g) s = s.vfl op h g w lat (f g)) : FloatLanes i h w lat f := fun g s hr => by
  refine ⟨mergeLanes w (s.me.lanes g) (s.me.vd g) fun n => BitVec.ofNat w (f g s.me n).bits,
    laneFlags w (2048 / w) (s.me.lanes g) fun n => (f g s.me n).flags, ?_, fun n hn => ?_, fun b _ => ?_⟩
  · rw [hi, State.vfl, slotOp_runs hr .v op true rfl, State.commit_launch]
  · rw [lane_mergeLanes hw _ _ _ hn, Ctx.governs_lanes _ _ hw hn]
    rfl
  · rw [laneFlags_bit]
    refine exists_congr fun n => ?_
    constructor
    · rintro ⟨hn, h1, h2⟩
      exact ⟨hn, by rw [← Ctx.governs_lanes _ _ hw hn, h1], h2⟩
    · rintro ⟨hn, h1, h2⟩
      exact ⟨hn, by rw [Ctx.governs_lanes _ _ hw hn, h1], h2⟩

/-! By the shared form of a meaning. -/

theorem Now.alu {i : G → Instr} {h : Shape} {op : BitVec 8} {f f' : G → Ctx → W64}
    (hi : ∀ g s, exec (i g) s = s.alu op h g 1 (f g)) (e : ∀ g x, f g x = f' g x) : Now i h fun g x => .s g.d (f' g x) :=
  Now.of hi fun g x => by rw [e]

theorem Later.alu {i : G → Instr} {h : Shape} {op : BitVec 8} {lat : Nat} {f f' : G → Ctx → W64} (hl : lat ≠ 1)
    (hi : ∀ g s, exec (i g) s = s.alu op h g lat (f g)) (e : ∀ g x, f g x = f' g x) :
    Later i h lat (fun g x => .s g.d (f' g x)) := fun g s w => by
  rw [hi, State.alu, slotOp_runs w .s op _ (effs := [.launch (.s g.d (f g s.me)) 0 lat]) (draws := 0) (by simp [result, hl, done]),
    State.commit_launch, e]

theorem Now.test {i : G → Instr} {h : Shape} {op : BitVec 8} {f f' : G → Ctx → Bool}
    (hi : ∀ g s, exec (i g) s = s.test op h g (f g)) (e : ∀ g x, f g x = f' g x) : Now i h fun g x => .p g.pd (f' g x) :=
  Now.of hi fun g x => by rw [e]

theorem Later.falu {i : G → Instr} {h : Shape} {op : BitVec 8} {f : G → Ctx → Lane}
    (hi : ∀ g s, exec (i g) s = s.falu op h g (f g)) :
    Later i h 4 (fun g x => .s g.d (BitVec.ofNat 64 (f g x).bits)) (fun g x => (f g x).flags) :=
  Later.of hi fun _ _ => rfl

theorem Later.ftest {i : G → Instr} {h : Shape} {op : BitVec 8} {f : G → Ctx → Cmp}
    (hi : ∀ g s, exec (i g) s = s.ftest op h g (f g)) :
    Later i h 4 (fun g x => .p g.pd (f g x).res) (fun g x => (f g x).flags) :=
  Later.of hi fun _ _ => rfl

theorem Later.fcvt {i : G → Instr} {h : Shape} {op : BitVec 8} {m : Mode}
    (hi : ∀ g s, exec (i g) s = s.fcvt op h g m) :
    Later i h 4 (fun g x => .s g.d (f32.toInt m 64 (lo32 (x.s g.a))).1) (fun g x => (f32.toInt m 64 (lo32 (x.s g.a))).2) :=
  Later.of hi fun _ _ => rfl

theorem Later.kop {i : G → Instr} {h : Shape} {op : BitVec 8} {f f' : G → Ctx → RVal}
    (hi : ∀ g s, exec (i g) s = s.kop op h g (f g)) (e : ∀ g x, f g x = f' g x) : Later i h 2 f' :=
  Later.of hi e

theorem Lanes.two {i : G → Instr} {h : Shape} {op : BitVec 8} {w : Nat} (hw : w = 8 ∨ w = 16 ∨ w = 32)
    {f f' : BitVec w → BitVec w → BitVec w} (hi : ∀ g s, exec (i g) s = s.vlane2 op h g w f) (e : ∀ a b, f a b = f' a b) :
    Lanes i h w 2 fun g x n => f' (lane w (x.v g.a) n) (lane w (x.v g.b) n) :=
  Lanes.of hw hi fun _ _ _ _ => e _ _

theorem Lanes.one {i : G → Instr} {h : Shape} {op : BitVec 8} {w : Nat} (hw : w = 8 ∨ w = 16 ∨ w = 32)
    {f f' : G → BitVec w → BitVec w} (hi : ∀ g s, exec (i g) s = s.vlane1 op h g w (f g)) (e : ∀ g a, f g a = f' g a) :
    Lanes i h w 2 fun g x n => f' g (lane w (x.v g.a) n) :=
  Lanes.of hw hi fun _ _ _ _ => e _ _

theorem FloatLanes.two {i : G → Instr} {h : Shape} {op : BitVec 8} {F : Fmt} (hw : F.width = 8 ∨ F.width = 16 ∨ F.width = 32)
    {f : Nat → Nat → Lane} (hi : ∀ g s, exec (i g) s = s.vf2 op h g F f) :
    FloatLanes i h F.width 4 fun g x n => f (lane F.width (x.v g.a) n).toNat (lane F.width (x.v g.b) n).toNat :=
  FloatLanes.of hw hi

theorem FloatLanes.three {i : G → Instr} {h : Shape} {op : BitVec 8} {F : Fmt} (hw : F.width = 8 ∨ F.width = 16 ∨ F.width = 32)
    {f : Nat → Nat → Nat → Lane} (hi : ∀ g s, exec (i g) s = s.vf3 op h g F f) :
    FloatLanes i h F.width 4 fun g x n =>
      f (lane F.width (x.v g.a) n).toNat (lane F.width (x.v g.b) n).toNat (lane F.width (x.v g.d) n).toNat :=
  FloatLanes.of hw hi

/-- The bit of a compare's mask that stands for lane n governs and compares (R116, R174). -/
theorem cmpMask_bit (x : Ctx) (g : G) {w : Nat} (hw : w = 8 ∨ w = 16 ∨ w = 32) (c : Nat → Bool) {j : Nat} (hj : j < 128) :
    (cmpMask w (x.lanes g) c).getLsbD j =
      if w = 32 then x.governs g 32 (j / 2) && c (j / 2)
      else if w = 8 then x.governs g 8 (2 * j) && c (2 * j) && c (2 * j + 1)
      else x.governs g 16 j && c j := by
  have e16 := Ctx.governs_lanes x g (w := 16) (n := j) (by simp) (by omega)
  have e32 := Ctx.governs_lanes x g (w := 32) (n := j / 2) (by simp) (by omega)
  have e8 := Ctx.governs_lanes x g (w := 8) (n := 2 * j) (by simp) (by omega)
  rcases hw with rfl | rfl | rfl
  · rw [cmpMask8_bit _ _ hj, ← e8]
    simp [maskBit]
  · rw [cmpMask16_bit _ _ hj, ← e16]
    simp [maskBit]
  · rw [cmpMask32_bit _ _ hj, ← e32]
    simp [maskBit]

/-! Arithmetic. -/


/-- The signed minimum by its integer value. -/
theorem min_signed {w : Nat} (a b : BitVec w) : (if a.slt b then a else b) = BitVec.ofInt w (min a.toInt b.toInt) := by
  simp only [BitVec.slt, decide_eq_true_eq]
  split
  · rw [min_eq_left (by omega), BitVec.ofInt_toInt]
  · rw [min_eq_right (by omega), BitVec.ofInt_toInt]

/-- The signed maximum. -/
theorem max_signed {w : Nat} (a b : BitVec w) : (if a.slt b then b else a) = BitVec.ofInt w (max a.toInt b.toInt) := by
  simp only [BitVec.slt, decide_eq_true_eq]
  split
  · rw [max_eq_right (by omega), BitVec.ofInt_toInt]
  · rw [max_eq_left (by omega), BitVec.ofInt_toInt]

/-- The unsigned minimum. -/
theorem min_unsigned {w : Nat} (a b : BitVec w) : (if a.ult b then a else b) = BitVec.ofNat w (min a.toNat b.toNat) := by
  simp only [BitVec.ult, decide_eq_true_eq]
  split
  · rw [min_eq_left (by omega), BitVec.ofNat_toNat, BitVec.setWidth_eq]
  · rw [min_eq_right (by omega), BitVec.ofNat_toNat, BitVec.setWidth_eq]

/-- The unsigned maximum. -/
theorem max_unsigned {w : Nat} (a b : BitVec w) : (if a.ult b then b else a) = BitVec.ofNat w (max a.toNat b.toNat) := by
  simp only [BitVec.ult, decide_eq_true_eq]
  split
  · rw [max_eq_right (by omega), BitVec.ofNat_toNat, BitVec.setWidth_eq]
  · rw [max_eq_left (by omega), BitVec.ofNat_toNat, BitVec.setWidth_eq]

/-- The magnitude by its integer value; the most negative value stays. -/
theorem abs_bits {w : Nat} (a : BitVec w) : (if a.msb then -a else a) = BitVec.ofNat w a.toInt.natAbs := by
  have h := a.isLt
  cases hm : a.msb
  · have e : a.toInt = a.toNat := by rw [BitVec.toInt_eq_msb_cond, hm]; rfl
    simp [e]
  · have e : a.toInt = (a.toNat : Int) - 2 ^ w := by rw [BitVec.toInt_eq_msb_cond, hm]; simp
    apply BitVec.eq_of_toNat_eq
    have h2 : ((a.toNat : Int) - 2 ^ w).natAbs = 2 ^ w - a.toNat := by
      have : ((2 ^ w : Nat) : Int) = (2 : Int) ^ w := by push_cast; rfl
      omega
    simp [e, h2, BitVec.toNat_neg]

/-- The low half of a product is that of the signed product. -/
theorem mul_eq {w : Nat} (a b : BitVec w) : a * b = BitVec.ofInt w (a.toInt * b.toInt) := by
  apply BitVec.eq_of_toInt_eq
  simp [BitVec.toInt_mul]

/-- The high half of a signed product. -/
theorem highHalf_eq {w : Nat} (a b : BitVec w) : BitVec.ofInt w (a.toInt * b.toInt / 2 ^ w) =
    (a.signExtend (2 * w) * b.signExtend (2 * w)).extractLsb' w w := by
  by_cases h0 : w = 0
  · subst h0; exact BitVec.eq_of_zero_length rfl
  have ha := BitVec.toInt_lt (x := a)
  have ha' := BitVec.le_toInt (x := a)
  have hb := BitVec.toInt_lt (x := b)
  have hb' := BitVec.le_toInt (x := b)
  have hz : (a.signExtend (2 * w) * b.signExtend (2 * w)).toInt = a.toInt * b.toInt := by
    rw [BitVec.toInt_mul, BitVec.toInt_signExtend_of_le (by omega), BitVec.toInt_signExtend_of_le (by omega)]
    have hp : (2 : Int) ^ w = 2 * 2 ^ (w - 1) := by rw [← pow_succ']; congr 1; omega
    have hq : (2 : Int) ^ (2 * w) = 4 * (2 ^ (w - 1) * 2 ^ (w - 1)) := by
      rw [two_mul, pow_add, hp]; ring
    have hpos : (0 : Int) < 2 ^ (w - 1) := by positivity
    have h1 : |a.toInt * b.toInt| ≤ 2 ^ (w - 1) * 2 ^ (w - 1) := by
      rw [abs_mul]
      exact mul_le_mul (abs_le.mpr ⟨by omega, by omega⟩) (abs_le.mpr ⟨by omega, by omega⟩) (abs_nonneg _) (by omega)
    obtain ⟨h2, h3⟩ := abs_le.mp h1
    have hpp : (0 : Int) < 2 ^ (w - 1) * 2 ^ (w - 1) := by positivity
    generalize (2 : Int) ^ (w - 1) * 2 ^ (w - 1) = P at hq h2 h3 hpp
    generalize a.toInt * b.toInt = Q at h2 h3
    apply Int.bmod_eq_of_le
    · push_cast; rw [hq]; omega
    · push_cast; rw [hq]; omega
  generalize a.signExtend (2 * w) * b.signExtend (2 * w) = z at hz ⊢
  rw [← hz]
  apply BitVec.eq_of_getLsbD_eq
  intro i hi
  rw [BitVec.getLsbD_extractLsb']
  have : z.toInt / 2 ^ w = (z.sshiftRight w).toInt := by rw [BitVec.toInt_sshiftRight, Int.shiftRight_eq_div_pow]; push_cast; rfl
  rw [this]
  have e : BitVec.ofInt w (z.sshiftRight w).toInt = (z.sshiftRight w).setWidth w := by
    apply BitVec.eq_of_toInt_eq
    rw [BitVec.toInt_ofInt, BitVec.toInt_setWidth, BitVec.toInt_eq_toNat_bmod]
    rw [Int.bmod_bmod_of_dvd (by exact pow_dvd_pow _ (by omega))]
  rw [e, BitVec.getLsbD_setWidth, BitVec.getLsbD_sshiftRight]
  simp only [hi, decide_true, Bool.true_and]
  have h1 : ¬ 2 * w ≤ i := by omega
  have h2 : w + i < 2 * w := by omega
  simp [h1, h2]


/-- Trailing zeros from a bit on. -/
theorem ctzFrom_spec (x : W64) (i n : Nat) : ctzFrom x i n ≤ n ∧ (∀ j < ctzFrom x i n, x.getLsbD (i + j) = false) ∧
    (ctzFrom x i n < n → x.getLsbD (i + ctzFrom x i n) = true) := by
  induction n generalizing i with
  | zero => simp [ctzFrom]
  | succ n ih =>
    rw [ctzFrom]
    split
    · rename_i h; exact ⟨by omega, fun j hj => by omega, fun _ => h⟩
    · rename_i h
      obtain ⟨h1, h2, h3⟩ := ih (i + 1)
      refine ⟨by omega, fun j hj => ?_, fun hl => ?_⟩
      · cases j with
        | zero => simpa using h
        | succ j => have := h2 j (by omega); rwa [show i + 1 + j = i + (j + 1) by omega] at this
      · have := h3 (by omega); rwa [show i + 1 + ctzFrom x (i + 1) n = i + (1 + ctzFrom x (i + 1) n) by omega] at this


/-- The number of set bits. -/
theorem popCount_spec {w : Nat} (x : BitVec w) (n : Nat) : popCount x n = ((List.range n).filter fun i => x.getLsbD i).length := by
  induction n with
  | zero => rfl
  | succ n ih =>
    rw [popCount, ih, List.range_succ, List.filter_append, List.length_append]
    cases h : x.getLsbD n <;> simp [h]


/-- Leading zeros. -/
theorem clz_spec (x : W64) : ∃ n ≤ 64, clz64 x = BitVec.ofNat 64 n ∧ (∀ i < n, x.getLsbD (63 - i) = false) ∧
    (n < 64 → x.getLsbD (63 - n) = true) := by
  unfold clz64
  split
  · rename_i h
    subst h
    exact ⟨64, by omega, rfl, by simp, by omega⟩
  · rename_i h
    have h0 : x.toNat ≠ 0 := fun e => h (BitVec.eq_of_toNat_eq e)
    have hl : Nat.log2 x.toNat < 64 := (Nat.log2_lt h0).mpr x.isLt
    refine ⟨63 - Nat.log2 x.toNat, by omega, rfl, fun i hi => ?_, fun _ => ?_⟩
    · rw [BitVec.getLsbD]
      apply Nat.testBit_lt_two_pow
      exact lt_of_lt_of_le (Nat.lt_log2_self) (Nat.pow_le_pow_right (by omega) (by omega))
    · rw [BitVec.getLsbD, show 63 - (63 - Nat.log2 x.toNat) = Nat.log2 x.toNat by omega]
      exact Nat.testBit_log2 h0

/-! Reductions and scans (R182, R183). -/

theorem treeLevel_spec (f : Nat → Nat → Lane) (n : Nat) (x : Nat → Nat) :
    (treeLevel f ((List.range (2 * n)).map x)).1 = (List.range n).map (fun i => (f (x (2 * i)) (x (2 * i + 1))).bits) ∧
    ∀ b, (treeLevel f ((List.range (2 * n)).map x)).2.getLsbD b = true ↔ ∃ i < n, (f (x (2 * i)) (x (2 * i + 1))).flags.getLsbD b = true := by
  induction n generalizing x with
  | zero => simp [treeLevel]
  | succ n ih =>
    obtain ⟨h1, h2⟩ := ih fun i => x (i + 2)
    have e : (List.range (2 * (n + 1))).map x = x 0 :: x 1 :: (List.range (2 * n)).map (fun i => x (i + 2)) := by
      rw [show 2 * (n + 1) = 2 * n + 1 + 1 by ring, List.range_succ_eq_map, List.range_succ_eq_map]; simp [Function.comp_def]
    rw [e, treeLevel]
    refine ⟨?_, fun b => ?_⟩
    · show (f (x 0) (x 1)).bits :: (treeLevel f _).1 = _
      rw [h1, List.range_succ_eq_map]; simp [Function.comp_def, Nat.mul_add, show ∀ a, 2 * a + 1 + 2 = 2 * a + 2 + 1 from fun _ => by omega]
    · show ((f (x 0) (x 1)).flags ||| (treeLevel f _).2).getLsbD b = true ↔ _
      rw [BitVec.getLsbD_or, Bool.or_eq_true, h2]
      constructor
      · rintro (h | ⟨i, hi, h⟩)
        · exact ⟨0, by omega, by simpa using h⟩
        · exact ⟨i + 1, by omega, by rw [show 2 * (i + 1) = 2 * i + 2 by ring, show 2 * i + 2 + 1 = 2 * i + 1 + 2 by ring]; exact h⟩
      · rintro ⟨i, hi, h⟩
        cases i with
        | zero => exact Or.inl (by simpa using h)
        | succ i => exact Or.inr ⟨i, by omega, by rw [show 2 * (i + 1) = 2 * i + 2 by ring, show 2 * i + 2 + 1 = 2 * i + 1 + 2 by ring] at h; exact h⟩

/-- The pairwise tree of a reduction: its values and the flags of its operations (R182). -/
theorem treeFrom_spec (f : Nat → Nat → Lane) (v : Vec) (fl : Flags) (k l : Nat) :
    (treeFrom f ((List.range (2 ^ k)).map (treeValue f v l)) fl k).1 = [treeValue f v (l + k) 0] ∧
    ∀ b, (treeFrom f ((List.range (2 ^ k)).map (treeValue f v l)) fl k).2.getLsbD b = true ↔ fl.getLsbD b = true ∨
      ∃ j < k, ∃ i < 2 ^ (k - 1 - j), (f (treeValue f v (l + j) (2 * i)) (treeValue f v (l + j) (2 * i + 1))).flags.getLsbD b = true := by
  induction k generalizing l fl with
  | zero => simp [treeFrom]
  | succ k ih =>
    obtain ⟨h1, h2⟩ := treeLevel_spec f (2 ^ k) (treeValue f v l)
    obtain ⟨h3, h4⟩ := ih (fl ||| (treeLevel f ((List.range (2 * 2 ^ k)).map (treeValue f v l))).2) (l + 1)
    have e : (List.range (2 ^ k)).map (fun i => (f (treeValue f v l (2 * i)) (treeValue f v l (2 * i + 1))).bits) = (List.range (2 ^ k)).map (treeValue f v (l + 1)) := rfl
    rw [pow_succ', treeFrom]
    simp only [h1, e]
    refine ⟨by rw [h3]; congr 2; omega, fun b => ?_⟩
    rw [h4, BitVec.getLsbD_or, Bool.or_eq_true, h2, or_assoc]
    refine or_congr_right ?_
    constructor
    · rintro (⟨i, hi, h⟩ | ⟨j, hj, i, hi, h⟩)
      · exact ⟨0, by omega, i, by simpa using hi, h⟩
      · exact ⟨j + 1, by omega, i, by rwa [show k + 1 - 1 - (j + 1) = k - 1 - j by omega], by rwa [show l + (j + 1) = l + 1 + j by omega]⟩
    · rintro ⟨j, hj, i, hi, h⟩
      cases j with
      | zero => exact Or.inl ⟨i, by simpa using hi, h⟩
      | succ j => exact Or.inr ⟨j, by omega, i, by rwa [show k + 1 - 1 - (j + 1) = k - 1 - j by omega] at hi, by rwa [show l + (j + 1) = l + 1 + j by omega] at h⟩

theorem scanLevel_spec (f : Nat → Nat → Lane) (v : Vec) (l : Nat) (hl : 2 ^ l ≤ 64) (fl : Flags) :
    let xs := (List.range 64).map (scanValue f v l)
    let rs := (xs.drop (2 ^ l)).zipWith (fun hi lo => f lo hi) xs
    (xs.take (2 ^ l) ++ rs.map (·.bits) = (List.range 64).map (scanValue f v (l + 1))) ∧
    ∀ b, (rs.foldl (fun a r => a ||| r.flags) fl).getLsbD b = true ↔ fl.getLsbD b = true ∨
      ∃ i < 64, 2 ^ l ≤ i ∧ (f (scanValue f v l (i - 2 ^ l)) (scanValue f v l i)).flags.getLsbD b = true := by
  intro xs rs
  have hr : rs = (List.range (64 - 2 ^ l)).map fun i => f (scanValue f v l i) (scanValue f v l (i + 2 ^ l)) := by
    apply List.ext_getElem
    · simp [rs, xs]
    · intro i h1 h2
      simp [rs, xs, Nat.add_comm]
  refine ⟨?_, fun b => ?_⟩
  · apply List.ext_getElem
    · simp [hr, xs]; omega
    · intro i h1 h2
      simp only [List.length_map, List.length_range] at h2
      rw [List.getElem_append]
      split
      · rename_i h; simp [xs] at h ⊢; rw [scanValue, if_neg (by omega)]
      · rename_i h; simp [xs, hr] at h ⊢; rw [scanValue, if_pos (by omega), min_eq_left hl, Nat.sub_add_cancel (by omega)]
  · have key : ∀ (ls : List Lane) (fl : Flags), (ls.foldl (fun a r => a ||| r.flags) fl).getLsbD b = true ↔ fl.getLsbD b = true ∨ ∃ r ∈ ls, r.flags.getLsbD b = true := by
      intro ls
      induction ls with
      | nil => simp
      | cons a ls ih => intro fl; rw [List.foldl_cons, ih]; simp [or_assoc]
    rw [key, hr]
    refine or_congr_right ?_
    simp only [List.mem_map, List.mem_range]
    constructor
    · rintro ⟨_, ⟨i, hi, rfl⟩, h⟩
      exact ⟨i + 2 ^ l, by omega, by omega, by rwa [Nat.add_sub_cancel]⟩
    · rintro ⟨i, hi, h1, h⟩
      exact ⟨_, ⟨i - 2 ^ l, by omega, rfl⟩, by rwa [Nat.sub_add_cancel h1]⟩

/-- The doubling order of a scan: its values and the flags of its operations (R183). -/
theorem scanFrom_spec (f : Nat → Nat → Lane) (v : Vec) (fl : Flags) (k l : Nat) (h : l + k ≤ 7) :
    (scanFrom f ((List.range 64).map (scanValue f v l)) fl (2 ^ l) k).1 = (List.range 64).map (scanValue f v (l + k)) ∧
    ∀ b, (scanFrom f ((List.range 64).map (scanValue f v l)) fl (2 ^ l) k).2.getLsbD b = true ↔ fl.getLsbD b = true ∨
      ∃ j < k, ∃ i < 64, 2 ^ (l + j) ≤ i ∧ (f (scanValue f v (l + j) (i - 2 ^ (l + j))) (scanValue f v (l + j) i)).flags.getLsbD b = true := by
  induction k generalizing l fl with
  | zero => simp [scanFrom]
  | succ k ih =>
    obtain ⟨h1, h2⟩ := scanLevel_spec f v l (by calc 2 ^ l ≤ 2 ^ 6 := Nat.pow_le_pow_right (by omega) (by omega)
                                                  _ = 64 := rfl) fl
    rw [scanFrom, h1]
    simp only [← pow_succ'] at *
    obtain ⟨h3, h4⟩ := ih _ (l + 1) (by omega)
    refine ⟨by rw [h3]; congr 2; omega, fun b => ?_⟩
    rw [h4, h2, or_assoc]
    refine or_congr_right ?_
    constructor
    · rintro (⟨i, hi, h⟩ | ⟨j, hj, h⟩)
      · exact ⟨0, by omega, i, hi, h⟩
      · exact ⟨j + 1, by omega, by rwa [show l + (j + 1) = l + 1 + j by omega]⟩
    · rintro ⟨j, hj, h⟩
      cases j with
      | zero => exact Or.inl h
      | succ j => exact Or.inr ⟨j, by omega, by rwa [show l + (j + 1) = l + 1 + j by omega] at h⟩

end Sys2Proof.Machine
end

