-- ==== Sys2Proof/Machine/ImageBytes.lean ====
section
/-!
DEFINITION. The bytes of a context image, in the layout of R316 and R317. Where the layout names what an area holds and not its form,
the form is the model's (log 53, DESIGN CHOICE): one doubleword for each item, in the order in which the layout names them.
-/

namespace Sys2Proof.Machine

/-- Bytes filled up with zeros to a size, or cut to it. -/
def padTo (n : Nat) (bs : List Byte) : List Byte := (bs ++ List.replicate (n - bs.length) 0).take n

/-- Numbers as doublewords. -/
def natBytes (l : List Nat) : List Byte := dwBytes (l.map (BitVec.ofNat 64))

/-- Predicates, masks, full and empty bits. -/
def Ctx.maskBytes (x : Ctx) : List Byte :=
  padTo 16 [x.pregs] ++ padTo 176 ((x.kregs.toList.drop 1).flatMap fun k => leBytes 16 k.toNat) ++
    natBytes [x.full.s.toNat, x.full.v.toNat, x.full.p.toNat, x.full.k.toNat]

/-- RW special registers and the trap words in the order of R21; `kinds`: SEGATTR. -/
def Ctx.specBytes (x : Ctx) (kinds : W64) : List Byte :=
  dwBytes [x.spec.status, x.spec.fflags, x.spec.trapinfo, x.spec.trappc, x.spec.trapvec, x.spec.faultmask, x.spec.trapopa,
    x.spec.trapopb, x.spec.vlive, kinds, x.spec.rngseed, x.spec.rngctr, x.spec.arbw]

/-- The loop stack, 32 bytes an entry. -/
def Ctx.loopBytes (x : Ctx) : List Byte := x.loops.flatMap fun l => natBytes [l.start.toNat, l.stop.toNat, l.count.toNat, 0]

/-- The stream record, kind 0 where there is none. -/
def Image.streamBytes (im : Image) : List Byte := match im.ctx.stream with
  | none => []
  | some st =>
    let kind := match st.kind with
      | .smv => 1
      | .sdup => 2
      | .rmv => 3
    natBytes [st.src, st.dst, st.n, st.moved, kind, st.srcCore.val, st.dstCore.val, im.core.val]

/-- The asynchronous trap queue. -/
def Ctx.asyncBytes (x : Ctx) : List Byte := x.asyncQ.flatMap fun t => dwBytes [t.code.setWidth 64, t.opa, t.opb, 0]

/-- Whether a saved matrix command has its operands under a hold: an `mmq` that has not consumed them (R197). -/
def MxCmd.holds (c : MxCmd) : Bool := match c.op with
  | .mmq _ _ _ _ => !c.consumed
  | .mzero => false

/-- The saved matrix commands that hold operands, as the bits of a number, in issue order: an `mmq`, a drain with a bias (R197, R205). -/
def Image.holdBits (im : Image) : Nat :=
  let all := im.mxq.map (fun c => (c.seq, c.holds)) ++ im.drains.map fun d => (d.seq, d.bias.isSome)
  ((all.mergeSort fun x y => decide (x.1 ≤ y.1)).zipIdx.map fun e => if e.1.2 then 2 ^ e.2 else 0).sum

/-- Matrix control: of each accumulator INX, OVF, NAN, POIS and CHKF, then the step checkpoint and the holds. -/
def Image.matrixBytes (im : Image) : List Byte :=
  let one (a : Acc) : List Nat := [a.inx, a.ovf, a.nan, a.pois.toNat, a.chkf.toNat]
  let (a, b) := im.mx.getD (Acc.zero, Acc.zero)
  natBytes (one a ++ one b ++ [(im.mxq.head?.map (·.step)).getD 0, im.holdBits])

/-- ck and mg of both accumulators. -/
def checkBytes (a b : Acc) : List Byte :=
  [a, b].flatMap fun x => dwBytes (((List.range 128).map fun j => tabGet 0 x.ck j) ++ (List.range 128).map fun j => tabGet 0 x.mg j)

/-- G and ρ of both accumulators. -/
def sumBytes (a b : Acc) : List Byte := dwBytes [BitVec.ofNat 64 a.g, BitVec.ofNat 64 b.g, a.rho, b.rho]

/-- The cells of an accumulator. -/
def Acc.bytes (a : Acc) : List Byte := (List.range 16384).flatMap fun i => leBytes 4 (tabGet 0 a.cells i).toNat

/-- The number of a register in a snapshot entry: its file in [7:6], 0 to 3 for s, v, p and k. -/
def Reg.number : Reg → Nat
  | .s i => i.toNat
  | .v i => 64 + i.toNat
  | .p i => 128 + i.toNat
  | .k i => 192 + i.toNat

/-- A snapshot entry: 256 bytes of value, then register, tag and flags. -/
def SnapEntry.bytes (e : SnapEntry) : List Byte :=
  let v : Nat := match e.val with
    | .s _ x => x.toNat
    | .v _ x => x.toNat
    | .p _ x => x.toNat
    | .k _ x => x.toNat
  leBytes 256 v ++ natBytes [e.val.reg.number, e.tag, e.flags.toNat, 0]

/-- A saved command: its slot word, the values of sA, sB and sD that it was issued with, its tag and the entries it has taken (R316). -/
def Issued.saved (i : Issued) (tag : Nat) (entries : List Rec64) : List Byte :=
  padTo 64 (dwBytes [i.word.setWidth 64, i.a, i.b, i.d, BitVec.ofNat 64 tag]) ++ padTo 192 (entries.flatMap fun e => leBytes 64 e.toNat)

/-- The entries that an operation of a copy engine takes as it is issued (R184). -/
def CmdOp.taken (o : CmdOp) (src dst : Rec64) : List Rec64 := match o with
  | .cpy => [src, dst]
  | .mov => [src, dst]
  | .movNp => [src, dst]
  | .cpyNp => [src, dst]
  | .pub => [dst]
  | .dsc => [dst]
  | .fill _ => [dst]
  | .ctradd _ => []
  | .kvshare _ _ => []
  | .kvdrop _ => []
  | .kvstat _ _ => []

/-- The entries that a matrix command takes. -/
def MxCmd.taken (c : MxCmd) : List Rec64 := match c.op with
  | .mmq _ _ _ _ => [c.a, c.b]
  | .mzero => []

/-- The saved commands in issue order; the 32 bytes of a message stand in an entry's place. -/
def Image.commands (im : Image) : List (List Byte) :=
  let all := im.cmds.map (fun c => (c.tag, c.issued.saved c.tag (c.op.taken c.src c.dst))) ++
    im.mxq.map (fun c => (c.seq, c.issued.saved c.seq c.taken)) ++
    im.drains.map (fun d => (d.seq, d.issued.saved d.seq ([d.dst, d.epi] ++ d.bias.toList))) ++
    im.colls.map (fun c => (c.tag, c.issued.saved c.tag [c.desc, c.bucket, c.ring])) ++
    im.msgs.map fun m => (m.tag, m.issued.saved m.tag [m.data.setWidth 512])
  (all.mergeSort fun x y => decide (x.1 ≤ y.1)).map (·.2)

/-- The areas of an image with their sizes, in the order of their offsets (R316). -/
def Image.areas (im : Image) : List (Nat × List Byte) :=
  let x := im.ctx
  let (a, b) := im.mx.getD (Acc.zero, Acc.zero)
  [(0x100, dwBytes im.header), (0x200, dwBytes (x.sregs.toList.set 0 0)), (0x100, x.maskBytes), (0x100, x.specBytes im.kinds),
    (0x80, x.loopBytes), (0x40, im.streamBytes),
    (0x40, natBytes [x.flagFile.toNat, x.cmdSeq, x.spec.segown.toNat, im.colls.length]), (0x100, x.asyncBytes), (0x100, im.matrixBytes),
    (0x1000, checkBytes a b), (0x800, sumBytes a b), (0x4000, x.vregs.toList.flatMap fun v => leBytes 256 v.toNat),
    (0x3600, x.snap.flatMap SnapEntry.bytes), (0xA00, x.refusals.flatMap fun t => dwBytes [t.opa, t.opb]),
    (0x4000, (List.range 256).flatMap fun i => leBytes 64 (x.entry i).toNat), (0x10000, a.bytes), (0x10000, b.bytes)]

/-- The image as it is written to its node's frame, before encryption: 188,416 bytes and 256 for each saved command (R314, R316). -/
def Image.bytes (im : Image) : List Byte :=
  (im.areas.flatMap fun p => padTo p.1 p.2) ++ im.commands.flatten

end Sys2Proof.Machine
end

