-- ==== Sys2Proof/Tests/Slice0.lean ====
section
/-!
SUPPORT. Tests: ill-formed terms that WellFormed refuses; one word of every row and the spec's worked encodings; single
steps whose results the spec states; for every statement with hypotheses, operands and a state that meet them.
-/

namespace Sys2Proof.Tests.Slice0

open Sys2Proof Sys2Proof.Machine

set_option Elab.async false

/-! Decoding: one word of every row, its fields at values that the encoding admits. -/

/-- Each word decodes in its map to its instruction; the twin slot holds 0x80000001. -/
noncomputable def reads (m : SlotMap) (l : List (SlotWord × Instr)) : Bool := l.all fun x => decide (decodeWord m x.1 0x80000001 = x.2)

theorem test_decode_c1 : reads .c [
    (0x10380080, .bri ⟨false, 1, true, false, 0, 2, 0⟩),
    (0x10483080, .bril ⟨false, 1, true, false, 3, 2, 0⟩),
    (0x10700000, .lpx ⟨false, 1, false, false, 0, 0, 0⟩),
    (0x10800000, .yield ⟨false, 1, false, false, 0, 0, 0⟩),
    (0x109C0081, .waitGe ⟨false, 1, true, true, 0, 2, 1⟩),
    (0x10A00001, .waitF ⟨false, 1, false, false, 0, 0, 1⟩),
    (0x10B00000, .retire ⟨false, 1, false, false, 0, 0, 0⟩),
    (0x10C83081, .spawn ⟨false, 1, true, false, 3, 2, 1⟩),
    (0x10D00081, .trap ⟨false, 1, false, false, 0, 2, 1⟩),
    (0x10E00000, .rti ⟨false, 1, false, false, 0, 0, 0⟩),
    (0x10F03001, .mfs ⟨false, 1, false, false, 3, 0, 1⟩),
    (0x11083001, .mts ⟨false, 1, true, false, 3, 0, 1⟩),
    (0x11100001, .fenceRel ⟨false, 1, false, false, 0, 0, 1⟩),
    (0x11200001, .fenceAcq ⟨false, 1, false, false, 0, 0, 1⟩),
    (0x11300001, .fenceSc ⟨false, 1, false, false, 0, 0, 1⟩),
    (0x11400001, .xfence ⟨false, 1, false, false, 0, 0, 1⟩),
    (0x11583080, .gbar ⟨false, 1, true, false, 3, 2, 0⟩),
    (0x11603000, .cbar ⟨false, 1, false, false, 3, 0, 0⟩),
    (0x11703000, .sopen ⟨false, 1, false, false, 3, 0, 0⟩),
    (0x11880080, .sclose ⟨false, 1, true, false, 0, 2, 0⟩),
    (0x119C0081, .cancel ⟨false, 1, true, true, 0, 2, 1⟩),
    (0x11A80080, .segacq ⟨false, 1, true, false, 0, 2, 0⟩),
    (0x11B80080, .segrel ⟨false, 1, true, false, 0, 2, 0⟩),
    (0x11C80080, .tickw ⟨false, 1, true, false, 0, 2, 0⟩)] = true := by decide +kernel

theorem test_decode_c2 : reads .c [
    (0x11D00000, .brk ⟨false, 1, false, false, 0, 0, 0⟩),
    (0x10100120, .br ⟨false, 1, 0x120⟩),
    (0x10200120, .brl ⟨false, 1, 0x120⟩),
    (0x1052400C, .lp ⟨false, 1, 9, 12⟩),
    (0x1060240C, .lpi ⟨false, 1, 9, 12⟩)] = true := by decide +kernel

theorem test_decode_s1 : reads .s [
    (0x101C3081, .add ⟨false, 1, true, true, 3, 2, 1⟩),
    (0x102C3081, .sub ⟨false, 1, true, true, 3, 2, 1⟩),
    (0x10383081, .addi ⟨false, 1, true, false, 3, 2, 1⟩),
    (0x104C3081, .mul ⟨false, 1, true, true, 3, 2, 1⟩),
    (0x105C3081, .mulh ⟨false, 1, true, true, 3, 2, 1⟩),
    (0x106C3081, .mulhn ⟨false, 1, true, true, 3, 2, 1⟩),
    (0x107C3081, .div ⟨false, 1, true, true, 3, 2, 1⟩),
    (0x108C3081, .divn ⟨false, 1, true, true, 3, 2, 1⟩),
    (0x109C3081, .rem ⟨false, 1, true, true, 3, 2, 1⟩),
    (0x10AC3081, .remn ⟨false, 1, true, true, 3, 2, 1⟩),
    (0x10BC3081, .min ⟨false, 1, true, true, 3, 2, 1⟩),
    (0x10CC3081, .max ⟨false, 1, true, true, 3, 2, 1⟩),
    (0x10DC3081, .minn ⟨false, 1, true, true, 3, 2, 1⟩),
    (0x10EC3081, .maxn ⟨false, 1, true, true, 3, 2, 1⟩),
    (0x10F83080, .abs ⟨false, 1, true, false, 3, 2, 0⟩),
    (0x110C3081, .and ⟨false, 1, true, true, 3, 2, 1⟩),
    (0x111C3081, .or ⟨false, 1, true, true, 3, 2, 1⟩),
    (0x112C3081, .xor ⟨false, 1, true, true, 3, 2, 1⟩),
    (0x113C3081, .andn ⟨false, 1, true, true, 3, 2, 1⟩),
    (0x11483081, .andi ⟨false, 1, true, false, 3, 2, 1⟩),
    (0x11583081, .ori ⟨false, 1, true, false, 3, 2, 1⟩),
    (0x11683081, .xori ⟨false, 1, true, false, 3, 2, 1⟩),
    (0x118C3081, .shl ⟨false, 1, true, true, 3, 2, 1⟩),
    (0x119C3081, .shr ⟨false, 1, true, true, 3, 2, 1⟩)] = true := by decide +kernel

theorem test_decode_s2 : reads .s [
    (0x11AC3081, .sra ⟨false, 1, true, true, 3, 2, 1⟩),
    (0x11BC3081, .rotl ⟨false, 1, true, true, 3, 2, 1⟩),
    (0x11C83081, .shli ⟨false, 1, true, false, 3, 2, 1⟩),
    (0x11D83081, .shri ⟨false, 1, true, false, 3, 2, 1⟩),
    (0x11E83081, .srai ⟨false, 1, true, false, 3, 2, 1⟩),
    (0x12083080, .clz ⟨false, 1, true, false, 3, 2, 0⟩),
    (0x12183080, .ctz ⟨false, 1, true, false, 3, 2, 0⟩),
    (0x12283080, .popc ⟨false, 1, true, false, 3, 2, 0⟩),
    (0x123C3081, .bext ⟨false, 1, true, true, 3, 2, 1⟩),
    (0x124C3081, .bdep ⟨false, 1, true, true, 3, 2, 1⟩),
    (0x12583080, .brev ⟨false, 1, true, false, 3, 2, 0⟩),
    (0x128C3081, .cmpEq ⟨false, 1, true, true, 3, 2, 1⟩),
    (0x129C3081, .cmpNe ⟨false, 1, true, true, 3, 2, 1⟩),
    (0x12AC3081, .cmpLt ⟨false, 1, true, true, 3, 2, 1⟩),
    (0x12BC3081, .cmpLe ⟨false, 1, true, true, 3, 2, 1⟩),
    (0x12CC3081, .cmpLtn ⟨false, 1, true, true, 3, 2, 1⟩),
    (0x12DC3081, .cmpLen ⟨false, 1, true, true, 3, 2, 1⟩),
    (0x12E83081, .cmpiEq ⟨false, 1, true, false, 3, 2, 1⟩),
    (0x12F83081, .cmpiLt ⟨false, 1, true, false, 3, 2, 1⟩),
    (0x130C3081, .pand ⟨false, 1, true, true, 3, 2, 1⟩),
    (0x131C3081, .por ⟨false, 1, true, true, 3, 2, 1⟩),
    (0x132C3081, .pxor ⟨false, 1, true, true, 3, 2, 1⟩),
    (0x13383080, .pnot ⟨false, 1, true, false, 3, 2, 0⟩),
    (0x13483080, .mov ⟨false, 1, true, false, 3, 2, 0⟩)] = true := by decide +kernel

theorem test_decode_s3 : reads .s [
    (0x13503081, .movi ⟨false, 1, false, false, 3, 2, 1⟩),
    (0x138C3081, .lea1 ⟨false, 1, true, true, 3, 2, 1⟩),
    (0x139C3081, .lea2 ⟨false, 1, true, true, 3, 2, 1⟩),
    (0x13AC3081, .lea4 ⟨false, 1, true, true, 3, 2, 1⟩),
    (0x13BC3081, .lea8 ⟨false, 1, true, true, 3, 2, 1⟩),
    (0x140C0081, .chkEq ⟨false, 1, true, true, 0, 2, 1⟩),
    (0x141C0081, .chkP ⟨false, 1, true, true, 0, 2, 1⟩),
    (0x14403000, .rng ⟨false, 1, false, false, 3, 0, 0⟩),
    (0x150C3081, .faddF32 ⟨false, 1, true, true, 3, 2, 1⟩),
    (0x151C3081, .fsubF32 ⟨false, 1, true, true, 3, 2, 1⟩),
    (0x152C3081, .fmulF32 ⟨false, 1, true, true, 3, 2, 1⟩),
    (0x153C3081, .fmaF32 ⟨false, 1, true, true, 3, 2, 1⟩),
    (0x154C3081, .fcmpLt ⟨false, 1, true, true, 3, 2, 1⟩),
    (0x155C3081, .fcmpEq ⟨false, 1, true, true, 3, 2, 1⟩),
    (0x15683080, .cvtF32I64 ⟨false, 1, true, false, 3, 2, 0⟩),
    (0x15783080, .cvtI64F32 ⟨false, 1, true, false, 3, 2, 0⟩),
    (0x15883080, .cvtI64F32Rz ⟨false, 1, true, false, 3, 2, 0⟩),
    (0x13603000, .limm ⟨false, 1, false, false, 3, 0, 0⟩ 0x80000001),
    (0x13783000, .limmh ⟨false, 1, true, false, 3, 0, 0⟩ 0x80000001)] = true := by decide +kernel

theorem test_decode_v1 : reads .v [
    (0x101C3081, .vadd ⟨false, 1, true, true, 3, 2, 1⟩),
    (0x102C3081, .vsub ⟨false, 1, true, true, 3, 2, 1⟩),
    (0x103C3081, .vmul ⟨false, 1, true, true, 3, 2, 1⟩),
    (0x104C3081, .vmulh ⟨false, 1, true, true, 3, 2, 1⟩),
    (0x105C3081, .vmin ⟨false, 1, true, true, 3, 2, 1⟩),
    (0x106C3081, .vmax ⟨false, 1, true, true, 3, 2, 1⟩),
    (0x107C3081, .vminN32 ⟨false, 1, true, true, 3, 2, 1⟩),
    (0x108C3081, .vmaxN32 ⟨false, 1, true, true, 3, 2, 1⟩),
    (0x10983080, .vabs ⟨false, 1, true, false, 3, 2, 0⟩),
    (0x10AC3081, .vcmpEq ⟨false, 1, true, true, 3, 2, 1⟩),
    (0x10BC3081, .vcmpLt ⟨false, 1, true, true, 3, 2, 1⟩),
    (0x10CC3081, .vcmpLtN32 ⟨false, 1, true, true, 3, 2, 1⟩),
    (0x111C3081, .vaddH ⟨false, 1, true, true, 3, 2, 1⟩),
    (0x112C3081, .vsubH ⟨false, 1, true, true, 3, 2, 1⟩),
    (0x113C3081, .vmulH ⟨false, 1, true, true, 3, 2, 1⟩),
    (0x114C3081, .vmulhH ⟨false, 1, true, true, 3, 2, 1⟩),
    (0x115C3081, .vminH ⟨false, 1, true, true, 3, 2, 1⟩),
    (0x116C3081, .vmaxH ⟨false, 1, true, true, 3, 2, 1⟩),
    (0x117C3081, .vminN16 ⟨false, 1, true, true, 3, 2, 1⟩),
    (0x118C3081, .vmaxN16 ⟨false, 1, true, true, 3, 2, 1⟩),
    (0x11983080, .vabsH ⟨false, 1, true, false, 3, 2, 0⟩),
    (0x11AC3081, .vcmpEqH ⟨false, 1, true, true, 3, 2, 1⟩),
    (0x11BC3081, .vcmpLtH ⟨false, 1, true, true, 3, 2, 1⟩),
    (0x11CC3081, .vcmpLtN16 ⟨false, 1, true, true, 3, 2, 1⟩)] = true := by decide +kernel

theorem test_decode_v2 : reads .v [
    (0x121C3081, .vaddB ⟨false, 1, true, true, 3, 2, 1⟩),
    (0x122C3081, .vsubB ⟨false, 1, true, true, 3, 2, 1⟩),
    (0x123C3081, .vmulB ⟨false, 1, true, true, 3, 2, 1⟩),
    (0x124C3081, .vmulhB ⟨false, 1, true, true, 3, 2, 1⟩),
    (0x125C3081, .vminB ⟨false, 1, true, true, 3, 2, 1⟩),
    (0x126C3081, .vmaxB ⟨false, 1, true, true, 3, 2, 1⟩),
    (0x127C3081, .vminN8 ⟨false, 1, true, true, 3, 2, 1⟩),
    (0x128C3081, .vmaxN8 ⟨false, 1, true, true, 3, 2, 1⟩),
    (0x12983080, .vabsB ⟨false, 1, true, false, 3, 2, 0⟩),
    (0x12AC3081, .vcmpEqB ⟨false, 1, true, true, 3, 2, 1⟩),
    (0x12BC3081, .vcmpLtB ⟨false, 1, true, true, 3, 2, 1⟩),
    (0x12CC3081, .vcmpLtN8 ⟨false, 1, true, true, 3, 2, 1⟩),
    (0x130C3081, .vand ⟨false, 1, true, true, 3, 2, 1⟩),
    (0x131C3081, .vor ⟨false, 1, true, true, 3, 2, 1⟩),
    (0x132C3081, .vxor ⟨false, 1, true, true, 3, 2, 1⟩),
    (0x13383080, .vnot ⟨false, 1, true, false, 3, 2, 0⟩),
    (0x134C3081, .vshl ⟨false, 1, true, true, 3, 2, 1⟩),
    (0x135C3081, .vshr ⟨false, 1, true, true, 3, 2, 1⟩),
    (0x136C3081, .vsra ⟨false, 1, true, true, 3, 2, 1⟩),
    (0x13783081, .vshli ⟨false, 1, true, false, 3, 2, 1⟩),
    (0x13883081, .vshri ⟨false, 1, true, false, 3, 2, 1⟩),
    (0x13983081, .vsrai ⟨false, 1, true, false, 3, 2, 1⟩),
    (0x140C3081, .vfadd ⟨false, 1, true, true, 3, 2, 1⟩),
    (0x141C3081, .vfsub ⟨false, 1, true, true, 3, 2, 1⟩)] = true := by decide +kernel

theorem test_decode_v3 : reads .v [
    (0x142C3081, .vfmul ⟨false, 1, true, true, 3, 2, 1⟩),
    (0x143C3081, .vfma ⟨false, 1, true, true, 3, 2, 1⟩),
    (0x144C3081, .vfms ⟨false, 1, true, true, 3, 2, 1⟩),
    (0x145C3081, .vfmin ⟨false, 1, true, true, 3, 2, 1⟩),
    (0x146C3081, .vfmax ⟨false, 1, true, true, 3, 2, 1⟩),
    (0x14783080, .vfabs ⟨false, 1, true, false, 3, 2, 0⟩),
    (0x14883080, .vfneg ⟨false, 1, true, false, 3, 2, 0⟩),
    (0x149C3081, .vfcmpEq ⟨false, 1, true, true, 3, 2, 1⟩),
    (0x14AC3081, .vfcmpLt ⟨false, 1, true, true, 3, 2, 1⟩),
    (0x14BC3081, .vfcmpLe ⟨false, 1, true, true, 3, 2, 1⟩),
    (0x14C83080, .vrcp ⟨false, 1, true, false, 3, 2, 0⟩),
    (0x14D83080, .vrsqrt ⟨false, 1, true, false, 3, 2, 0⟩),
    (0x14E83080, .vexp2 ⟨false, 1, true, false, 3, 2, 0⟩),
    (0x14F83080, .vlog2 ⟨false, 1, true, false, 3, 2, 0⟩),
    (0x150C3081, .vfaddF16 ⟨false, 1, true, true, 3, 2, 1⟩),
    (0x151C3081, .vfsubF16 ⟨false, 1, true, true, 3, 2, 1⟩),
    (0x152C3081, .vfmulF16 ⟨false, 1, true, true, 3, 2, 1⟩),
    (0x153C3081, .vfmaF16 ⟨false, 1, true, true, 3, 2, 1⟩),
    (0x154C3081, .vfmsF16 ⟨false, 1, true, true, 3, 2, 1⟩),
    (0x155C3081, .vfminF16 ⟨false, 1, true, true, 3, 2, 1⟩),
    (0x156C3081, .vfmaxF16 ⟨false, 1, true, true, 3, 2, 1⟩),
    (0x15783080, .vfabsF16 ⟨false, 1, true, false, 3, 2, 0⟩),
    (0x15883080, .vfnegF16 ⟨false, 1, true, false, 3, 2, 0⟩),
    (0x159C3081, .vfcmpEqF16 ⟨false, 1, true, true, 3, 2, 1⟩)] = true := by decide +kernel

theorem test_decode_v4 : reads .v [
    (0x15AC3081, .vfcmpLtF16 ⟨false, 1, true, true, 3, 2, 1⟩),
    (0x15BC3081, .vfcmpLeF16 ⟨false, 1, true, true, 3, 2, 1⟩),
    (0x160C3081, .vfaddBf16 ⟨false, 1, true, true, 3, 2, 1⟩),
    (0x161C3081, .vfsubBf16 ⟨false, 1, true, true, 3, 2, 1⟩),
    (0x162C3081, .vfmulBf16 ⟨false, 1, true, true, 3, 2, 1⟩),
    (0x163C3081, .vfmaBf16 ⟨false, 1, true, true, 3, 2, 1⟩),
    (0x164C3081, .vfmsBf16 ⟨false, 1, true, true, 3, 2, 1⟩),
    (0x165C3081, .vfminBf16 ⟨false, 1, true, true, 3, 2, 1⟩),
    (0x166C3081, .vfmaxBf16 ⟨false, 1, true, true, 3, 2, 1⟩),
    (0x16783080, .vfabsBf16 ⟨false, 1, true, false, 3, 2, 0⟩),
    (0x16883080, .vfnegBf16 ⟨false, 1, true, false, 3, 2, 0⟩),
    (0x169C3081, .vfcmpEqBf16 ⟨false, 1, true, true, 3, 2, 1⟩),
    (0x16AC3081, .vfcmpLtBf16 ⟨false, 1, true, true, 3, 2, 1⟩),
    (0x16BC3081, .vfcmpLeBf16 ⟨false, 1, true, true, 3, 2, 1⟩),
    (0x170C3081, .vcvtF16F32 ⟨false, 1, true, true, 3, 2, 1⟩),
    (0x171C3081, .vcvtBf16F32 ⟨false, 1, true, true, 3, 2, 1⟩),
    (0x17283081, .vcvtF32F16 ⟨false, 1, true, false, 3, 2, 1⟩),
    (0x17383081, .vcvtF32Bf16 ⟨false, 1, true, false, 3, 2, 1⟩),
    (0x17483080, .vcvtI32F32 ⟨false, 1, true, false, 3, 2, 0⟩),
    (0x17583080, .vcvtI32F32Rz ⟨false, 1, true, false, 3, 2, 0⟩),
    (0x17683080, .vcvtF32I32 ⟨false, 1, true, false, 3, 2, 0⟩),
    (0x177C3081, .vsrBf16F32 ⟨false, 1, true, true, 3, 2, 1⟩),
    (0x178C3081, .vsrF16F32 ⟨false, 1, true, true, 3, 2, 1⟩),
    (0x079C3081, .vqmxE4m3 ⟨false, 0, true, true, 3, 2, 1⟩)] = true := by decide +kernel

theorem test_decode_v5 : reads .v [
    (0x07AC3081, .vqmxE5m2 ⟨false, 0, true, true, 3, 2, 1⟩),
    (0x07BC3081, .vqmxE3m2 ⟨false, 0, true, true, 3, 2, 1⟩),
    (0x07CC3081, .vqmxE2m3 ⟨false, 0, true, true, 3, 2, 1⟩),
    (0x07DC3081, .vqmxE2m1 ⟨false, 0, true, true, 3, 2, 1⟩),
    (0x07EC3081, .vqmxMxi8 ⟨false, 0, true, true, 3, 2, 1⟩),
    (0x080C3081, .vqmxSrE4m3 ⟨false, 0, true, true, 3, 2, 1⟩),
    (0x081C3081, .vqmxSrE5m2 ⟨false, 0, true, true, 3, 2, 1⟩),
    (0x082C3081, .vqmxSrE3m2 ⟨false, 0, true, true, 3, 2, 1⟩),
    (0x083C3081, .vqmxSrE2m3 ⟨false, 0, true, true, 3, 2, 1⟩),
    (0x084C3081, .vqmxSrE2m1 ⟨false, 0, true, true, 3, 2, 1⟩),
    (0x085C3081, .vqmxSrMxi8 ⟨false, 0, true, true, 3, 2, 1⟩),
    (0x18883081, .vdqmxE4m3 ⟨false, 1, true, false, 3, 2, 1⟩),
    (0x18983081, .vdqmxE5m2 ⟨false, 1, true, false, 3, 2, 1⟩),
    (0x18A83081, .vdqmxE3m2 ⟨false, 1, true, false, 3, 2, 1⟩),
    (0x18B83081, .vdqmxE2m3 ⟨false, 1, true, false, 3, 2, 1⟩),
    (0x18C83081, .vdqmxE2m1 ⟨false, 1, true, false, 3, 2, 1⟩),
    (0x18D83081, .vdqmxMxi8 ⟨false, 1, true, false, 3, 2, 1⟩),
    (0x19083080, .vbcastW ⟨false, 1, true, false, 3, 2, 0⟩),
    (0x19183080, .vbcastH ⟨false, 1, true, false, 3, 2, 0⟩),
    (0x19283080, .vbcastB ⟨false, 1, true, false, 3, 2, 0⟩),
    (0x19383080, .vmov ⟨false, 1, true, false, 3, 2, 0⟩),
    (0x194C3081, .vsel ⟨false, 1, true, true, 3, 2, 1⟩),
    (0x195C3081, .vpermW ⟨false, 1, true, true, 3, 2, 1⟩),
    (0x196C3081, .vpermH ⟨false, 1, true, true, 3, 2, 1⟩)] = true := by decide +kernel

theorem test_decode_v6 : reads .v [
    (0x197C3081, .vrot ⟨false, 1, true, true, 3, 2, 1⟩),
    (0x098C3081, .vextW ⟨false, 0, true, true, 3, 2, 1⟩),
    (0x199C3081, .vinsW ⟨false, 1, true, true, 3, 2, 1⟩),
    (0x19A83080, .viotaW ⟨false, 1, true, false, 3, 2, 0⟩),
    (0x09B83081, .vlane ⟨false, 0, true, false, 3, 2, 1⟩),
    (0x09C83081, .vunlane ⟨false, 0, true, false, 3, 2, 1⟩),
    (0x1A083080, .vredAddF32 ⟨false, 1, true, false, 3, 2, 0⟩),
    (0x1A183080, .vredMaxF32 ⟨false, 1, true, false, 3, 2, 0⟩),
    (0x1A283080, .vredMinF32 ⟨false, 1, true, false, 3, 2, 0⟩),
    (0x1A383080, .vredAddI32 ⟨false, 1, true, false, 3, 2, 0⟩),
    (0x1A483080, .vscanAddF32 ⟨false, 1, true, false, 3, 2, 0⟩),
    (0x1A583080, .vscanMaxI32 ⟨false, 1, true, false, 3, 2, 0⟩),
    (0x1A683080, .vscanAddI32 ⟨false, 1, true, false, 3, 2, 0⟩),
    (0x0B0C3081, .kand ⟨false, 0, true, true, 3, 2, 1⟩),
    (0x0B1C3081, .kor ⟨false, 0, true, true, 3, 2, 1⟩),
    (0x0B2C3081, .kxor ⟨false, 0, true, true, 3, 2, 1⟩),
    (0x0B383080, .knot ⟨false, 0, true, false, 3, 2, 0⟩),
    (0x0B483080, .kpop ⟨false, 0, true, false, 3, 2, 0⟩),
    (0x0B5C3081, .kset ⟨false, 0, true, true, 3, 2, 1⟩),
    (0x0B683081, .kget ⟨false, 0, true, false, 3, 2, 1⟩),
    (0x1C003000, .vrng ⟨false, 1, false, false, 3, 0, 0⟩),
    (0x1C4C0081, .vchk ⟨false, 1, true, true, 0, 2, 1⟩)] = true := by decide +kernel

theorem test_decode_l1 : reads .l [
    (0x10183081, .ldB ⟨false, 1, true, false, 3, 2, 1⟩),
    (0x10283081, .ldH ⟨false, 1, true, false, 3, 2, 1⟩),
    (0x10383081, .ldW ⟨false, 1, true, false, 3, 2, 1⟩),
    (0x10483081, .ldD ⟨false, 1, true, false, 3, 2, 1⟩),
    (0x10583081, .ldBz ⟨false, 1, true, false, 3, 2, 1⟩),
    (0x10683081, .ldHz ⟨false, 1, true, false, 3, 2, 1⟩),
    (0x10783081, .ldWz ⟨false, 1, true, false, 3, 2, 1⟩),
    (0x10883081, .stB ⟨false, 1, true, false, 3, 2, 1⟩),
    (0x10983081, .stH ⟨false, 1, true, false, 3, 2, 1⟩),
    (0x10A83081, .stW ⟨false, 1, true, false, 3, 2, 1⟩),
    (0x10B83081, .stD ⟨false, 1, true, false, 3, 2, 1⟩),
    (0x11083081, .vld ⟨false, 1, true, false, 3, 2, 1⟩),
    (0x11183081, .vldO ⟨false, 1, true, false, 3, 2, 1⟩),
    (0x11283081, .vldQ ⟨false, 1, true, false, 3, 2, 1⟩),
    (0x11383081, .vst ⟨false, 1, true, false, 3, 2, 1⟩),
    (0x11483081, .vstO ⟨false, 1, true, false, 3, 2, 1⟩),
    (0x11583081, .vstQ ⟨false, 1, true, false, 3, 2, 1⟩),
    (0x116C3081, .vldsW ⟨false, 1, true, true, 3, 2, 1⟩),
    (0x117C3081, .vldsH ⟨false, 1, true, true, 3, 2, 1⟩),
    (0x118C3081, .vldxW ⟨false, 1, true, true, 3, 2, 1⟩),
    (0x119C3081, .vstxW ⟨false, 1, true, true, 3, 2, 1⟩),
    (0x120C3081, .smvH ⟨false, 1, true, true, 3, 2, 1⟩),
    (0x121C3081, .smvW ⟨false, 1, true, true, 3, 2, 1⟩),
    (0x122C3081, .smvD ⟨false, 1, true, true, 3, 2, 1⟩)] = true := by decide +kernel

theorem test_decode_l2 : reads .l [
    (0x123C3081, .sdup ⟨false, 1, true, true, 3, 2, 1⟩),
    (0x124C0081, .vac ⟨false, 1, true, true, 0, 2, 1⟩),
    (0x12583080, .vtst ⟨false, 1, true, false, 3, 2, 0⟩),
    (0x12683081, .vtake ⟨false, 1, true, false, 3, 2, 1⟩),
    (0x130C3081, .amoAddW ⟨false, 1, true, true, 3, 2, 1⟩),
    (0x131C3081, .amoAddD ⟨false, 1, true, true, 3, 2, 1⟩),
    (0x132C3081, .amoMaxD ⟨false, 1, true, true, 3, 2, 1⟩),
    (0x133C3081, .amoXchgD ⟨false, 1, true, true, 3, 2, 1⟩),
    (0x134C3081, .amoCasD ⟨false, 1, true, true, 3, 2, 1⟩),
    (0x13883080, .ptst ⟨false, 1, true, false, 3, 2, 0⟩)] = true := by decide +kernel

theorem test_decode_n1 : reads .n [
    (0x10183081, .rldW ⟨false, 1, true, false, 3, 2, 1⟩),
    (0x10283081, .rldD ⟨false, 1, true, false, 3, 2, 1⟩),
    (0x10383081, .rldQ ⟨false, 1, true, false, 3, 2, 1⟩),
    (0x10483081, .rldO ⟨false, 1, true, false, 3, 2, 1⟩),
    (0x10583081, .rstW ⟨false, 1, true, false, 3, 2, 1⟩),
    (0x10683081, .rstD ⟨false, 1, true, false, 3, 2, 1⟩),
    (0x10783081, .rstQ ⟨false, 1, true, false, 3, 2, 1⟩),
    (0x10883081, .rstO ⟨false, 1, true, false, 3, 2, 1⟩),
    (0x10983081, .rvld ⟨false, 1, true, false, 3, 2, 1⟩),
    (0x10A83081, .rvst ⟨false, 1, true, false, 3, 2, 1⟩),
    (0x10BC3081, .rmvH ⟨false, 1, true, true, 3, 2, 1⟩),
    (0x10C83080, .rtst ⟨false, 1, true, false, 3, 2, 0⟩),
    (0x110C3081, .ramoAddRlx ⟨false, 1, true, true, 3, 2, 1⟩),
    (0x111C3081, .ramoAddAcq ⟨false, 1, true, true, 3, 2, 1⟩),
    (0x112C3081, .ramoAddRel ⟨false, 1, true, true, 3, 2, 1⟩),
    (0x113C3081, .ramoAddAr ⟨false, 1, true, true, 3, 2, 1⟩),
    (0x114C3081, .ramoMaxRlx ⟨false, 1, true, true, 3, 2, 1⟩),
    (0x115C3081, .ramoMaxAcq ⟨false, 1, true, true, 3, 2, 1⟩),
    (0x116C3081, .ramoMaxRel ⟨false, 1, true, true, 3, 2, 1⟩),
    (0x117C3081, .ramoMaxAr ⟨false, 1, true, true, 3, 2, 1⟩),
    (0x118C3081, .ramoXchgRlx ⟨false, 1, true, true, 3, 2, 1⟩),
    (0x119C3081, .ramoXchgAcq ⟨false, 1, true, true, 3, 2, 1⟩),
    (0x11AC3081, .ramoXchgRel ⟨false, 1, true, true, 3, 2, 1⟩),
    (0x11BC3081, .ramoXchgAr ⟨false, 1, true, true, 3, 2, 1⟩)] = true := by decide +kernel

theorem test_decode_n2 : reads .n [
    (0x11CC3081, .ramoCasRlx ⟨false, 1, true, true, 3, 2, 1⟩),
    (0x11DC3081, .ramoCasAcq ⟨false, 1, true, true, 3, 2, 1⟩),
    (0x11EC3081, .ramoCasRel ⟨false, 1, true, true, 3, 2, 1⟩),
    (0x11FC3081, .ramoCasAr ⟨false, 1, true, true, 3, 2, 1⟩)] = true := by decide +kernel

theorem test_decode_t1 : reads .t [
    (0x101C0081, .pset ⟨false, 1, true, true, 0, 2, 1⟩),
    (0x10283081, .pget ⟨false, 1, true, false, 3, 2, 1⟩),
    (0x10380080, .pinv ⟨false, 1, true, false, 0, 2, 0⟩),
    (0x110C3081, .mmq ⟨false, 1, true, true, 3, 2, 1⟩),
    (0x111C3081, .mmqZ ⟨false, 1, true, true, 3, 2, 1⟩),
    (0x112C3081, .mmqRc ⟨false, 1, true, true, 3, 2, 1⟩),
    (0x113C3081, .mmqZRc ⟨false, 1, true, true, 3, 2, 1⟩),
    (0x114C3081, .mmqTa ⟨false, 1, true, true, 3, 2, 1⟩),
    (0x115C3081, .mmqZTa ⟨false, 1, true, true, 3, 2, 1⟩),
    (0x116C3081, .mmqRcTa ⟨false, 1, true, true, 3, 2, 1⟩),
    (0x117C3081, .mmqZRcTa ⟨false, 1, true, true, 3, 2, 1⟩),
    (0x118C3081, .mmqTb ⟨false, 1, true, true, 3, 2, 1⟩),
    (0x119C3081, .mmqZTb ⟨false, 1, true, true, 3, 2, 1⟩),
    (0x11AC3081, .mmqRcTb ⟨false, 1, true, true, 3, 2, 1⟩),
    (0x11BC3081, .mmqZRcTb ⟨false, 1, true, true, 3, 2, 1⟩),
    (0x11CC3081, .mmqTaTb ⟨false, 1, true, true, 3, 2, 1⟩),
    (0x11DC3081, .mmqZTaTb ⟨false, 1, true, true, 3, 2, 1⟩),
    (0x11EC3081, .mmqRcTaTb ⟨false, 1, true, true, 3, 2, 1⟩),
    (0x11FC3081, .mmqZRcTaTb ⟨false, 1, true, true, 3, 2, 1⟩),
    (0x120C3081, .mdrain ⟨false, 1, true, true, 3, 2, 1⟩),
    (0x12103000, .mzero ⟨false, 1, false, false, 3, 0, 0⟩),
    (0x12203001, .mstat ⟨false, 1, false, false, 3, 0, 1⟩),
    (0x130C0081, .cpy ⟨false, 1, true, true, 0, 2, 1⟩),
    (0x131C0081, .engineMove ⟨false, 1, true, true, 0, 2, 1⟩)] = true := by decide +kernel

theorem test_decode_t2 : reads .t [
    (0x132C0081, .movNp ⟨false, 1, true, true, 0, 2, 1⟩),
    (0x133C0081, .cpyNp ⟨false, 1, true, true, 0, 2, 1⟩),
    (0x134C0081, .pub ⟨false, 1, true, true, 0, 2, 1⟩),
    (0x135C0081, .dsc ⟨false, 1, true, true, 0, 2, 1⟩),
    (0x136C3081, .fill ⟨false, 1, true, true, 3, 2, 1⟩),
    (0x137C0081, .ctradd ⟨false, 1, true, true, 0, 2, 1⟩),
    (0x13880080, .fretry ⟨false, 1, true, false, 0, 2, 0⟩),
    (0x13980080, .fskip ⟨false, 1, true, false, 0, 2, 0⟩),
    (0x142C0081, .kvshare ⟨false, 1, true, true, 0, 2, 1⟩),
    (0x14380080, .kvdrop ⟨false, 1, true, false, 0, 2, 0⟩),
    (0x14483080, .kvstat ⟨false, 1, true, false, 3, 2, 0⟩),
    (0x14880080, .coll ⟨false, 1, true, false, 0, 2, 0⟩),
    (0x150C0081, .qpush ⟨false, 1, true, true, 0, 2, 1⟩)] = true := by decide +kernel

theorem test_decode_k1 : reads .k [
    (0x10183080, .kscan ⟨false, 1, true, false, 3, 2, 0⟩),
    (0x102C3081, .qread ⟨false, 1, true, true, 3, 2, 1⟩),
    (0x103C3081, .jappend ⟨false, 1, true, true, 3, 2, 1⟩),
    (0x10480080, .jcommit ⟨false, 1, true, false, 0, 2, 0⟩),
    (0x10583082, .jread ⟨false, 1, true, false, 3, 2, 2⟩),
    (0x106C3081, .npush ⟨false, 1, true, true, 3, 2, 1⟩),
    (0x107C3081, .cpost ⟨false, 1, true, true, 3, 2, 1⟩),
    (0x10800000, .chold ⟨false, 1, false, false, 0, 0, 0⟩),
    (0x10900000, .crel ⟨false, 1, false, false, 0, 0, 0⟩),
    (0x10A00000, .hbeat ⟨false, 1, false, false, 0, 0, 0⟩),
    (0x10B03000, .tko ⟨false, 1, false, false, 3, 0, 0⟩),
    (0x10C83080, .tlbinv ⟨false, 1, true, false, 3, 2, 0⟩)] = true := by decide +kernel

/-! Well-formedness: for each check a term that breaks it alone. -/

/-- General fields, the guard p0. -/
def f (d a b : Nat) : G := ⟨false, 0, false, false, BitVec.ofNat 6 d, BitVec.ofNat 6 a, BitVec.ofNat 6 b⟩

/-- R16: no guard may be the complement of p0. -/
theorem test_wf_guard : [Instr.add { f 1 2 3 with n := true }, .br ⟨true, 0, 5⟩, .brl ⟨true, 0, 5⟩, .lp ⟨true, 0, 1, 1⟩, .lpi ⟨true, 0, 1, 1⟩,
    .mfs { f 1 0 0 with n := true }, .mts { f 1 0 0 with n := true }, .jread { f 1 0 0 with n := true }].map Instr.wf =
    List.replicate 8 false := by decide

/-- R20: a loop of length 0. -/
theorem test_wf_loop : [Instr.lp ⟨false, 0, 1, 0⟩, .lpi ⟨false, 0, 1, 0⟩].map Instr.wf = [false, false] := by decide

/-- R114: the mask instructions and others have neither P nor N. -/
theorem test_wf_plain : [Instr.kand { f 1 2 3 with p := 1 }, .kand { f 1 2 3 with n := true }, .vextW { f 1 2 3 with p := 1 }].map Instr.wf =
    List.replicate 3 false := by decide

/-- R18: a field that an instruction does not use is 0. -/
theorem test_wf_unused : [Instr.yield (f 1 0 0), .yield (f 0 1 0), .yield (f 0 0 1), .bri (f 1 2 0), .abs (f 1 2 3), .mzero (f 0 1 0)].map Instr.wf =
    List.replicate 6 false := by decide

/-- R18: predicate and mask registers have numbers below 8. -/
theorem test_wf_small : [Instr.cmpEq (f 8 1 2), .pand (f 1 8 2), .pand (f 1 2 8), .vcmpEq (f 8 1 2), .kand (f 1 8 2), .kpop (f 1 8 0),
    .spawn (f 1 2 8)].map Instr.wf = List.replicate 7 false := by decide

/-- Immediates have the bounds of their instructions. -/
theorem test_wf_bounds : [Instr.fenceRel (f 0 0 5), .xfence (f 0 0 3), .vshli (f 1 2 32), .pget (f 1 2 8), .vlane (f 1 2 3), .kget (f 1 2 2),
    .vcvtF32F16 (f 1 2 2), .jread (f 1 0 3)].map Instr.wf = List.replicate 8 false := by decide

/-- R21: `mfs` and `mts` name a special register. -/
theorem test_wf_special : [Instr.mfs (f 1 0 8), .mts (f 1 0x3F 0x3F)].map Instr.wf = [false, false] := by decide

/-- R301: only `jread` of a LASTSEQ reads sA. -/
theorem test_wf_jread : [Instr.jread (f 1 2 0), .jread (f 1 2 1)].map Instr.wf = [false, false] := by decide

/-- R27: a policy bit without a source that it could speak for. -/
theorem test_wf_policy : [Instr.movi { f 1 2 3 with ea := true }, .addi { f 1 2 3 with eb := true }, .fenceRel { f 0 0 1 with ea := true },
    .mfs { f 1 0 0 with ea := true }, .mts { f 1 0 0 with eb := true }].map Instr.wf = List.replicate 5 false := by decide

/-- What is well-formed beside these. -/
theorem test_wf_good : [Instr.nop, .add { f 1 2 3 with n := true, p := 1 }, .br ⟨true, 1, 5⟩, .lp ⟨false, 0, 1, 1⟩, .mfs (f 1 0x3F 0x31), .jread (f 1 2 2),
    .pget (f 1 2 7), .vshli (f 1 2 31), .vadd { f 1 2 3 with n := true }, .kand (f 7 7 7)].all Instr.wf = true := by decide

/-- R42: a word that breaks a rule of its map is no instruction: p8 in D, an opcode the map lacks, B of `pnot`. -/
theorem test_illop : decodeWord .s 0x02808083 0 = .illop 0x02808083 ∧ decodeWord .s 0x01700000 0 = .illop 0x01700000 ∧
    decodeWord .s 0x03301081 0 = .illop 0x03301081 := by decide +kernel

/-! The spec's worked encodings. -/

theorem test_worked_control : reads .c [(0x00100120, .br ⟨false, 0, 0x120⟩), (0x00619005, .lpi ⟨false, 0, 100, 5⟩), (0x0052400C, .lp ⟨false, 0, 9, 12⟩),
    (0x00200200, .brl ⟨false, 0, 0x200⟩), (0x00300240, .bri (f 0 9 0)), (0x00D0002A, .trap (f 0 0 0x2A)), (0x01D00000, .brk (f 0 0 0)),
    (0x00601002, .lpi ⟨false, 0, 4, 2⟩), (0x01A00240, .segacq (f 0 9 0)), (0x01B00240, .segrel (f 0 9 0)), (0x01100002, .fenceRel (f 0 0 2))] = true := by
  decide +kernel

theorem test_worked_scalar : reads .s [(0x0060824A, .mulhn (f 8 9 10)), (0x03507FFB, .movi (f 7 0x3F 0x3B)), (0x03B03105, .lea8 (f 3 4 5)),
    (0x02A02105, .cmpLt (f 2 4 5)), (0x04000284, .chkEq (f 0 10 4)), (0x04100042, .chkP (f 0 1 2))] = true := by decide +kernel

theorem test_worked_vector : reads .v [(0x00103042, .vadd (f 3 1 2)), (0x20103042, .vadd { f 3 1 2 with p := 2 }), (0x00B01042, .vcmpLt (f 1 1 2)),
    (0x22C05187, .vcmpLtN8 { f 5 6 7 with p := 2 }), (0x03702043, .vshli (f 2 1 3)), (0x19404081, .vsel { f 4 2 1 with p := 1 }),
    (0x090012C0, .vbcastW (f 1 11 0)), (0x09A01000, .viotaW (f 1 0 0)), (0x098080C9, .vextW (f 8 3 9)), (0x09901300, .vinsW (f 1 12 0)),
    (0x0B103042, .kor (f 3 1 2)), (0x0B4140C0, .kpop (f 20 3 0)), (0x0C007000, .vrng (f 7 0 0)), (0x0C400128, .vchk (f 0 4 40))] = true := by
  decide +kernel

theorem test_worked_float : reads .v [(0x05A020C4, .vfcmpLtF16 (f 2 3 4)), (0x04C03040, .vrcp (f 3 1 0)), (0x07005042, .vcvtF16F32 (f 5 1 2)),
    (0x07306141, .vcvtF32Bf16 (f 6 5 1)), (0x07807042, .vsrF16F32 (f 7 1 2)), (0x07906042, .vqmxE4m3 (f 6 1 2)), (0x08406042, .vqmxSrE2m1 (f 6 1 2)),
    (0x08808181, .vdqmxE4m3 (f 8 6 1)), (0x09B09181, .vlane (f 9 6 1)), (0x09C06242, .vunlane (f 6 9 2)), (0x0A002040, .vredAddF32 (f 2 1 0)),
    (0x1A403040, .vscanAddF32 { f 3 1 0 with p := 1 })] = true := by decide +kernel

theorem test_worked_memory : reads .l [(0x0040E0C2, .ldD (f 14 3 2)), (0x00B0C140, .stD (f 12 5 0)), (0x01006200, .vld (f 6 8 0)),
    (0x01603105, .vldsW (f 3 4 5)), (0x03407209, .amoCasD (f 7 8 9)), (0x02400105, .vac (f 0 4 5)), (0x0260A0C0, .vtake (f 10 3 0)),
    (0x0130B0C0, .vst (f 11 3 0))] = true := by decide +kernel

theorem test_worked_tile : reads .t [(0x03607515, .fill (f 7 20 21)), (0x01100506, .mmqZ (f 0 20 6)), (0x01201580, .mmqRc (f 1 22 0))] = true ∧
    reads .k [(0x00800000, .chold (f 0 0 0)), (0x00C08240, .tlbinv (f 8 9 0))] = true := by decide +kernel

/-- R22: `limm` takes the other scalar slot's word, which is then no instruction of its own. -/
theorem test_pair : decodeAt false 0 [0, 0x0360A000, 0, 0, 0, 0, 0, 0x33800000] 1 = .limm (f 10 0 0) 0x33800000 ∧
    decodeAt false 0 [0, 0x0360A000, 0, 0, 0, 0, 0, 0x33800000] 7 = .nop := by decide +kernel

/-! Single instructions: the expected results are the spec's, or worked out from its rules by hand. -/

/-- A machine after reset whose current context is changed. -/
def ready (u : Ctx → Ctx) : State := State.reset.modCtx State.reset.cur u

/-- The current context's registers written, its segments all owned. -/
def holding (l : List RVal) : State :=
  ready fun x => l.foldl Ctx.write { x with status := .running, node := 1, spec := { x.spec with segown := BitVec.allOnes 32 } }

/-- The state that an instruction leaves; reset where it leaves none. -/
def after (i : Instr) (s : State) : State := match exec i s with
  | .next t => t
  | _ => State.reset

/-- The results in flight. -/
def flying (i : Instr) (s : State) : List (RVal × BitVec 5) := (after i s).me.inflight.map fun e => (e.val, e.flags)

/-- TRAPINFO and FAULTMASK after a trap. -/
def trapOf (i : Instr) (s : State) : W64 × W64 := ((after i s).me.spec.trapinfo, (after i s).me.spec.faultmask)

/-- Scalars s1 and s2. -/
def s12 (a b : W64) : State := holding [.s 1 a, .s 2 b]

/-- R47: sums wrap. -/
theorem test_add : (after (.add (f 3 1 2)) (s12 (BitVec.allOnes 64) 1)).me.s 3 = 0 ∧
    (after (.sub (f 3 1 2)) (s12 0 1)).me.s 3 = BitVec.allOnes 64 := by decide +kernel

/-- R47: the immediate of `addi` is signed, that of `andi` is not. -/
theorem test_addi : (after (.addi (f 3 1 63)) (s12 5 0)).me.s 3 = 4 ∧ (after (.andi (f 3 1 63)) (s12 (BitVec.allOnes 64) 0)).me.s 3 = 63 := by
  decide +kernel

/-- R47: high halves of signed and unsigned products; the destination is empty until the result lands. -/
theorem test_mulh : flying (.mulh (f 3 1 2)) (s12 (BitVec.allOnes 64) (BitVec.allOnes 64)) = [(.s 3 0, 0)] ∧
    flying (.mulhn (f 3 1 2)) (s12 (BitVec.allOnes 64) (BitVec.allOnes 64)) = [(.s 3 0xFFFFFFFFFFFFFFFE, 0)] ∧
    (after (.mulh (f 3 1 2)) (s12 1 1)).me.isFull (.s 3) = false := by decide +kernel

/-- R48: −7 by 2, and by 0. -/
theorem test_rem : flying (.rem (f 3 1 2)) (s12 (-7) 2) = [(.s 3 (-1), 0)] ∧ flying (.div (f 3 1 2)) (s12 (-7) 2) = [(.s 3 (-3), 0)] ∧
    flying (.div (f 3 1 2)) (s12 (-7) 0) = [(.s 3 (-1), 0)] ∧ flying (.remn (f 3 1 2)) (s12 (-7) 0) = [(.s 3 (-7), 0)] := by decide +kernel

/-- R49's example. -/
theorem test_bext : (after (.bext (f 3 1 2)) (s12 0xB6 0xF0)).me.s 3 = 0xB ∧ (after (.bdep (f 3 1 2)) (s12 0xB6 0xF0)).me.s 3 = 0x60 := by
  decide +kernel

/-- R47: shifts take the count modulo 64; source and destination may be one register. -/
theorem test_shift : (after (.shl (f 1 1 2)) (s12 3 65)).me.s 1 = 6 ∧ (after (.sra (f 3 1 2)) (s12 (-8) 1)).me.s 3 = -4 ∧
    (after (.rotl (f 3 1 2)) (s12 1 63)).me.s 3 = 0x8000000000000000 := by decide +kernel

/-- R18: s0 reads 0 and a write to it is discarded; so with p0. -/
theorem test_zero : (after (.movi (f 0 0 5)) (s12 0 0)).me.s 0 = 0 ∧ (after (.cmpEq (f 0 1 2)) (s12 0 1)).me.p 0 = true := by decide +kernel

/-- R50: signed and unsigned order. -/
theorem test_cmp : (after (.cmpLt (f 1 1 2)) (s12 (-1) 1)).me.p 1 = true ∧ (after (.cmpLtn (f 1 1 2)) (s12 (-1) 1)).me.p 1 = false ∧
    (after (.cmpiEq (f 1 1 63)) (s12 (-1) 0)).me.p 1 = true := by decide +kernel

/-- R47: `limm` extends the sign, `limmh` keeps the low half. -/
theorem test_limm : (after (.limm (f 3 0 0) 0x80000000) (s12 0 0)).me.s 3 = 0xFFFFFFFF80000000 ∧
    (after (.limmh (f 1 0 0) 7) (s12 0x123456789 0)).me.s 1 = 0x723456789 := by decide +kernel

/-- R16: an operation whose guard is false does nothing. -/
theorem test_guard : (after (.add { f 3 1 2 with p := 1 }) (s12 2 3)).me.s 3 = 0 ∧
    (after (.add { f 3 1 2 with p := 1, n := true }) (s12 2 3)).me.s 3 = 5 := by decide +kernel

/-- R53: on core 0 with seed 0, Word(0) is 0; RNGCTR counts. -/
theorem test_rng : flying (.rng (f 8 0 0)) (s12 0 0) = [(.s 8 0, 0)] ∧ (after (.rng (f 8 0 0)) (s12 0 0)).me.spec.rngctr = 1 ∧
    (after (.vrng (f 8 0 0)) (s12 0 0)).me.spec.rngctr = 32 := by decide +kernel

/-- R52: CHKFAIL of slot 1. -/
theorem test_chk : trapOf (.chkEq (f 0 1 2)) (s12 1 2) = (0x10A, 2) ∧ (after (.chkEq (f 0 1 2)) (s12 1 1)).me.pc = 1 := by decide +kernel

/-- R63: SWTRAP keeps its word and sets SKIP. -/
theorem test_trap : trapOf (.trap (f 0 0 0x2A)) (s12 0 0) = (0x00D0002A00000830, 1) ∧ (after (.trap (f 0 0 0x2A)) (s12 0 0)).me.tmask = true := by
  decide +kernel

/-- R45: EXTOP keeps its word and its operands. -/
theorem test_extop : trapOf (.extensionOpcode 3 (f 0 1 2)) (s12 7 9) = (0x0E30004200000002, 1) ∧
    (after (.extensionOpcode 3 (f 0 1 2)) (s12 7 9)).me.spec.trapopa = 7 ∧ (after (.extensionOpcode 3 (f 0 1 2)) (s12 7 9)).me.spec.trapopb = 9 := by
  decide +kernel

/-- R51, R170: 1.0 + 2⁻²⁴ ties to 1.0 and is inexact (the first level of R182's example). -/
theorem test_fadd : flying (.faddF32 (f 3 1 2)) (s12 0x3F800000 0x33800000) = [(.s 3 0x3F800000, fNX)] := by decide +kernel

/-- R51: a compare with NaN is false and invalid; a conversion toward zero. -/
theorem test_fcmp : flying (.fcmpLt (f 1 1 2)) (s12 0x7FC00000 0) = [(.p 1 false, fNV)] ∧
    flying (.cvtI64F32Rz (f 3 1 0)) (s12 0xC0200000 0) = [(.s 3 (-2), fNX)] := by decide +kernel

/-- R54, R55: the delay bundle comes next, the link is the address after it. -/
theorem test_brl : (after (.brl ⟨false, 0, 0x200⟩) (s12 0 0)).me.pc = 1 ∧ (after (.brl ⟨false, 0, 0x200⟩) (s12 0 0)).me.npc = some 0x200 ∧
    (after (.brl ⟨false, 0, 0x200⟩) (s12 0 0)).me.s 62 = 2 ∧ trapOf (.br ⟨false, 0, 0x4000⟩) (s12 0 0) = (6, 1) := by decide +kernel

/-- R57's example: `lpi 4, last` at bundle 0 with an end offset of 2. -/
theorem test_lpi : (after (.lpi ⟨false, 0, 4, 2⟩) (s12 0 0)).me.loops = [⟨1, 2, 4⟩] ∧ (after (.lpi ⟨false, 0, 4, 2⟩) (s12 0 0)).me.pc = 1 := by
  decide +kernel

/-- R62: CORE_ID and CTX are read-only; STATUS keeps its reserved bits. -/
theorem test_mts : trapOf (.mts (f 1 0 0x20)) (s12 0 0) = (0x0100102000000001, 1) ∧
    (after (.mts (f 1 0 0)) (s12 (BitVec.allOnes 64) 0)).me.spec.status = 7 := by decide +kernel

/-- R65: `rti` goes back to TRAPPC and leaves the handler. -/
theorem test_rti : let s := ready fun x => { x with spec := { x.spec with status := 8, trappc := 5 } }
    (after (.rti (f 0 0 0)) s).me.pc = 5 ∧ (after (.rti (f 0 0 0)) s).me.tmask = false ∧ trapOf (.rti (f 0 0 0)) (s12 0 0) = (0x00E0000000000001, 1) := by
  decide +kernel

/-- A scratchpad doubleword at 0x100 of core 0. -/
def storing (v : W64) (l : List RVal) : State := (holding l).modCore 0 fun k => { k with mem := k.mem.put 0x100 (leBytes 8 v.toNat) }

/-- R77: little-endian bytes, sign and zero extension. -/
theorem test_ld : flying (.ldB (f 3 1 1)) (storing 0x1122334455668877 [.s 1 0x100]) = [(.s 3 0xFFFFFFFFFFFFFF88, 0)] ∧
    flying (.ldHz (f 3 1 1)) (storing 0x11223344AA668877 [.s 1 0x100]) = [(.s 3 0xAA66, 0)] := by decide +kernel

/-- R73: a vacant byte reads as all ones and sets VAC; R76: alignment, bounds, VACANT of an atomic. -/
theorem test_vacant : flying (.ldD (f 3 1 0)) (holding [.s 1 0x200]) = [(.s 3 (BitVec.allOnes 64), 0)] ∧
    (after (.ldD (f 3 1 0)) (holding [.s 1 0x200])).me.spec.status = stVac ∧ trapOf (.ldD (f 3 1 0)) (holding [.s 1 0x204]) = (0x405, 16) ∧
    trapOf (.ldD (f 3 1 0)) (holding [.s 1 0x800000]) = (0x406, 16) ∧ trapOf (.amoAddD (f 3 1 2)) (holding [.s 1 0x200]) = (0x407, 16) := by
  decide +kernel

/-- R77: a store of a halfword; the next halfword stays vacant. -/
theorem test_st : let t := after (.stH (f 2 1 0)) (holding [.s 1 0x200, .s 2 0xBEEF])
    t.byteAt 0 0x200 = 0xEF ∧ t.byteAt 0 0x201 = 0xBE ∧ t.byteAt 0 0x202 = 0xFF ∧ (t.core 0).mem.has 0x201 = true ∧ (t.core 0).mem.has 0x202 = false := by
  decide +kernel

/-- R88's example: a doubleword holding 5, `amo.cas.d` with s7 = 5 and s9 = 9; then s7 = 5 again. -/
theorem test_cas : let s := storing 5 [.s 7 5, .s 8 0x100, .s 9 9]
    flying (.amoCasD (f 7 8 9)) s = [(.s 7 5, 0)] ∧ (after (.amoCasD (f 7 8 9)) s).byteAt 0 0x100 = 9 ∧
    flying (.amoCasD (f 7 8 9)) (storing 9 [.s 7 5, .s 8 0x100, .s 9 7]) = [(.s 7 9, 0)] ∧
    (after (.amoCasD (f 7 8 9)) (storing 9 [.s 7 5, .s 8 0x100, .s 9 7])).byteAt 0 0x100 = 9 := by decide +kernel

/-- R84, R85: what `vtake` returned and what `vac` names is vacant. -/
theorem test_take : ((after (.vtake (f 10 1 0)) (storing 5 [.s 1 0x100])).core 0).mem.has 0x100 = false ∧
    ((after (.vac (f 0 1 2)) (storing 5 [.s 1 0x104, .s 2 4])).core 0).mem.has 0x100 = true ∧
    ((after (.vac (f 0 1 2)) (storing 5 [.s 1 0x104, .s 2 4])).core 0).mem.has 0x104 = false := by decide +kernel

/-- R87: bit j of `vtst` says halfword j is vacant. -/
theorem test_vtst : flying (.vtst (f 3 1 0)) (storing 5 [.s 1 0x100]) = [(.s 3 0xFFFFFFFFFFFFFFF0, 0)] := by decide +kernel

/-- A vector of 32-bit lanes. -/
def words (l : List Nat) : Vec := BitVec.ofNat 2048 (l.zipIdx.map fun e => e.1 * 2 ^ (32 * e.2)).sum

/-- The first lanes of the one vector in flight. -/
def lanesOf (n : Nat) (i : Instr) (s : State) : List Nat := ((flying i s).map fun e => match e.1 with
  | .v _ v => (List.range n).map fun j => (lane 32 v j).toNat
  | _ => []).flatten

/-- R114, R115: only governed lanes change; sums wrap in their lane. -/
theorem test_vadd : lanesOf 2 (.vadd { f 3 1 2 with p := 1 }) (holding [.v 1 (words [0xFFFFFFFF, 5]), .v 2 (words [2, 6]), .v 3 (words [7, 7]), .k 1 1]) =
    [1, 7] ∧ lanesOf 1 (.vaddH (f 3 1 2)) (holding [.v 1 (words [0xFFFFFFFF]), .v 2 (words [1])]) = [0xFFFF0000] := by decide +kernel

/-- R116: a compare of 32-bit lanes writes two bits a lane. -/
theorem test_vcmp : flying (.vcmpLt (f 1 1 2)) (holding [.v 1 (words [0xFFFFFFFF]), .v 2 (words [1])]) = [(.k 1 3, 0)] := by decide +kernel

/-- R120: extraction extends the sign; an index of 64 raises RANGE in slot 2. -/
theorem test_vext : flying (.vextW (f 8 3 9)) (holding [.v 3 (words [0, 0x80000000]), .s 9 1]) = [(.s 8 0xFFFFFFFF80000000, 0)] ∧
    trapOf (.vextW (f 8 3 9)) (holding [.s 9 64]) = (0x206, 4) := by decide +kernel

/-- R121: a population count, and the two halves of a mask. -/
theorem test_kpop : flying (.kpop (f 20 3 0)) (holding [.k 3 0xF0F0000000000000001]) = [(.s 20 9, 0)] ∧
    flying (.kset (f 3 1 2)) (s12 5 7) = [(.k 3 0x70000000000000005, 0)] := by decide +kernel

/-- R182's example: 1.0 and 63 times 2⁻²⁴ sum to 0x3F80_001F in the tree. -/
theorem test_vred : lanesOf 2 (.vredAddF32 (f 2 1 0)) (holding [.v 1 (words (0x3F800000 :: List.replicate 63 0x33800000))]) =
    [0x3F80001F, 0x3F80001F] ∧ (flying (.vredAddF32 (f 2 1 0)) (holding [.v 1 (words (0x3F800000 :: List.replicate 63 0x33800000))])).map (·.2) = [fNX] := by
  decide +kernel

/-- R183: the inclusive scan of integers. -/
theorem test_vscan : lanesOf 4 (.vscanAddI32 (f 2 1 0)) (holding [.v 1 (words [1, 2, 3, 4])]) = [1, 3, 6, 10] := by decide +kernel

/-- R181's worked block: 300.0, −1.0, 0.1 and 470.0 in e4m3. -/
theorem test_vqmx : let v := BitVec.ofNat 2048 (0x7E1DB879 + 0x7F * 2 ^ (8 * 252))
    flying (.vqmxE4m3 (f 6 1 2)) (holding [.v 1 (words [0x43960000, 0xBF800000, 0x3DCCCCCD, 0x43EB0000])]) = [(.v 6 v, fNX)] ∧
    lanesOf 4 (.vdqmxE4m3 (f 8 6 0)) (holding [.v 6 v]) = [0x43900000, 0xBF800000, 0x3DD00000, 0x43E00000] := by decide +kernel

/-- R153: a Palette entry is read by doublewords. -/
theorem test_pget : flying (.pget (f 3 1 1)) (ready fun x => ({ x with palette := [(7, 0x20000000000000001)] } : Ctx).write (.s 1 7)) = [(.s 3 2, 0)] := by
  decide +kernel

/-! For every statement: operands and states that meet its hypotheses, clause by clause. -/

/-- The fields of an instruction whose registers are all full and whose guard is p0, or whose mask is k0. -/
theorem runs_of {s : State} (hi : s.issue = Issue.closed) (hf : s.me.full = Ctx.blank.full) (ho : s.me.outstanding < 48) (h : Shape) (d a b : Nat) :
    Runs h (f d a b) s where
  closed := hi
  guard := fun r _ => full r
  on := by cases h.guard <;> rfl
  full := fun r _ => full r
  room := ho
where
  /-- Every register is full. -/
  full (r : Reg) : s.me.isFull r = true := by
    have e : ∀ r, Ctx.blank.isFull r = true := fun r => by
      cases r with
      | s i => revert i; decide
      | v i => revert i; decide
      | p i => revert i; decide
      | k i => revert i; decide
    rw [← e r]; unfold Ctx.isFull; rw [hf]

/-- What `runs_of` asks of a state, decidable. -/
def canRun (s : State) : Bool := decide (s.issue = Issue.closed) && decide (s.me.full = Ctx.blank.full) && decide (s.me.outstanding < 48)

theorem runs_can {s : State} (h : canRun s = true) (sh : Shape) (d a b : Nat) : Runs sh (f d a b) s := by
  simp only [canRun, Bool.and_eq_true, decide_eq_true_eq] at h
  exact runs_of h.1.1 h.1.2 h.2 sh d a b

/-- Every statement over the instructions of a shape has states to speak of: reset is one, and every state below that can run. -/
theorem witness_Runs : ∀ (h : Shape) (d a b : Nat), Runs h (f d a b) State.reset := runs_can (by decide +kernel)

/-- ScalarBits, Division, Predicates, Checks, BlockScale, LaneOrder and MxConversions: the conditions on operands. -/
theorem witness_operands : canRun (s12 0xB6 0xF0) = true ∧ (s12 0xB6 0xF0).me.s 1 = 0xB6 ∧ (s12 0xB6 0xF0).me.s 2 = 0xF0 ∧
    canRun (s12 1 2) = true ∧ (s12 1 2).me.s 1 ≠ (s12 1 2).me.s 2 ∧ (s12 1 1).me.s 1 = (s12 1 1).me.s 2 ∧
    (f 1 2 2).b.toNat ≤ 2 ∧ State.reset.mx6 = true ∧ canRun { State.reset with mx6 := false } = true := by decide +kernel

/-- Checks of vectors: equal registers, and different ones in a governed halfword. -/
theorem witness_Checks : let s := holding [.v 1 1]
    canRun s = true ∧ (∀ j < 128, lane 16 (s.me.v 2) j = lane 16 (s.me.v 3) j) ∧ s.me.governs (f 0 1 2) 16 0 = true ∧
    lane 16 (s.me.v 1) 0 ≠ lane 16 (s.me.v 2) 0 := by decide +kernel

/-- Division: the divisor 0, the one overflow, and a plain pair. -/
theorem witness_Division : SignedDivision 5 0 (-1) 5 ∧ SignedDivision (BitVec.intMin 64) (-1) (BitVec.intMin 64) 0 ∧ SignedDivision (-7) 2 (-3) (-1) ∧
    UnsignedDivision 5 0 (-1) 5 ∧ UnsignedDivision 7 2 3 1 := by
  refine ⟨?_, ?_, ?_, ?_, ?_⟩ <;> first | (unfold SignedDivision; decide) | (unfold UnsignedDivision; decide)

/-- Predicates: a decoded `pnot`. -/
theorem witness_Predicates : decodeWord .s 0x03301080 0 = .pnot (f 1 2 0) := by decide +kernel

/-- BlockScale: a block of zeros, one with an infinity, and one with the top bit at 0. -/
theorem witness_BlockScale : (List.replicate 32 (Val.fin false 0 0)).length = 32 ∧ (∀ v ∈ List.replicate 32 (Val.fin false 0 0), v.isFin = true) ∧
    (∃ v ∈ Val.nan false :: List.replicate 31 (Val.fin false 0 0), v.isFin = false) ∧
    (let vs := Val.fin false 1 0 :: List.replicate 31 (Val.fin false 0 0)
     vs.length = 32 ∧ (∀ v ∈ vs, v.isFin = true) ∧ ∃ n m e, .fin n m e ∈ vs ∧ m ≠ 0 ∧ topBit m e = 0) := by
  refine ⟨by decide, by decide, ⟨.nan false, by decide, rfl⟩, by decide, by decide, false, 1, 0, by decide, by decide, by decide⟩

/-- VectorMoves: indices at and past the last lane. -/
theorem witness_VectorMoves : (s12 63 64).me.s 1 = 63 ∧ canRun (s12 63 64) = true ∧ ¬ ((s12 63 64).me.s 2).toNat ≤ 63 := by decide +kernel

/-- A slot 4 operation's ranges leave this state as it is, since no piece waits. -/
theorem readyFor_of {s : State} (h : s.pieces = []) (kind : Acc4) (rs : List (Nat × Nat)) : s.readyFor kind rs = s := by
  unfold State.readyFor State.beforeS State.before
  simp [h]

/-- ScalarLoadsStores, VectorLoadsStores, IndexedAccess, LocalAtomics, Take, StreamIssue, Vacate, StateTests: a state in which each runs and passes its
checks. -/
theorem witness_slot4 : let s := storing 5 [.s 1 0x100, .s 2 0x100, .s 3 0]
    canRun s = true ∧ s.pieces = [] ∧ s.acqOut s.cur = false ∧ (s.core s.cur.core).mem.wf = true ∧ tabWf 0 (s.tower (towerOf s.cur.core)).ctlmem = true ∧
    (∀ n ∈ [1, 2, 4, 8], s.checks4 s.me .load n (operandAt (f 3 1 0) s.me n) n = none ∧ s.checks4 s.me .store n (operandAt (f 3 1 0) s.me n) n = none) ∧
    s.checks4 s.me .load 32 (operandAt (f 3 1 0) s.me 256) 256 = none ∧ s.checks4 s.me .take 32 (operandAt (f 3 1 0) s.me 256) 256 = none ∧
    s.checks4 s.me .atomic 8 (s.me.s 1).toNat 8 = none ∧ s.me.stream = none ∧ (s.core 0).streamChecks s.me 2 0 0x100 0x200 = none ∧
    (s.core 0).vacChecks s.me 0x100 8 = none ∧ (s.core 0).mem.foundWrite 0x100 8 = [] ∧ isCtl s.cur.core = false ∧ s.me.ownsRange 0x100 128 = true := by
  decide +kernel

/-- The same where the checks fail: a misaligned operand, one past the scratchpad, a segment not owned, a stream running. -/
theorem witness_slot4_fails : let s := storing 5 [.s 1 0x101, .s 2 0x800000]
    canRun s = true ∧ s.checks4 s.me .load 8 (operandAt (f 3 1 0) s.me 8) 8 = some (trap 0x05) ∧
    s.checks4 s.me .store 8 (operandAt (f 3 2 0) s.me 8) 8 = some (trap 0x06) ∧ s.me.ownsRange 0x800000 128 = false ∧
    (s.core 0).streamChecks s.me 2 1 0x101 0x200 = some (trap 0x05) ∧ (s.core 0).vacChecks s.me 0x101 8 = some (trap 0x05) := by decide +kernel

/-- IndexedAccess: 64 words a stride of 4 apart. -/
theorem witness_IndexedAccess : let s := holding [.s 1 0x100, .s 2 4, .v 2 (words ((List.range 64).map (4 * ·)))]
    canRun s = true ∧ s.elemChecks s.me .load true ((List.range 64).map fun i => ((s.me.s 1 + BitVec.ofNat 64 i * s.me.s 2).toNat, 4)) 2 = none ∧
    s.elemChecks s.me .store true ((List.range 64).map fun i => ((s.me.s 1 + (lane 32 (s.me.v 2) i).zeroExtend 64).toNat, 4)) 2 = none := by
  decide +kernel

/-- A stream operation of the context. -/
def stream0 (kind : StreamKind) (moved : Nat) : Stream := ⟨kind, 2, 0, 0x100, 0, 0x200, 2, moved, 5, 0, false, .locked, .locked, 0, 0, 0, false⟩

/-- StreamIssue: a stream is running. -/
theorem witness_StreamIssue : let s := ready fun x => { x with stream := some (stream0 .smv 0) }
    canRun s = true ∧ s.me.stream.isSome = true ∧ s.acqOut s.cur = false := by decide +kernel

/-- Vacate: an empty range. -/
theorem witness_Vacate : (s12 0x100 0).me.s 2 = 0 ∧ ((s12 0x100 0).me.s 1).toNat % 2 = 0 ∧ canRun (s12 0x100 0) = true := by decide +kernel

/-- StateTests: misaligned, past the end, and neither. -/
theorem witness_StateTests : (1 % 128 ≠ 0) ∧ (0x800000 % 128 = 0 ∧ 0x800000 < 0x800000 + 128) ∧ (holding []).me.ownsRange 0x7FFF80 128 = true ∧
    0x7FFF80 % 128 = 0 ∧ 0x7FFF80 + 128 ≤ 0x800000 := by decide +kernel

/-- AccessChecks: a core of each kind, its memories in canonical form. -/
theorem witness_AccessChecks : let t : State := { State.reset with cur := ⟨512, false⟩ }
    State.reset.LocalForm ∧ isCtl State.reset.cur.core = false ∧ t.LocalForm ∧ isCtl t.cur.core = true := by
  refine ⟨⟨by decide +kernel, by decide +kernel⟩, by decide +kernel, ⟨by decide +kernel, by decide +kernel⟩, by decide +kernel⟩

/-- Branches, Loops: outside a loop and a delay bundle, in a delay bundle, at the end of a loop. -/
theorem witness_Branches : Issues false 0 [.s 62] State.reset ∧ canRun (ready fun x => { x with npc := some 7 }) = true ∧
    State.reset.me.npc = none ∧ ¬ atEndOfLoop State.reset.me ∧ atEndOfLoop (ready fun x => { x with loops := [⟨0, 0, 3⟩] }).me := by
  refine ⟨⟨rfl, by decide +kernel, by decide +kernel, by decide +kernel⟩, by decide +kernel, by decide +kernel, ?_, ⟨_, _, rfl, by decide +kernel⟩⟩
  rintro ⟨e, es, h, -⟩
  rw [show State.reset.me.loops = [] by decide +kernel] at h
  cases h

/-- Loops: the counts 0, 2³² − 1 and 2³², a full stack, an empty one. -/
theorem witness_Loops : Issues false 0 [.s 1] (s12 0 0) ∧ ((s12 0xFFFFFFFF 0).me.s 1).toNat < 2 ^ 32 ∧ 2 ^ 32 ≤ ((s12 0x100000000 0).me.s 1).toNat ∧
    (let s := ready fun x => { x with loops := List.replicate 4 ⟨0, 9, 3⟩ }
     canRun s = true ∧ 4 ≤ s.me.loops.length) ∧ State.reset.me.loops = [] := by
  refine ⟨⟨rfl, by decide +kernel, by decide +kernel, by decide +kernel⟩, ?_⟩
  decide +kernel

/-- SpecialRegisters: fields that name each register; TRAPVEC's and SEGATTR's bad values; ARBW within its limit. -/
theorem witness_SpecialRegisters : [0x000, 0x001, 0x002, 0x004, 0x010, 0x011, 0x040, 0x041, 0x050].all (fun n =>
      (f 1 (n / 64) (n % 64)).imm12 == BitVec.ofNat 12 n) = true ∧ topOf State.reset.cur.core ≤ (0x4000 : W64).toNat ∧
    (let s := holding [.s 1 3]
     canRun s = true ∧ s.me.owns 0 = true ∧ (s.me.s 1).getLsbD 0 = true ∧ (s.me.s 1).getLsbD 1 = true) ∧
    State.reset.arbwAbove State.reset.cur 0 = false := by decide +kernel

/-- TrapsOfWords: an extension opcode in slot 2 of an open bundle. -/
theorem witness_TrapsOfWords : let s : State := { State.reset with issue := ⟨true, 2, []⟩ }
    s.issue.opened = true ∧ s.issue.slot = 2 ∧ s.me.isFull (.k 0) = true ∧ s.me.isFull (.v 1) = true ∧ s.me.isFull (.v 2) = true := by decide +kernel

/-- ReturnFromTrap: a handler with and without SKIP and DLY. -/
theorem witness_ReturnFromTrap : let h (i p : W64) : State := ready fun x => { x with spec := { x.spec with status := 8, trapinfo := i, trappc := p } }
    canRun (h 0 0) = true ∧ (h 0 0).me.tmask = true ∧ (h 0 0).me.npc = none ∧ (h 0x800 0).me.spec.trapinfo.getLsbD 11 = true ∧
    (h 0 0x8000000000000000).me.spec.trappc.getLsbD 63 = true ∧ State.reset.me.tmask = false ∧
    (let s := (h 0 0).modCtx (h 0 0).cur fun x => { x with
       replayAt := some 3, snap := [⟨.s 1 7, 0, 6, false, 0, []⟩, ⟨.s 2 7, 0, 6, true, 0, []⟩] }
     canRun s = true ∧ s.me.tmask = true ∧ s.me.npc = none ∧ s.me.replayAt = some 3 ∧ s.me.snap.map (·.outer) = [false, true]) := by decide +kernel

/-- `rti` in cycle 5 (log 34, DESIGN CHOICE): the snapshot entry that a bundle issued in cycle 3 counts has 4 cycles left, an outer one keeps its tag
(log 17). -/
theorem test_rti_tags : (({ State.reset.me with
      replayAt := some 3, snap := [⟨.s 1 7, 0, 6, false, 0, []⟩, ⟨.s 2 7, 0, 6, true, 0, []⟩] } : Ctx).rti 5).snap.map (·.tag) = [4, 6] := by
  decide +kernel

/-- A piece of a remote operation of context P of core 0. -/
def piece0 (kind : S5Kind) : Piece := ⟨⟨0, false⟩, 1, 0, 0, kind, 0, 0x100, 0, 8, leBytes 8 7, 0, false, 0x100, 0, 0, 0x100, 8, 0⟩

/-- An outstanding operation. -/
def op0 (kind : S5Kind) : S5Op := ⟨0, 0, kind, some (.s 5), 0, 0x100, 8, 1, [], false, false⟩

/-- FencesBarriers: a write out, a load out, neither; a delay bundle; a group with and without the core; an atelier. -/
theorem witness_FencesBarriers : State.reset.writesOut State.reset.cur 4 = false ∧ State.reset.me.readsOut = false ∧
    (let s : State := { holding [] with pieces := [piece0 .store] }
     canRun s = true ∧ s.writesOut s.cur 4 = true) ∧
    (let s := ready fun x => { x with s5 := [op0 .load] }
     canRun s = true ∧ s.me.readsOut = true) ∧
    (let s := (ready fun x => x.write (.s 1 3)).modTower false fun w => { w with groups := [(3, BitVec.allOnes 512 ^^^ 0x8000000000000000)] }
     canRun s = true ∧ (s.me.s 1).toNat < 256 ∧ grpHas ((s.tower (towerOf s.cur.core)).group 3) s.cur.core.val = true ∧
       grpHas ((s.tower (towerOf s.cur.core)).group 4) s.cur.core.val = false) ∧
    (let s := ready fun x => { x with atelier := some 3 }
     canRun s = true ∧ s.me.atelier = some 3 ∧ State.reset.me.atelier = none) := by decide +kernel

/-- Suspension: quiet and not; the counter absent, below and at its threshold, poisoned, on a control core; the flag; a context that retires. -/
theorem witness_Suspension : State.reset.quiet State.reset.cur = true ∧
    (let s := ready fun x => { x with stream := some (stream0 .smv 0) }
     canRun s = true ∧ s.quiet s.cur = false) ∧
    (let s := storing 5 [.s 1 0x100, .s 2 6, .s 3 0x104, .s 4 0x200]
     canRun s = true ∧ isCtl s.cur.core = false ∧ addrChecks s.me 8 0x104 8 = some (trap 0x05) ∧ addrChecks s.me 8 0x100 8 = none ∧
       (s.core 0).mem.foundRead 0x100 8 = [] ∧ (s.core 0).mem.poisoned 0x100 = false ∧ (s.core 0).counter 0x100 = some 5 ∧
       (s.core 0).counter 0x200 = none ∧ (s.core 0).mem.foundRead 0x200 8 = [] ∧ (s.core 0).mem.poisoned 0x200 = false) ∧
    (let s := (holding [.s 1 0x100]).modCore 0 fun k => { k with mem := { k.mem with pois := [8] } }
     canRun s = true ∧ (s.core 0).mem.poisoned 0x100 = true ∧ addrChecks s.me 8 0x100 8 = none) ∧
    (let s : State := { State.reset with cur := ⟨512, false⟩ }
     canRun s = true ∧ isCtl s.cur.core = true ∧ s.me.npc = none) ∧
    (let s := ready fun x => { x with flagFile := 2 }
     canRun s = true ∧ s.me.flagFile.getLsbD 1 = true ∧ s.me.flagFile.getLsbD 2 = false) ∧
    (let s := ready fun x => { x with atelier := some 3 }
     s.quiet s.cur = true ∧ s.me.refusals = [] ∧ s.me.asyncQ = [] ∧ s.me.atelier.isSome = true ∧ s.me.cbarDone = false) ∧
    (let s := ready fun x => { x with npc := some 3 }
     canRun s = true ∧ s.me.npc.isSome = true) ∧
    (let s := ready fun x => { x with spec := { x.spec with status := 0x100 } }
     canRun s = true ∧ s.me.dbg = true ∧ State.reset.me.dbg = false) := by decide +kernel

/-- Eight doublewords. -/
def rec8 (l : List Nat) : Rec64 := BitVec.ofNat 512 (l.zipIdx.map fun e => e.1 * 2 ^ (64 * e.2)).sum

/-- A job of tenant 0. -/
def job0 : Job := ⟨1, 0, 1, false, 0, 5, 0, 1000, 7, 0, [], 0, 0xFFFF, [], 0, ⟨0, 0, 0, 0, 0, 0, 0, 0⟩, none, false⟩

/-- A node of the first kind in scope 1, and of the job. -/
def node0 : Node := ⟨1, false, 1, rec8 [2 ^ 28], 0, 0, .ready, none, none⟩

/-- A machine with the job, its root scope and a scope below; the context runs in the root scope. -/
def jobbed (l : List RVal) : State :=
  { (holding l).modCtx State.reset.cur fun x => { x with job := 1, spec := { x.spec with scope := 1 } } with
    jobs := [job0], scopes := [⟨false, 1, 1, 0, 1, .opened, none, none⟩, ⟨false, 2, 1, 1, 2, .opened, none, none⟩] }

/-- GraphOperations: a record that `spawn` takes, one that it does not; scopes within and outside; masks of segments. -/
theorem witness_GraphOperations :
    (let s := (jobbed [.s 1 0x100, .s 2 0x104]).modCore 0 fun k => { k with mem := k.mem.put 0x100 (leBytes 64 (2 ^ 28)) }
     canRun s = true ∧ s.spawnCheck s.cur 0x100 = .ok (rec8 [2 ^ 28]) ∧ s.spawnCheck s.cur 0x104 = .error (trap 0x05)) ∧
    (let s := jobbed [.s 1 2, .s 2 0x100, .s 3 4096, .s 4 0x7FFFF9, .s 5 0x104]
     canRun s = true ∧ s.scopeWithin s.cur 2 = true ∧ s.scopeWithin s.cur 3 = false ∧ (2 : Nat) ≠ s.me.spec.scope.toNat ∧
       4096 ≤ (s.me.s 3).toNat ∧ 0x7FFFF8 < (s.me.s 4).toNat ∧ (s.me.s 5).toNat % 8 ≠ 0 ∧ (s.me.s 2).toNat % 8 = 0) ∧
    (let s := jobbed [.s 1 3, .s 2 (2 ^ 32)]
     canRun s = true ∧ (3 : BitVec 32) &&& ~~~ s.partition (towerOf s.cur.core) s.me.job = 0 ∧ (3 : BitVec 32) &&& s.ownedByOthers s.cur = 0 ∧
       s.segBusy s.cur 3 = false ∧ 2 ^ 32 ≤ (s.me.s 2).toNat) ∧
    (let s := ((jobbed [.s 1 3]).modTower false fun w => { w with slices := [⟨1, 100, 1⟩] }).modCtx ⟨0, true⟩ fun x =>
        { x with status := .running, spec := { x.spec with segown := 1 } }
     canRun s = true ∧ (3 : BitVec 32) &&& ~~~ s.partition (towerOf s.cur.core) s.me.job ≠ 0 ∧ (1 : BitVec 32) &&& s.ownedByOthers s.cur ≠ 0) ∧
    (let s : State := { jobbed [.s 1 1] with pieces := [piece0 .load] }
     canRun s = true ∧ s.segBusy s.cur 1 = true) := by decide +kernel

/-- A context of an atelier whose two members are cores 0 and 1. -/
def inAtelier (l : List RVal) : State :=
  (holding l).modTower false (fun w => { w with groups := [(3, rec8 [2 ^ 62, 0, 0, 0, 3])] }) |>.modCtx ⟨0, false⟩ fun x => { x with atelier := some 3 }

/-- 06_tearing_program.md, checkpoint 3: a peer still reaches the segments of a member that has retired; R92's grant ends that. -/
theorem test_retire_mirror :
    (let s := (inAtelier []).modCtx ⟨0, false⟩ fun x => { x with spec := { x.spec with segown := 6 } }
     ((s.retire ⟨0, false⟩).ctx ⟨0, false⟩).spec.segown = 0 ∧ (s.retire ⟨0, false⟩).mirror s.me 0 = 6 ∧
       ((s.retire ⟨0, false⟩).modCore 0 fun k => k.grantSeg 5 1).mirror s.me 0 = 4) ∧
    (let s := (inAtelier []).modCtx ⟨0, true⟩ fun x => { x with status := .running, atelier := some 3, job := 2, spec := { x.spec with segown := 8 } }
     s.mirror { s.me with job := 2 } 0 = 8) := by decide +kernel

/-- RemoteAccess, AtelierAddresses, RemoteAtomics: a target that passes, one for each check, and what they wait for. -/
theorem witness_Remote :
    (let s := inAtelier [.s 1 0x100, .s 2 0x200, .s 3 4]
     canRun s = true ∧ ¬ slot5Waits (f 5 1 0) s ∧ s.checks5 s.me (operandAt (f 5 1 0) s.me 8) 8 8 false true = .ok (0, 0x100) ∧
       s.rmvChecks s.me 4 0x100 0x200 = .ok ((0, 0x100), 0, 0x200) ∧ s.me.stream = none ∧
       s.checks5 s.me 0x104 8 8 false true = .error (trap 0x05) ∧ s.checks5 s.me (2 ^ 27) 8 8 false true = .error (trap 0x06) ∧
       2 * 2 ^ 23 / 2 ^ 23 ≥ (s.members false 3).length ∧ s.mirror s.me 1 = 0 ∧ (∀ g < 32, (s.mirror s.me 0).getLsbD g = true) ∧
       (s.me.s 1).toNat / 2 ^ 35 = 0 ∧ (s.me.s 1).toNat / 2 ^ 27 % 2 ^ 5 = 0) ∧
    (let s := (inAtelier []).modTower false fun w => { w with layersOff := 0xF }
     s.layerOff 0 = true ∧ (inAtelier []).layerOff 0 = false) ∧
    (let s := (inAtelier []).modCore 0 fun k => { k with holds := [(8, 0)] }
     (s.core 0).held 0x100 = true ∧ (∀ i < 8, ((inAtelier []).core 0).held (0x100 + i) = false)) ∧
    (let s := (inAtelier []).modCtx ⟨0, false⟩ fun x => { x with refusals := [⟨0x24, 0, 0⟩] }
     canRun s = true ∧ slot5Waits (f 5 1 0) s) := by
  refine ⟨⟨by decide +kernel, ?_, ?_⟩, by decide +kernel, by decide +kernel, by decide +kernel, .inr (.inl (by decide +kernel))⟩
  · rintro (h | h | h) <;> revert h <;> decide +kernel
  · decide +kernel

/-- A view: space, format, rows, columns, base, pitch. -/
def view (space fmt rows cols base pitch : Nat) : Rec64 :=
  rec8 [2 ^ 62 + space * 2 ^ 57 + fmt * 2 ^ 48 + rows * 2 ^ 20 + cols, base, pitch * 2 ^ 44 + 2 ^ 32]

/-- A context whose Palette holds two small views 1 and 2 of f32, two 128 × 128 views 3 and 4 of f16, an epilogue 5 of f16, a descriptor 6 of
an all-gather of view 1 on ring 7, which has one member. -/
def palette (l : List RVal) : State :=
  (holding l).modTower false (fun w => { w with groups := [(7, rec8 [2 ^ 63])], canvB := 2 }) |>.modCtx ⟨0, false⟩ fun x => { x with
    palette := [(1, view 0 1 1 64 0x100 32), (2, view 0 1 1 64 0x300 32), (3, view 0 2 128 128 0x10000 32), (4, view 0 2 128 128 0x20000 32),
      (5, rec8 [2 ^ 63 + 2 * 2 ^ 48]), (6, rec8 [3 * 2 ^ 62 + 2 ^ 56 + 2 ^ 48 + 2 ^ 8 + 7])] }

/-- Whether a check passes. -/
def okay {ε α : Type} : Except ε α → Bool
  | .ok _ => true
  | .error _ => false

/-- EngineCommands: commands that pass their checks, and that do not; a full queue. -/
theorem witness_EngineCommands :
    (let s := palette [.s 1 0x201, .s 2 0, .s 3 0x1000000, .s 4 0x8000000000000003, .s 5 6, .s 6 0x400]
     canRun s = true ∧ s.engineRoom s.cur.core = true ∧ okay (s.xferCheck s.me false (s.me.s 1) (s.me.s 2)) = true ∧
       okay (s.xferCheck s.me true (s.me.s 1) (s.me.s 2)) = true ∧ okay (s.xferCheck s.me false (s.me.s 3) 0) = false ∧
       okay (s.fillCheck s.me 0 1 0) = true ∧ okay (s.fillCheck s.me 0 (s.me.s 3) 0) = false ∧
       okay (s.ctraddCheck (s.me.s 4)) = true ∧ okay (s.ctraddCheck 4) = false ∧ okay (s.collCheck s.me (s.me.s 5)) = true ∧
       okay (s.collCheck s.me (s.me.s 1)) = false ∧ okay (s.qpushCheck s.me 0x400 0) = false ∧ counterOf s.me (s.me.s 2) = some .none ∧
       (s.collsOf s.cur).length < 16 ∧ (s.msgsOf s.cur).length < 16 ∧ s.heldCmd s.cur 0 = none) ∧
    (let s := (palette []).modCore 0 fun k => { k with mem := k.mem.put 0x400 (List.replicate 32 1) }
     okay (s.qpushCheck s.me 0x400 0) = true) := by decide +kernel

/-- A command of context P of core 0. -/
def cmd0 (op : CmdOp) (state : CmdState) : Cmd :=
  ⟨1, some ⟨0, false⟩, 1, 1, 1, 0, 0, 0, ⟨0, 0, 0, 0⟩, op, 1, 2, view 0 1 1 64 0x100 32, view 0 1 1 64 0x300 32, .none, 0, state, 0, [], [], [], [],
    [], [], none, false⟩

/-- EngineCommands: an unpublished transfer to settle, a held command to retry, a full queue. -/
theorem witness_EngineCommands_held :
    (let s : State := { palette [.s 1 2] with cmds := [cmd0 .cpyNp .queued], nextId := 2 }
     canRun s = true ∧ s.npInto (some s.cur) s.me.node s.nextId 2 ≠ []) ∧
    (let s : State := { palette [.s 1 0] with cmds := [cmd0 .cpy (.held 0x21 0 0)] }
     canRun s = true ∧ s.heldCmd s.cur 0 ≠ none) ∧
    (let s : State := { palette [] with cmds := List.replicate 128 (cmd0 .cpy .queued) }
     canRun s = true ∧ s.engineRoom s.cur.core = false) := by decide +kernel

/-- CanvasCommands: with and without a block store, with room and without, names of 56 bits and of more. -/
theorem witness_CanvasCommands : State.reset.hasCanvas = false ∧ (palette []).hasCanvas = true ∧ (palette []).engineRoom 0 = true ∧
    canRun (palette []) = true ∧ ({ palette [] with cmds := List.replicate 128 (cmd0 .cpy .queued) } : State).engineRoom 0 = false ∧
    ((s12 0xFFFFFFFFFFFFFF 0).me.s 1).toNat < 2 ^ 56 ∧ 2 ^ 56 ≤ ((s12 0x100000000000000 0).me.s 1).toNat := by decide +kernel

/-- MatrixCommands: each command passes and fails its checks; the engine serves the other context, or is full; recombination. -/
theorem witness_MatrixCommands :
    (let s := palette [.s 1 0x403, .s 2 0x503, .s 3 0x100]
     canRun s = true ∧ s.mxForeign = false ∧ s.mxFull = false ∧ s.rcmb = false ∧
       okay (s.mmqCheck s.me 0 (s.me.s 1) 0 false false false) = true ∧ okay (s.mmqCheck s.me 2 (s.me.s 1) 0 false false false) = false ∧
       okay (s.mdrainCheck s.me 2 (s.me.s 2) 0) = false ∧
       okay (s.psetCheck s.me (s.me.s 3) 0x100) = false ∧ 256 ≤ (s.me.s 3).toNat) ∧
    (let s := (palette []).modCore 0 fun k => { k with mem := k.mem.put 0x100 (List.replicate 64 0), mx := { k.mx with owner := some true } }
     canRun s = true ∧ okay (s.psetCheck s.me 9 0x100) = true ∧ s.mxForeign = true) ∧
    ({ palette [] with rcmb := true } : State).rcmb = true := by decide +kernel

/-- MatrixCommands: `mdrain` passes its checks; the destination is wholly vacant. -/
theorem witness_mdrain : let s := palette [.s 1 0x403, .s 2 0x503, .s 3 0x100]
    s.mdrainCheck s.me 0 (s.me.s 2) 0 = .ok .none := by
  intro s
  have hd : ∀ v, destOccupied s.mx6 (s.core s.cur.core) v = false := by
    intro v
    unfold destOccupied
    rw [Bool.and_eq_false_iff, List.any_eq_false]
    refine .inr fun x _ => ?_
    rw [Bool.not_eq_true, List.any_eq_false]
    exact fun y _ => by rw [Bool.not_eq_true]; rfl
  unfold State.mdrainCheck
  simp only [hd]
  decide +kernel

/-- A queue 5 that is enabled, its ring of 16 entries at 0, with one entry to take. -/
def queue0 : Queue := ⟨5, true, 4, 0, 0x1000, 4, 1, 0, 0, 1, 0xFFFFFFFF, none, 0⟩

/-- ControlOperations: each operation passes and fails its checks on a control core. -/
theorem witness_ControlOperations :
    (let s := ({ State.reset with cur := ⟨512, false⟩ } : State).modTower false fun w => { w with queues := [queue0] }
     canRun s = true ∧ (s.tower false).queueOn 5 = true ∧ (s.tower false).queueOn 6 = false ∧ (s.tower false).japp - (s.tower false).jcom ≠ 16384 ∧
       s.pushing = false ∧ (s.tower false).origins.length < 4096 ∧ (s.tower false).hold = false ∧ (s.tower false).holdTko = false ∧
       ¬ ((s.tower false).takeover = true ∧ s.isPrimary s.cur.core = false)) ∧
    (let s := ({ State.reset with cur := ⟨513, false⟩ } : State).modTower false fun w =>
        { w with japp := 16384, takeover := true, hold := true, holdTko := true }
     canRun s = true ∧ (s.tower false).japp - (s.tower false).jcom = 16384 ∧ s.isPrimary s.cur.core = false) ∧
    (let s : State := { State.reset with cur := ⟨512, false⟩, spawnWait := [⟨⟨512, false⟩, 0, 0, 0, 0, 0, some (5, 0)⟩] }
     canRun s = true ∧ s.pushing = true) := by decide +kernel


/-- ContextEvents: past the last bundle; results due and not; a snapshot; a waiting asynchronous trap; each wait that is over. -/
theorem witness_ContextEvents :
    (let s := ready fun x => { x with pc := 0x4001 }
     topOf s.cur.core ≤ s.me.pc.toNat ∧ s.me.tmask = false) ∧
    (let s := ready fun x => { x with inflight := [⟨.s 1 7, 0, some 0, false, 0, []⟩, ⟨.s 2 7, 0, none, true, 0, []⟩] }
     (∃ e, s.me.inflight[0]? = some e ∧ ∀ d, e.due = some d → d ≤ s.cycle) ∧ ∃ e, s.me.inflight[1]? = some e ∧ e.due = none) ∧
    (let s := ready fun x => { x with snap := [⟨.s 1 7, 0, 0, false, 0, []⟩], replayAt := some 0 }
     (∃ e, s.me.snap[0]? = some e ∧ 0 + e.tag ≤ s.cycle ∧ e.outer = false) ∧ s.me.replayAt = some 0 ∧ s.me.tmask = false) ∧
    (let s := ready fun x => { x with status := .running, asyncQ := [⟨0x21, 1, 2⟩] }
     s.me.status = .running ∧ s.me.tmask = false ∧ s.me.asyncQ = [⟨0x21, 1, 2⟩]) ∧
    (let s := ready fun x => { x with status := .parked (.waitF 1), flagFile := 2 }
     s.me.status = .parked (.waitF 1) ∧ s.me.flagFile.getLsbD (1 : BitVec 6).toNat = true) ∧
    (let s : State := { ready fun x => { x with status := .parked (.tick 0), job := 1 } with jobs := [job0] }
     s.me.status = .parked (.tick 0) ∧ ∃ j, s.job s.me.job = some j ∧ 0 ≤ j.frame) ∧
    (let s := (storing 5 []).modCtx ⟨0, false⟩ fun x => { x with status := .parked (.waitGe 0x100 5) }
     s.me.status = .parked (.waitGe 0x100 5) ∧ (s.apply s.cur (.touch 0x100 8)).counterAt 0 0x100 = some 5 ∧ (s.core 0).mem.foundRead 0x100 8 = []) := by
  refine ⟨by decide +kernel, ⟨⟨⟨.s 1 7, 0, some 0, false, 0, []⟩, by decide +kernel, ?_⟩, ⟨.s 2 7, 0, none, true, 0, []⟩, by decide +kernel, rfl⟩,
    ⟨⟨⟨.s 1 7, 0, 0, false, 0, []⟩, by decide +kernel, by decide +kernel, rfl⟩, by decide +kernel, by decide +kernel⟩, by decide +kernel, by decide +kernel,
    ⟨by decide +kernel, job0, by decide +kernel, by decide⟩, by decide +kernel⟩
  intro d h; cases h; exact Nat.le_refl _

/-- PieceEvents: a piece that is performed and one that is refused; a stream operation before, at and after its last element; lock events. -/
theorem witness_PieceEvents :
    (let s : State := { holding [] with pieces := [piece0 .store] }
     s.pieces[0]? = some (piece0 .store) ∧ s.pieceReady 0 (piece0 .store) = true ∧ s.alive ⟨0, false⟩ 1 = true ∧
       (s.core 0).mem.foundWrite 0x100 8 = [] ∧ (s.core 0).pieceCause (piece0 .store) = none ∧
       (let t := s.modCore 0 fun k => { k with mem := { k.mem with pois := [8] } }
        (t.core 0).pieceCause (piece0 .store) = some 0x2A)) ∧
    (let s := (storing 5 []).modCtx ⟨0, false⟩ fun x => { x with stream := some { stream0 .smv 0 with next := 0 } }
     (∃ st, s.me.stream = some st ∧ st.stopped = false ∧ st.ready = true ∧ st.moved + 1 < st.n ∧ st.next ≤ s.cycle ∧ st.srcCore = s.cur.core ∧
       (s.core 0).bankBusy s.cycle (st.src + st.moved * st.esize) = false ∧ (s.core 0).bankBusy s.cycle (st.dst + st.moved * st.esize) = false)) ∧
    (let s := (storing 5 []).modCtx ⟨0, false⟩ fun x => { x with stream := some { stream0 .smv 1 with next := 0 } }
     (∃ st, s.me.stream = some st ∧ st.moved < st.n ∧ ¬ st.moved + 1 < st.n)) ∧
    (let s := (storing 5 []).modCtx ⟨0, false⟩ fun x => { x with stream := some { stream0 .smv 2 with next := 1 } }
     (∃ st, s.me.stream = some st ∧ st.stopped = false ∧ st.ready = true ∧ st.n ≤ st.moved ∧ st.next ≤ s.cycle + 1)) ∧
    (let r : Stream := { stream0 .rmv 0 with srcCore := 1, srcLock := .requested, dstLock := .requested }
     let s := (storing 5 []).modCtx ⟨0, false⟩ fun x => { x with stream := some r }
     s.me.stream = some r ∧ r.stopped = false ∧ r.kind = .rmv ∧ r.srcCore ≠ r.dstCore ∧ r.srcLock = .requested ∧ r.dstLock = .requested ∧
       (s.core 0).lockFailure r.dst r.n true = none ∧ ((s.core 1).lockFailure r.src r.n false).isSome = true) := by
  refine ⟨by decide +kernel, ⟨{ stream0 .smv 0 with next := 0 }, by decide +kernel⟩, ⟨{ stream0 .smv 1 with next := 0 }, by decide +kernel⟩,
    ⟨{ stream0 .smv 2 with next := 1 }, by decide +kernel⟩, by decide +kernel⟩

/-- A command of the matrix engine. -/
def mx0 (op : MxOp) (started : Option Nat) (step : Nat) (consumed : Bool) : MxCmd :=
  ⟨1, 0, ⟨0, 0, 0, 0⟩, op, false, view 0 2 128 128 0x10000 32, view 0 2 128 128 0x20000 32, 3, 4, .none, started, 0, step, consumed, [], []⟩

/-- A drain of accumulator 0. -/
def drain0 (started : Option Nat) : Drain :=
  ⟨2, ⟨0, false⟩, 1, 1, 1, 0, 0, ⟨0, 0, 0, 0⟩, false, view 0 2 128 128 0x10000 32, 3, rec8 [2 ^ 63 + 2 * 2 ^ 48], none, 0, .none, 0, 0, [], started, [],
    false, none, false⟩

/-- Core 0's matrix engine with a queue and drains, in a cycle. -/
def mxed (q : List MxCmd) (d : List Drain) (cycle : Nat) : State :=
  { (palette []).modCore 0 fun k => { k with mx := { k.mx with queue := q, drains := d } } with cycle := cycle }

/-- MatrixEvents: commands that start, step before their last step and at it, are consumed; a drain that starts and one that publishes. -/
theorem witness_MatrixEvents :
    (let q := mx0 .mzero none 0 false
     let s := mxed [q] [] 0
     (s.core 0).mx.queue = [q] ∧ (s.core 0).mx.startable s.cycle q = true ∧ s.mxHalted 0 = false ∧
       (((s.modCore 0 fun k => { k with mx := { k.mx with owner := some false } }).modCtx ⟨0, false⟩ fun x => { x with preempt := true }).mxHalted 0) = true) ∧
    (let q := mx0 (.mmq true false false false) none 0 false
     let s := mxed [q] [] 0
     (s.core 0).mx.queue = [q] ∧ (s.core 0).mx.startable s.cycle q = true ∧ s.mxHalted 0 = false ∧ (s.core 0).finds (q.reads s.mx6) = false ∧
       s.findsFull 0 (s.mxCtx 0) (s.ctx (s.mxCtx 0)).node (q.reads s.mx6) = false) ∧
    (let q := mx0 .mzero (some 0) 0 false
     let s := mxed [q] [] 4
     (s.core 0).mx.queue = [q] ∧ q.started = some 0 ∧ q.stepAt 0 ≤ s.cycle ∧ ¬ q.stepAt 0 ≤ 3) ∧
    (let q := mx0 (.mmq true false false false) (some 0) 0 false
     let s := mxed [q] [] 1000
     (s.core 0).mx.queue = [q] ∧ q.stepAt 0 ≤ s.cycle ∧ q.step + 1 ≠ q.steps ∧ q.consumed = false ∧ q.consumedAt 0 ≤ s.cycle) ∧
    (let q := mx0 (.mmq true false false false) (some 0) 7 true
     let s := mxed [q] [] 1000
     (s.core 0).mx.queue = [q] ∧ q.stepAt 0 ≤ s.cycle ∧ q.step + 1 = q.steps ∧ q.consumed = true) ∧
    (let d := drain0 none
     let s := mxed [] [d] 0
     (s.core 0).mx.drains = [d] ∧ d.started = none ∧ d.bias = none ∧ (∀ q ∈ (s.core 0).mx.queue, q.id ∉ d.after) ∧ (s.core 0).holds = []) ∧
    (let d := { drain0 none with bias := some (view 0 1 1 128 0x100 32), biasId := 6 }
     let s := mxed [] [d] 0
     d.bias.isSome = true ∧ (s.core 0).finds d.reads = false ∧ (s.core 0).finds (drain0 none).reads = false) ∧
    (let d := { drain0 (some 0) with discard := true }
     let s := mxed [] [d] 150
     (s.core 0).mx.drains = [d] ∧ d.started = some 0 ∧ 0 + 150 ≤ s.cycle ∧ d.discard = true) ∧
    (let d := { drain0 (some 0) with failCol := some 3 }
     let s := mxed [] [d] 150
     (s.core 0).mx.drains = [d] ∧ d.failCol = some 3 ∧
       (match (((s.modCore 0 fun k => k.endDrain d []).setChkf 0 d true).modJob d.job fun j => { j with counts.mxchk := j.counts.mxchk + 1 }).deliver
           d.ctx d.node ⟨0x22, faultA 0x10 d.dstId (vwBase d.dst + fmtSize (palFmt d.dst) * 3), faultB d.seq 0 (vwRow0 d.dst) (vwCol0 d.dst + 3)⟩ with
         | .done _ => true
         | _ => false) = true) ∧
    (let d := drain0 (some 0)
     let s := mxed [] [d] 152
     (s.core 0).mem.wf = true ∧ (s.core 0).mx.drains = [d] ∧ d.started = some 0 ∧ 0 + 152 ≤ s.cycle ∧ d.discard = false ∧ d.failCol = none) := by
  decide +kernel

/-- The machine of one job with a command. -/
def running (c : Cmd) : State :=
  { palette [] with jobs := [job0], cmds := [c], nextId := 2 }

/-- Whether the elements of a command pass. -/
def elemsPass (s : State) (c : Cmd) : Bool := match s.elemLoop c ((c.elems s.mx6).drop c.pos) with
  | (none, c1, _) => c1.found.isNone
  | (some _, _, _) => false

/-- Whether one fails, not for want of a frame, and the fault is delivered. -/
def elemsFail (s : State) (c : Cmd) : Bool := match s.elemLoop c ((c.elems s.mx6).drop c.pos) with
  | (none, _, _) => false
  | (some (f, e), c1, s1) => (f.code != 0x21 || f.cause != 0x05) && match c1.ctx with
    | none => false
    | some r => match s1.deliver r c1.node ⟨f.code, (c1.record f e).1, (c1.record f e).2⟩ with
      | .done _ => true
      | _ => false

/-- EngineEvents: commands that start, pass and fail, are published and discarded; a name; an add; a completion entry. -/
theorem witness_EngineEvents :
    (let c := cmd0 .cpy .queued
     let s := (running c).modTower false fun w => { w with columnsBad := [] }
     s.cmd c.id = some c ∧ s.inOrder c = true ∧ ((s.engineOf c.core).filter Cmd.running).length < 16 ∧ c.op.transfers = true ∧
       s.underHold c = false ∧ s.unreachable c.core = false) ∧
    (let c := { cmd0 (.ctradd 3) .queued with ctr := .flag 1 }
     let s := (running c).modTower false fun w => { w with columnsBad := [] }
     s.cmd c.id = some c ∧ s.inOrder c = true ∧ s.ctraddReady c.ctx c.node c.id c.core = true ∧ c.ctr ≠ .none ∧ s.unreachable c.core = false) ∧
    (let c := cmd0 .cpy .running
     let s := ((running c).modCore 0 fun k => { k with mem := k.mem.put 0x100 (List.replicate 256 1) }).modTower false fun w => { w with columnsBad := [] }
     s.cmd c.id = some c ∧ c.killed = false ∧ s.outside c = false ∧ s.unreachable c.core = false ∧ elemsPass s c = true ∧
       (s.modTower false fun w => { w with columnsBad := [0] }).unreachable c.core = true) ∧
    (let c := { cmd0 .cpy .running with src := view 1 1 1 64 0x100 32 }
     let s := (running c).modTower false fun w => { w with columnsBad := [] }
     s.cmd c.id = some c ∧ c.killed = false ∧ c.op.transfers = true ∧ s.unreachable c.core = false ∧ elemsFail s c = true) ∧
    (let c := { cmd0 .pub .queued with id := 2 }
     let s : State := { running c with cmds := [cmd0 .cpyNp .complete, c] }
     s.cmd c.id = some c ∧ s.inOrder c = true ∧ s.npInto c.ctx c.node c.id c.dstId ≠ [] ∧
       ∀ d ∈ s.npInto c.ctx c.node c.id c.dstId, d.state = .complete ∧ d.settled = true) ∧
    (let c := cmd0 .dsc .queued
     let s := running c
     s.cmd c.id = some c ∧ s.inOrder c = true ∧ s.npInto c.ctx c.node c.id c.dstId = []) ∧
    (let c := cmd0 (.kvshare 5 6) .running
     let s := (running c).modTower false fun w => { w with canvNames := [(0, 5, 9)] }
     s.cmd c.id = some c ∧ s.namesWait c = false ∧ (s.tower false).block c.tenant (5 : W64).toNat = some 9 ∧
       (s.tower false).block c.tenant (6 : W64).toNat = none ∧ (s.tower false).namesOf 9 < 255 ∧ (s.tower false).canvNames.length < 131072) ∧
    (let a : AddReq := ⟨0, none, .mem 0x100, 3, .none, 1, 1, 1, 0, some 2, true⟩
     let s : State := { storing 5 [] with adds := [a] }
     s.adds[0]? = some a ∧ s.makeable a = true ∧ (s.core 0).mem.foundRead 0x100 8 = [] ∧ (s.core 0).mem.poisoned 0x100 = false ∧ a.andThen = .none) ∧
    (let c : Completion := ⟨5, 1, false, .none, none, 0⟩
     let s := State.reset.modTower false fun w => { w with queues := [queue0], completions := [c] }
     (s.tower false).completions[0]? = some c ∧ s.queue c.queue = some queue0 ∧ queue0.en = true ∧
       (s.tower false).completions.take 0 = [] ∧ ([c].take 1 = [c] ∧ c.held = false) ∧ queue0.cqwrite - queue0.cqhead ≠ BitVec.ofNat 32 (2 ^ queue0.cqn)) := by
  decide +kernel

/-- A machine whose job maps the first 32 MiB of its addresses to those of device memory, with bytes at some of them. -/
def mapped (l : List (Nat × List Byte)) : State :=
  { State.reset.modTower false fun w => { w with queues := [queue0], columnsBad := [] } with
    jobs := [job0], nextId := 2
    scopes := [⟨false, 1, 1, 0, 1, .opened, none, none⟩, ⟨false, 2, 1, 1, 2, .opened, none, none⟩]
    dev := (([(0, leBytes 8 (2 ^ 63 + 3 * 2 ^ 56 + 1)), (4096, leBytes 8 (2 ^ 63 + 2 ^ 62 + 2 ^ 60))] ++ l).foldl
      (fun (m : DevMem) (w : Nat × List Byte) => m.write (fun _ => []) 0 w.1 (w.2.map some)) (DevMem.blank 0)) }

/-- An all-gather of 128 words on a ring of P members. -/
def coll0 (P : Nat) (ready : Nat) (started : Bool) (peer : Option (BitVec 8)) : CollCmd :=
  ⟨1, some ⟨0, false⟩, 1, 1, 1, 0, 0, 0, ⟨0, 0, 0, 0⟩, rec8 [3 * 2 ^ 62 + 2 ^ 56 + 2 ^ 48 + 2 ^ 8 + 7], 6, view 0 1 1 128 0x100 32, 1,
    rec8 [2 ^ 63 + (P - 1) * 2 ^ 18, 0x2000, 2 * 2 ^ 8 + 3, 77], 0, 0, 0, ready, started, 0, [], [], [], [], peer, 0, none, false, false⟩

/-- A machine with the collective and with its two links up. -/
def gathering (c : CollCmd) : State :=
  { mapped [(0x2008, leBytes 8 9)] with colls := [c], links := (List.range 16).map fun p => { Link.down p with up := true, listed := true } }

/-- A message. -/
def msg0 : QMsg := ⟨1, ⟨0, false⟩, 1, 1, 1, 0, 0, 0, ⟨0, 0, 0, 0⟩, 5, .none, false⟩

/-- LinkEvents: a collective on a ring of one that starts and that publishes; a message; flits in and out of order, of a collective and of none;
each kind of control flit; clocks; hellos; a lost link; a new key. -/
theorem witness_LinkEvents :
    (let c := coll0 1 1 false none
     let s := gathering c
     s.coll c.id = some c ∧ c.ready ≠ 0 ∧ s.firstReady c = true ∧ s.collAdding c = false ∧ s.freeEngine (towerOf c.core) = some 0 ∧ c.P = 1 ∧
       (({ c with started := true } : CollCmd)).finished = true) ∧
    (let s : State := { mapped [] with msgs := [msg0] }
     s.msgs.find? (fun x => x.id == msg0.id) = some msg0 ∧ s.job msg0.job = some job0 ∧ s.qpushReady msg0 = true) ∧
    (let c := coll0 2 1 true (some 0)
     let s := gathering c
     let f : Flit := ⟨4 * 2 ^ 20, 0, [1, 2, 3, 4]⟩
     (s.link 2).takes = true ∧ f.seq = (s.link 2).rxSeq ∧ s.collOf 2 f.stream = some c ∧ s.collOf 3 f.stream = none ∧ (0 : W64).toNat = c.rx.length ∧
       f.payload.length = f.dw0.toNat / 2 ^ 20 % 512 ∧ c.rx.length + f.payload.length ≤ c.due c.step * c.wire c.step ∧
       (Flit.mk (5 * 2 ^ 44) 0 []).seq ≠ (s.link 2).rxSeq ∧ (2 : Nat) ∈ c.ports ∧ s.coll c.id = some c) ∧
    (let c := coll0 2 1 true none
     let s := gathering c
     clKind c.desc ≠ 4 ∧ ringRx c.ring = 2 ∧ c.peer = none ∧
       (s.vread c.job (ringList c.ring + 8 * ((c.pos + c.P - 1) % c.P)) 8).map (fun b => BitVec.ofNat 64 (leNat b)) = some (9 : W64) ∧ ringId c.ring = 77) ∧
    ((4 : W64) ≠ BitVec.allOnes 64 ∧ ({ State.reset with grandmaster := some 4 } : State).grandmaster = some 4 ∧ State.reset.grandmaster ≠ some 4 ∧
     ({ State.reset with grandmaster := some (BitVec.allOnes 64) } : State).grandmaster = some (BitVec.allOnes 64)) ∧
    (let s : State := { State.reset with links := [{ Link.down 0 with retrySince := some 0 }], time19 := 19 * 10000, peers := [5] }
     (s.link 0).retrySince = some 0 ∧ 0 + 10000 ≤ s.time ∧ (5 : BitVec 456) ∈ s.peers) := by
  refine ⟨?_, ?_, ?_, ?_, ?_, ?_⟩ <;> decide +kernel

theorem bucketFound_of {s : State} {c : CollCmd} {r : CtxRef} (hc : c.ctx = some r) (h : (s.core c.core).finds (c.reads s.mx6) = false) :
    s.bucketFound c = s.modCore c.core fun k => k.readIn (c.reads s.mx6) := by
  unfold State.bucketFound
  simp only [hc]
  exact State.computeFound_clean h ..

/-- LinkEvents: the start of a collective finds no uncorrectable word where the scratchpad has no altered bit, and does not wait. -/
theorem witness_bucketFound : let c := coll0 1 1 false none
    let s := (gathering c).modTower false fun w => { w with columnsBad := [] }
    s.bucketFound c = (s.modCore 0 fun k => k.readIn (c.reads s.mx6)) ∧ s.collWaits c = false ∧ s.unreachable c.core = false := by
  refine ⟨bucketFound_of (r := ⟨0, false⟩) rfl (by decide +kernel), by decide +kernel, by decide +kernel⟩

/-- LinkEvents: a link that can take a time flit; a collective that an abort ends and whose hello fails or passes; data still on the link;
the grandmaster's and another's time; peers that are listed and not. Suspension: a result that must land first. -/
theorem witness_links_more :
    (let l := (gathering (coll0 2 1 true none)).link 2
     l.takes = true ∧ l.queue = [] ∧ l.canSend = true ∧ l.unacked.length < 1024) ∧
    (let c := coll0 2 1 true none
     c.started = true ∧ c.killed = false ∧ c.finished = false ∧ c.failing = none ∧ (some (9 : W64) ≠ some 8) ∧ (2 : Nat) ∈ c.ports ∧
       c.sentOut ((gathering c).link 3) = false) ∧
    ((5 : BitVec 456) ∉ State.reset.peers ∧ ({ Link.down 0 with up := true } : Link).up = true) ∧
    (let s := ready fun x => { x with snap := [⟨.s 1 7, 0, 5, false, 0, []⟩], replayAt := some 0 }
     canRun s = true ∧ s.me.npc = none ∧ s.quiet s.cur = true ∧ s.me.landsHeld = true ∧ State.reset.me.landsHeld = false) := by
  refine ⟨?_, ?_, ?_, ?_⟩ <;> decide +kernel

/-- SuspensionEvents: a node to dispatch, a context to pre-empt, cancels, a tick, a slice, a segment to save and one to power down. -/
theorem witness_SuspensionEvents :
    (let s : State := { (mapped []).modTower false fun w => { w with ready := [(0, 1)] } with nodes := [node0] }
     s.node node0.id = some node0 ∧ s.job node0.job = some job0 ∧ s.nextNode false = some node0.id ∧ node0.tower = false ∧ recKind node0.nrec = 0 ∧
       s.isAtelierNode node0 = false ∧ s.matchesCore node0 0 = true ∧ s.freeFor node0 0 = some ⟨0, false⟩) ∧
    (let s := (jobbed []).modCtx ⟨0, false⟩ fun x => { x with preempt := true }
     s.me.preempt = true ∧ s.me.status ≠ .free ∧ s.preemptWaits s.cur = false ∧ s.inSlice (towerOf s.cur.core) s.me.job = true ∧ s.me.ptag = 0) ∧
    (let k : Cancel := ⟨1, false, 1, [2], [0, 511], 0, 0, 2, 1, 0⟩
     let s : State := { jobbed [] with cancels := [k] }
     s.cancels.find? (fun c => c.id == k.id) = some k ∧ 0 ∈ k.left ∧ 511 ∈ k.left) ∧
    (let s : State := { State.reset with jobs := [job0], time19 := 19 * 1000 }
     s.job job0.num = some job0 ∧ job0.start + (job0.ticks + 1) * job0.interval ≤ s.time ∧ s.nodes = [] ∧ job0.slipping = []) ∧
    (let s := (jobbed []).modTower false fun w => { w with slices := [⟨2, 100, 2⟩, ⟨1, 100, 2⟩], slice := some 1, saving := [(0, 1)] }
     1 < (s.tower false).slices.length ∧ ((0 : CoreRef).val, 1) ∈ (s.tower (towerOf 0)).saving ∧ s.segEngaged 0 1 = false ∧
       (s.tower false).slices ≠ [] ∧ (∀ j ∈ s.jobs, j.num ≠ (s.tower false).sliceJob (s.tower false).slice → s.jobOwns j.num 0 1 = false) ∧
       (s.tower false).savedSegs = []) ∧
    (let s := State.reset
     isCtl (0 : CoreRef) = false ∧ (s.ctx ⟨0, false⟩).owns 31 = false ∧ (s.ctx ⟨0, true⟩).owns 31 = false ∧ s.nodes = [] ∧ (s.core 0).mem.pres = [] ∧ (s.core 0).pend = []) := by
  refine ⟨?_, ?_, ?_, ?_, ?_, ?_⟩ <;> decide +kernel

/-- SuspensionEvents: a cancel whose subtree is quiet. -/
theorem witness_quietCancel : let k : Cancel := ⟨1, false, 1, [2], [], 0, 0, 2, 1, 0⟩
    ({ State.reset with cancels := [k] } : State).quietCancel k = true ∧ k.ctr = 0 ∧ State.reset.nodes = [] := by decide +kernel

/-- R316, R317: the header of an image without commands, its RESUME at the next bundle. R319: a node whose image is unreadable is not
restored; its scope is cancelled. -/
theorem test_image :
    let s := (jobbed []).modCtx ⟨0, false⟩ fun x => { x with pc := 3 }
    let im := s.imageOf ⟨0, false⟩
    im.header = [0x030000000002E000, 1, 1, 3, 0] ∧
    (let bad : Image := { im with bad := [0x40] }
     let u : State := { (mapped []).modTower false fun w => { w with ready := [(0, 1)] } with nodes := [{ node0 with image := some bad }] }
     let v := after (.dispatch false [(1, ⟨0, false⟩)]) u
     v.cancels.length = 1 ∧ (v.ctx ⟨0, false⟩).status = .free ∧ v.nodes = []) := by decide +kernel

/-- A submission entry of job 1 with SEQ 0 and doublewords 2 to 7. -/
def entry0 (opc : Nat) (l : List Nat) : Rec64 := rec8 ([opc * 2 ^ 56, 2 ^ 32] ++ l)

theorem taken_of {s : State} {e : Rec64} {opc : Nat} (h : s.queue 5 = some queue0) (hp : s.offers 5 queue0 e = true) (he : subSeq e = 0)
    (ho : subOpc e = opc) (hr : (s.tower (queueTower 5)).holdFull = false) : Taken s 5 e opc :=
  ⟨⟨queue0, h, rfl, rfl, hp, by rw [he]; rfl⟩, ho, hr⟩

/-- A machine in whose queue 5 an entry stands, in slot 0 of the ring. -/
def offering (e : Rec64) (s : State) : State := s.modTower false fun w => { w with qmem := putBytes w.qmem 0 (leBytes 64 e.toNat) }

/-- What `Taken` asks of an entry, decidable. -/
def takenOk (s : State) (e : Rec64) (opc : Nat) : Bool :=
  decide (s.queue 5 = some queue0) && s.offers 5 queue0 e && decide (subSeq e = 0) && decide (subOpc e = opc) && !(s.tower (queueTower 5)).holdFull

/-- What `OfJob` asks beside. -/
def entryOk (s : State) (e : Rec64) (opc i : Nat) : Bool :=
  takenOk s e opc && subOk e && decide (s.job (subJob e) = some job0) && (List.range 8).all fun k => decide (k < i) || dw e k == 0

theorem taken_ok {s : State} {e : Rec64} {opc : Nat} (h : takenOk s e opc = true) : Taken s 5 e opc := by
  simp only [takenOk, Bool.and_eq_true, decide_eq_true_eq, Bool.not_eq_true'] at h
  exact taken_of h.1.1.1.1 h.1.1.1.2 h.1.1.2 h.1.2 h.2

theorem ofJob_ok {s : State} {e : Rec64} {opc i : Nat} (h : entryOk s e opc i = true) : OfJob s 5 e opc job0 i := by
  simp only [entryOk, Bool.and_eq_true, decide_eq_true_eq, List.all_eq_true, List.mem_range, Bool.or_eq_true, beq_iff_eq] at h
  exact { taken_ok h.1.1.1 with ok := h.1.1.2, job := h.1.2, zero := fun k hk hi => (h.2 k hk).resolve_left (by omega) }

/-- Whether a LAUNCH is done, an injection placed. -/
def launches (s : State) (q : Nat) (e : Rec64) : Bool := match s.launch q (subSeq e) e with
  | .done _ _ => true
  | _ => false
/-- Whether an injection is placed. -/
def places (s : State) (j : Job) (e : Rec64) : Bool := match s.injection j e with
  | .placed _ => true
  | _ => false

/-- HostEntries: a queue that Easel has to claim for its next entry, and one that it need not. -/
theorem witness_afterClaim :
    (let u := { queue0 with claim := 0 }
     let s := State.reset.modTower false fun w => { w with queues := [u], kick := [5] }
     s.queue 5 = some u ∧ newer u.claim (u.lastseq + 1) = false ∧ 5 % 2048 ∈ (s.tower (queueTower 5)).kick ∧ s.claimEnd 5 u = 1) ∧
    newer queue0.claim (queue0.lastseq + 1) = true := by decide +kernel

/-- HostEntries: an image without sections to launch; a node record; a group entry; a range; a scope; a parked and a bound context; a
layer in use and not, on and off; each kind of job setting; an injection; an opcode of none. -/
theorem witness_HostEntries :
    (let e := rec8 [2 ^ 56, 2 * 2 ^ 32, 0x2000, 0, 2 ^ 12 + 5, 1, 0, 0]
     let s := offering e (mapped [(0x2000, leBytes 8 (0x0501 * 2 ^ 48) ++ (leBytes 8 64 ++ leBytes 8 0 ++ leBytes 8 64 ++ leBytes 8 0 ++ leBytes 8 64 ++ leBytes 8 0 ++ leBytes 8 64))])
     takenOk s e 1 = true ∧ launches s 5 e = true) ∧
    (let e := entry0 2 [0x2000]
     let s := offering e (mapped [(0x2000, leBytes 64 (2 ^ 28))])
     entryOk s e 2 3 = true ∧ okay (s.nodeEntry e) = true ∧ s.poolRoom false = true) ∧
    (let e := entry0 3 [7, 0x2000]
     let s := offering e (mapped [(0x2000, leBytes 64 (2 ^ 63))])
     entryOk s e 3 4 = true ∧ s.vreadClean 1 0x2000 64 = some (leBytes 64 (2 ^ 63)) ∧ groupOk (recOfBytes (leBytes 64 (2 ^ 63))) = true ∧
       s.groupRefused false 7 (recOfBytes (leBytes 64 (2 ^ 63))) = false) ∧
    (let e := entry0 4 [0x2000, 64]
     entryOk (offering e (mapped [])) e 4 4 = true ∧ canonical 0x2000 = true ∧ 0x2000 + 64 ≤ 2 ^ 48 ∧ canonical (2 ^ 48) = false) ∧
    (let e := entry0 5 [0x2000, 64]
     let s := offering e (mapped [])
     entryOk s e 5 5 = true ∧ (s.pagesOf 1 0x2000 64).isSome = true) ∧
    (let ok (e : Rec64) (opc i : Nat) : Bool := entryOk (offering e (mapped [])) e opc i
     ok (entry0 6 [2]) 6 3 = true ∧ ok (entry0 8 [2, 0x2000, 4]) 8 6 = true ∧ ok (entry0 12 [1]) 12 3 = true ∧
       ((mapped []).jobScope job0 2).isSome = true ∧ ((mapped []).jobScope job0 1).isSome = true ∧ ok (entry0 11 [1, 0x2000, 4]) 11 5 = true ∧
       ok (entry0 11 [2, 0xFFFF1111]) 11 4 = true ∧ ok (entry0 11 [3, 9]) 11 4 = true ∧ ok (entry0 0 []) 0 2 = true ∧ ok (entry0 14 []) 14 2 = true) ∧
    (let s (e : Rec64) : State := (offering e (mapped [])).modCtx ⟨0, false⟩ fun x => { x with status := .parked .brk, job := 1 }
     let e := entry0 7 [0, 0]
     let e' := entry0 9 [0, 0]
     entryOk (s e) e 7 4 = true ∧ ((s e).ctx (entryCtx e)).status = .parked .brk ∧ ((s e).ctx (entryCtx e)).job = 1 ∧
       entryOk (s e') e' 9 4 = true ∧ (s e').namesDone e' = false ∧ ({ s e' with jobsDone := [1] } : State).namesDone e' = true ∧ ((s e').ctx (entryCtx e')).status ≠ .free ∧ ((s e').ctx (entryCtx e')).ptag = 0) ∧
    (let s (e : Rec64) : State := (offering e (mapped [])).modTower false fun w => { w with layersOff := 2 }
     let off := entry0 10 [0, 0]
     let on := entry0 10 [1, 1]
     entryOk (s off) off 10 4 = true ∧ (s off).layerUsed false 0 = false ∧ ((s off).tower false).powering = [] ∧ entryOk (s on) on 10 4 = true ∧
       ((s on).tower false).layersOff.getLsbD 1 = true) ∧
    (let e := entry0 13 [0, 0x100, 3]
     let s := (offering e (mapped [])).modTower false fun w => { w with columnsBad := [] }
     entryOk s e 13 5 = true ∧ injectOk e = true ∧ places s job0 e = true) := by
  refine ⟨?_, ?_, ?_, ?_, ?_, ?_, ?_, ?_, ?_⟩ <;> decide +kernel

/-- HostAccesses: a value for a disabled queue; accesses inside and outside the memories; a layer on its way up. -/
theorem witness_HostAccesses :
    (let cfg : BitVec 256 := BitVec.ofNat 256 (2 ^ 63 + 4 * 2 ^ 32 + 4 * 2 ^ 128)
     bit cfg 63 = true ∧ queueOk cfg = true ∧ State.reset.queue 5 = none) ∧
    State.reset.hostOutside none 0 8 = false ∧ State.reset.hostOutside none (2 ^ 38 - 1) 1 = false ∧ State.reset.hostOutside none (2 ^ 38) 1 = true ∧
    (5, (7 : BitVec 32), (3 : BitVec 2).toNat) ∈ ((State.reset.modTower false fun w => { w with powering := [(5, 7, 3)] }).tower false).powering ∧
    bit (0 : BitVec 256) 63 = false ∧ queueOk (BitVec.ofNat 256 (2 ^ 63)) = false ∧
    slicesAt (putBytes [] 64 (leBytes 8 1 ++ leBytes 8 0 ++ leBytes 8 (2 ^ 32 + 100) ++ leBytes 8 1)) 64 ≠ [] := by decide +kernel

/-- A linked image whose one section gives the entries of tower 0's firmware: 3, and 5 for a take-over (R345, R346). -/
def firmware0 : List Byte :=
  [0x0501 * 2 ^ 48, 112, 1, 64, 0, 112, 0, 112, 6 * 2 ^ 56 + 2 ^ 9, 96, 16, 0, 3, 2 ^ 62 + 5].flatMap (leBytes 8)

/-- A signature is no part of what it signs. -/
theorem prehash_sig (r : Repair) (x : BitVec 912) : ({ r with sig := x } : Repair).prehash = r.prehash := rfl

/-- A record of tower 0's speed bins. -/
def binBody : Repair := ⟨2, 0, 3, true, 0⟩

/-- The record, signed with the factory key. -/
noncomputable def bins0 : Repair := { binBody with sig := Config.factorySign binBody.prehash }

/-- Reliability: a tower in a bin above its lowest, which a good record names, and one in its lowest. -/
theorem witness_thermalLimit : let s : State := { State.reset.modTower false fun w => { w with speed := .bin 0 } with repairs := [bins0] }
    (s.tower false).speed = .bin 0 ∧ s.lowestBin false = 3 := by
  have g : bins0.good = true := by
    have p : bins0.prehash = binBody.prehash := prehash_sig binBody _
    unfold Repair.good
    rw [p]
    simp [bins0, binBody]
  refine ⟨rfl, ?_⟩
  have e : ([bins0].filter fun r => r.kind == 2 && r.unit == 64 * towerNat false && r.good) = [bins0] := by
    rw [List.filter_cons, g]; rfl
  show ((([bins0].filter fun r => r.kind == 2 && r.unit == 64 * towerNat false && r.good).map (·.pos)).head?).getD _ = 3
  rw [e]; rfl

/-- Reliability: a heartbeat run out with a standby and without; firmware; an invalidation; lines; a warm tower; services; an unreadable bundle. -/
theorem witness_Reliability :
    (let s : State := { State.reset.modTower false fun w => { w with beat := some 9 } with cycle := 9 }
     s.beatOut false = true ∧ (s.tower false).standbyOk = true ∧ ({ s with cycle := 8 } : State).beatOut false = false) ∧
    (let s : State := { State.reset.modTower false fun w => { w with beat := some 0, standbyOk := false } with
       jobs := [job0], scopes := [⟨false, 1, 1, 0, 1, .opened, none, none⟩] }
     s.beatOut false = true ∧ (s.tower false).standbyOk = false ∧ s.faulted = false ∧ s.job job0.num = some job0 ∧
       (s.scope job0.home job0.root).isSome = true) ∧
    (let s : State := { State.reset.modTower false fun w => { w with reloadDue := true, standbyOk := false } with fwFile := firmware0 }
     (s.tower false).reloadDue = true ∧ (State.reset.tower false).reloadDue = false ∧ s.firmware false = some ⟨[], [], 3, 5⟩ ∧
       (s.tower false).takeover = false ∧ s.owed ⟨s.controlCore false false, false⟩ = false) ∧
    (let v : Inval := ⟨1, 1, 0, 64, 3, none, 0, none⟩
     let s : State := { State.reset with invals := [v] }
     s.invals.find? (fun w => w.id == v.id) = some v ∧ v.left.getLsbD (towerNat false) = true ∧ v.left.getLsbD (towerNat true) = true ∧ s.usesOld v false = false ∧ s.usesOld v true = false) ∧
    (let s : State := { State.reset with dev := { DevMem.blank 0 with syms := [72, 73, 74, 75] } }
     s.dev.wf = true ∧ s.lineClaimed .gddr 1 = false ∧ s.lineBad .gddr 1 = true ∧ s.lineBad .gddr 2 = false ∧ s.dev.symsIn 2 = [] ∧ setHas s.dev.told 1 = false) ∧
    (let s : State := { State.reset.modTower false fun w => { w with coolSince := some 0 } with time19 := 19 * 10 ^ 10 }
     (s.tower false).coolSince = some 0 ∧ 0 + 10 ^ 10 ≤ s.time ∧ (s.tower false).retrain = none) ∧
    (State.reset.service = .off ∧ ∃ o ∈ [((1 : Nat), (0 : Nat), (0 : Nat), (0 : Nat))], o.1 = 1) ∧ State.reset.toFull = none ∧
    (let s := (({ State.reset with service := .reduced, selfTest := some true } : State).modTower false fun w => { w with trained := true }).modTower true
       fun w => { w with trained := true }
     s.service = .reduced ∧ s.selfTest.isSome = true ∧ ∀ w, (s.tower w).excluded = false ∧ (s.tower w).trained = true) ∧
    (let s : State := { (holding []).modCore 512 fun k => { k with imemBad := [0] } with cur := ⟨512, false⟩ }
     let u := s.modCtx ⟨512, false⟩ fun x => { x with status := .running }
     u.me.status = .running ∧ u.me.pc.toNat ∈ (u.core 512).imemBad ∧ isCtl u.cur.core = true ∧ u.isPrimary u.cur.core = true) ∧
    (State.reset.tower false).speed = .slow ∧
    (let s := (holding []).modCore 0 fun k => { k with imemBad := [0] }
     s.me.status = .running ∧ s.me.pc.toNat ∈ (s.core 0).imemBad ∧ isCtl s.cur.core = false) ∧
    (State.reset.core (coreOfId 511)).mem.wf = true := by
  refine ⟨?_, ?_, ?_, ?_, ?_, ?_, ?_, ?_, ?_, ?_, ?_, ?_, ?_⟩ <;> decide +kernel

/-- OneRecord: no bundle open; one open with a slot evaluated; instructions of slot 1, of slot 4 with no piece waiting, of any slot. -/
theorem witness_OneRecord : mapOf (.add (f 3 1 2)) ≠ .ev ∧ mapOf (.ldD (f 3 1 2)) = .l ∧ State.reset.pieces = [] ∧ mapOf .nop = .any ∧
    Issue.closed = Issue.closed ∧ (mapOf (.add (f 3 1 2))).slot = 1 ∧
    (let u : Issue := ⟨true, 1, [⟨0, 0, false, false, false, 0, none, none, [], [], 0⟩]⟩
     u.opened = true ∧ u.slot = 1 ∧ (u.recs.map (·.draws)).sum = 0) := by decide +kernel

/-- A machine whose core 0 moves next, `add s3, s1, s2` in slot 1 of bundle 0. -/
def moving : State :=
  let s := (s12 2 3).modCore 0 fun k => { k with imem := putBytes k.imem 4 (leBytes 4 (encode (.add (f 3 1 2))).1.toNat) }
  { s with turn := [0], running := [0] }

/-- StepRunsDecodedInstruction: that machine. -/
theorem witness_CoreNext : CoreNext 0 [] moving where
  agenda := rfl
  due := by decide +kernel
  choices := by decide +kernel
  turn := rfl
  boundary := by decide +kernel
  offers := by decide +kernel
  inside := by decide +kernel
  unheld := by decide +kernel

/-- Its bundle, and the end of Q's part. -/
theorem witness_StepRunsDecodedInstruction : moving.bundleAt ⟨0, false⟩ = bundleOf (.add (f 3 1 2)) ∧ mapOf (.add (f 3 1 2)) ≠ .ev ∧
    ({ moving with cur := ⟨0, false⟩ } : State).atEnd ⟨0, false⟩ = false ∧ (moving.ctx ⟨0, true⟩).offers moving.cycle = false := by decide +kernel

/-- Whether a step answers a next state that holds a value in s3 of the context. -/
noncomputable def stepS3 (s : State) : Option W64 := match step s with
  | .next t => some ((t.ctx ⟨0, false⟩).s 3)
  | _ => none

/-- StepRunsDecodedInstruction, StepKeepsInv: a step from there runs the sum; no bundle is open before it. -/
theorem test_step : stepS3 moving = some 5 ∧ moving.issue = Issue.closed := by decide +kernel

/-- DisabledOperation: p1 is false. -/
theorem witness_DisabledOperation : shapeOf (.add { f 3 1 2 with p := 1 }) = some .sss ∧ State.reset.issue = Issue.closed ∧
    (∀ r, Shape.sss.guard.reg 1 = some r → State.reset.me.isFull r = true) ∧ Shape.sss.guard.enabled State.reset.me false 1 = false ∧
    State.reset.me.isFull (.p 1) = true ∧ State.reset.me.p 1 = false := by
  refine ⟨by decide +kernel, rfl, ?_, by decide +kernel, by decide +kernel, by decide +kernel⟩
  intro r h; cases h; decide +kernel

/-- TrapEntry: within a handler and outside, results of both kinds in flight. -/
theorem witness_TrapEntry : State.reset.me.tmask = false ∧ (ready fun x => { x with spec := { x.spec with status := 8 } }).me.tmask = true ∧
    isCtl (513 : CoreRef) = true := by decide +kernel

/-- DecodeEncode: fields at the ends of their ranges; an extension opcode; a word that breaks a field rule. -/
theorem witness_DecodeEncode : Instr.wf (.add ⟨true, 7, false, false, 63, 63, 63⟩) = true ∧ Instr.wf (.add (f 0 0 0)) = true ∧
    mapOf (.add (f 0 0 0)) = .s ∧ guardOk false 0 = true ∧ guardOk true 7 = true := by decide +kernel

end Sys2Proof.Tests.Slice0
end

section
/-! Counts, reversal, gather and scatter (R47, R49) by the bits of their results. -/

namespace Sys2Proof.Machine

/-- A trailing zero count of R47. -/
theorem ctz_spec (x : W64) : ∃ n ≤ 64, ctz64 x = BitVec.ofNat 64 n ∧ (∀ i < n, x.getLsbD i = false) ∧
    (n < 64 → x.getLsbD n = true) := by
  obtain ⟨hn, hz, ho⟩ := ctzFrom_spec x 0 64
  simp only [Nat.zero_add] at hz ho
  exact ⟨_, hn, rfl, hz, ho⟩

theorem brev64_bit (x : W64) {i : Nat} (hi : i < 64) : (brev64 x).getLsbD i = x.getLsbD (63 - i) := by
  have h := lanesNat_lane 1 (fun j => BitVec.ofBool (x.getLsbD (63 - j))) hi
  rw [Nat.one_mul, Nat.pow_one] at h
  rw [brev64, BitVec.getLsbD_ofNat, Nat.testBit_eq_decide_div_mod_eq, h]
  cases x.getLsbD (63 - i) <;> simp [hi]

/-! Each step of `bext` and `bdep` adds one bit at a place below which the rest has none. -/

theorem testBit_below {i k x : Nat} (h : 2 ^ i ∣ x) (hk : k < i) : x.testBit k = false := by
  obtain ⟨m, rfl⟩ := h
  simp [Nat.testBit_two_pow_mul, hk]

theorem testBit_place_add {i x : Nat} (h : 2 ^ (i + 1) ∣ x) (c : Bool) (k : Nat) :
    ((if c then 2 ^ i else 0) + x).testBit k = if k = i then c else x.testBit k := by
  obtain ⟨m, rfl⟩ := h
  have e : (if c then 2 ^ i else 0) + 2 ^ (i + 1) * m = 2 ^ i * Nat.bit c m := by
    cases c <;> simp [Nat.bit_val, pow_succ] <;> ring
  rw [e, Nat.testBit_two_pow_mul, Nat.testBit_two_pow_mul]
  rcases lt_trichotomy k i with hk | rfl | hk
  · simp [hk.ne, Nat.not_le.mpr hk, show ¬ i + 1 ≤ k by omega]
  · simp
  · obtain ⟨j, rfl⟩ := Nat.exists_eq_add_of_lt hk
    rw [show i + j + 1 - i = j + 1 by omega, Nat.testBit_bit_succ, show i + j + 1 - (i + 1) = j by omega]
    simp [show i ≤ i + j + 1 by omega, show i + 1 ≤ i + j + 1 by omega]
    omega

theorem place_dvd {i x : Nat} (c : Bool) (h : 2 ^ (i + 1) ∣ x) : 2 ^ i ∣ (if c then 2 ^ i else 0) + x :=
  dvd_add (by cases c <;> simp) ((pow_dvd_pow 2 (Nat.le_succ i)).trans h)

theorem bextFrom_dvd (a b : W64) (i j n : Nat) : 2 ^ j ∣ bextFrom a b i j n := by
  induction n generalizing i j with
  | zero => exact dvd_zero _
  | succ n ih =>
    rw [bextFrom]
    split
    · exact place_dvd _ (ih _ _)
    · exact ih _ _

theorem bdepFrom_dvd (a b : W64) (i j n : Nat) : 2 ^ i ∣ bdepFrom a b i j n := by
  induction n generalizing i j with
  | zero => exact dvd_zero _
  | succ n ih =>
    rw [bdepFrom]
    split
    · exact place_dvd _ (ih _ _)
    · exact (pow_dvd_pow 2 (Nat.le_succ i)).trans (ih _ _)

/-- Result bit j + k of `bext` is a's bit at the k-th set position of b, counted from position i. -/
theorem bextFrom_bit (a b : W64) (i j n k : Nat) : (bextFrom a b i j n).testBit (j + k) =
    ((List.range' i n).filter fun p => b.getLsbD p)[k]?.elim false a.getLsbD := by
  induction n generalizing i j k with
  | zero => simp [bextFrom]
  | succ n ih =>
    rw [bextFrom, List.range'_succ, List.filter_cons]
    split
    · rw [testBit_place_add (bextFrom_dvd _ _ _ _ _)]
      cases k with
      | zero => simp
      | succ k =>
        rw [if_neg (by omega), show j + (k + 1) = j + 1 + k by omega, ih, List.getElem?_cons_succ]
    · exact ih _ _ _

/-- Result bit i + k of `bdep`, where b is set, is the bit of a that comes after those for the set positions of b from i on. -/
theorem bdepFrom_bit (a b : W64) {i j n k : Nat} (hk : k < n) : (bdepFrom a b i j n).testBit (i + k) =
    (b.getLsbD (i + k) && a.getLsbD (j + ((List.range' i k).filter fun p => b.getLsbD p).length)) := by
  induction n generalizing i j k with
  | zero => omega
  | succ n ih =>
    rw [bdepFrom]
    split
    · next hb =>
      rw [testBit_place_add (bdepFrom_dvd _ _ _ _ _)]
      cases k with
      | zero => simp [hb]
      | succ k =>
        rw [if_neg (by omega), show i + (k + 1) = i + 1 + k by omega, ih (by omega), List.range'_succ,
          List.filter_cons_of_pos hb, List.length_cons, Nat.add_right_comm j, Nat.add_assoc j]
    · next hb =>
      cases k with
      | zero => rw [testBit_below (bdepFrom_dvd _ _ _ _ _) (by omega)]; simp [hb]
      | succ k =>
        rw [show i + (k + 1) = i + 1 + k by omega, ih (by omega), List.range'_succ, List.filter_cons_of_neg hb]

theorem bext_bit (a b : W64) {j : Nat} (hj : j < 64) : (BitVec.ofNat 64 (bextFrom a b 0 0 64)).getLsbD j =
    ((List.range 64).filter fun i => b.getLsbD i)[j]?.elim false a.getLsbD := by
  have h := bextFrom_bit a b 0 0 64 j
  rw [Nat.zero_add] at h
  rw [BitVec.getLsbD_ofNat, h, List.range_eq_range', decide_eq_true hj, Bool.true_and]

theorem bdep_bit (a b : W64) {i : Nat} (hi : i < 64) : (BitVec.ofNat 64 (bdepFrom a b 0 0 64)).getLsbD i =
    (b.getLsbD i && a.getLsbD ((List.range i).filter fun k => b.getLsbD k).length) := by
  have h := bdepFrom_bit a b (i := 0) (j := 0) hi
  rw [Nat.zero_add, Nat.zero_add] at h
  rw [BitVec.getLsbD_ofNat, h, List.range_eq_range', decide_eq_true hi, Bool.true_and]

/-! The instructions complete with these values. -/

theorem now_clz : Now .clz .unaryS fun g x => .s g.d (clz64 (x.s g.a)) := Now.alu exec_clz fun _ _ => rfl

theorem now_ctz : Now .ctz .unaryS fun g x => .s g.d (ctz64 (x.s g.a)) := Now.alu exec_ctz fun _ _ => rfl

theorem now_popc : Now .popc .unaryS fun g x =>
    .s g.d (BitVec.ofNat 64 ((List.range 64).filter fun i => (x.s g.a).getLsbD i).length) :=
  Now.alu exec_popc fun g x => by rw [popCount_spec, Ctx.sa_eq]

theorem now_brev : Now .brev .unaryS fun g x => .s g.d (brev64 (x.s g.a)) := Now.alu exec_brev fun _ _ => rfl

theorem now_bext : Now .bext .sss fun g x => .s g.d (BitVec.ofNat 64 (bextFrom (x.s g.a) (x.s g.b) 0 0 64)) :=
  Now.alu exec_bext fun _ _ => rfl

theorem now_bdep : Now .bdep .sss fun g x => .s g.d (BitVec.ofNat 64 (bdepFrom (x.s g.a) (x.s g.b) 0 0 64)) :=
  Now.alu exec_bdep fun _ _ => rfl

/-! R49's example. -/

theorem bext_example : BitVec.ofNat 64 (bextFrom 0xB6 0xF0 0 0 64) = (0xB : W64) := by decide

theorem bdep_example : BitVec.ofNat 64 (bdepFrom 0xB6 0xF0 0 0 64) = (0x60 : W64) := by decide

/-- Settles O2: each instruction completes by its arm, and its result has the bits that the lemmas above give. -/
theorem scalarBits : Obligations.ScalarBits := by
  refine ⟨by decide +kernel, ⟨⟨false, 0, false, false, 7, 0x3F, 0x3B⟩, by decide +kernel, rfl, by decide⟩, by decide +kernel,
    fun g s => ⟨fun w ha hb => ⟨?_, ?_⟩, fun w => ?_, fun w => ?_, now_popc g s, fun w => ?_, fun w => ?_, fun w => ?_⟩⟩
  · simp only [now_bext g s w, ha, hb, bext_example]
  · simp only [now_bdep g s w, ha, hb, bdep_example]
  · obtain ⟨n, hn, e, hz, ho⟩ := clz_spec (s.me.s g.a)
    exact ⟨n, hn, by simp only [now_clz g s w, e], hz, ho⟩
  · obtain ⟨n, hn, e, hz, ho⟩ := ctz_spec (s.me.s g.a)
    exact ⟨n, hn, by simp only [now_ctz g s w, e], hz, ho⟩
  · exact ⟨_, now_brev g s w, fun i hi => brev64_bit _ hi⟩
  · exact ⟨_, now_bext g s w, fun j hj => bext_bit _ _ hj⟩
  · exact ⟨_, now_bdep g s w, fun i hi => bdep_bit _ _ hi⟩

end Sys2Proof.Machine
end

section
/-! Division (R48): the model's quotients and remainders. -/

namespace Sys2Proof.Machine

/-- Outside divisor 0 the model's signed quotient is the library's. -/
theorem quotS_eq {a b : W64} (h : b ≠ 0) : quotS a b = a.sdiv b := by
  apply BitVec.eq_of_toInt_eq
  rw [quotS, if_neg h, BitVec.toInt_ofInt, BitVec.toInt_sdiv]

/-- The signed remainder is the library's for every divisor. -/
theorem remS_eq (a b : W64) : remS a b = a.srem b := by
  unfold remS
  split
  · next h => rw [h]; exact BitVec.srem_zero.symm
  · rw [← BitVec.toInt_srem, BitVec.ofInt_toInt]

/-- The one dividend that overflows (R48). -/
theorem toInt_eq_min {a : W64} : a.toInt = -2 ^ 63 ↔ a = BitVec.intMin 64 := by
  rw [← BitVec.toInt_inj, BitVec.toInt_intMin]
  rfl

theorem signedDivision_quotS_remS (a b : W64) : SignedDivision a b (quotS a b) (remS a b) := by
  unfold SignedDivision
  split
  · next h => rw [quotS, remS, if_pos h, if_pos h]; exact ⟨rfl, rfl⟩
  next hb =>
  rw [quotS_eq hb, remS_eq]
  split
  · next h =>
    obtain ⟨ha, rfl⟩ := h
    rw [toInt_eq_min] at ha
    subst ha
    decide
  · next h =>
    have hq : (a.sdiv b).toInt = a.toInt.tdiv b.toInt := BitVec.toInt_sdiv_of_ne_or_ne a b (by
      rw [toInt_eq_min] at h
      exact not_and_or.mp h)
    exact ⟨hq, by rw [hq, BitVec.toInt_srem, Int.tmod_def, Int.mul_comm]⟩

theorem unsignedDivision_quotU_remU (a b : W64) : UnsignedDivision a b (quotU a b) (remU a b) := by
  unfold UnsignedDivision quotU remU
  split
  · exact ⟨rfl, rfl⟩
  · have hq : a.toNat / b.toNat < 2 ^ 64 := lt_of_le_of_lt (Nat.div_le_self _ _) a.isLt
    have hr : a.toNat % b.toNat < 2 ^ 64 := lt_of_le_of_lt (Nat.mod_le _ _) a.isLt
    rw [BitVec.toNat_ofNat, BitVec.toNat_ofNat, Nat.mod_eq_of_lt hq, Nat.mod_eq_of_lt hr]
    exact ⟨rfl, eq_sub_of_add_eq (mod_cast Nat.mod_add_div' _ _)⟩

/-- Outside divisor 0 and the overflow the signed remainder is that of truncated division. -/
theorem signedDivision_toInt_rem {a b q r : W64} (h : SignedDivision a b q r) (hb : b ≠ 0)
    (ho : ¬ (a.toInt = -2 ^ 63 ∧ b = -1)) : r.toInt = a.toInt.tmod b.toInt := by
  obtain ⟨hq, hr⟩ := (if_neg ho).mp ((if_neg hb).mp h)
  rw [hr, hq, Int.tmod_def, Int.mul_comm]

/-- A remainder of R48 that is not 0 has the dividend's sign. -/
theorem signedDivision_rem_sign {a b q r : W64} (h : SignedDivision a b q r) : r = 0 ∨ (r.toInt < 0 ↔ a.toInt < 0) := by
  by_cases hb : b = 0
  · obtain ⟨_, rfl⟩ := (if_pos hb).mp h
    exact .inr Iff.rfl
  by_cases ho : a.toInt = -2 ^ 63 ∧ b = -1
  · obtain ⟨_, hr⟩ := (if_pos ho).mp ((if_neg hb).mp h)
    exact .inl hr
  have hs := Int.sign_tmod a.toInt b.toInt
  rw [← signedDivision_toInt_rem h hb ho] at hs
  split at hs
  · exact .inl (BitVec.eq_of_toInt_eq (Int.sign_eq_zero_iff_zero.mp hs))
  · exact .inr (by rw [← Int.sign_eq_neg_one_iff_neg, hs, Int.sign_eq_neg_one_iff_neg])

/-- Settles O3: the model's quotients and remainders are R48's in each of its cases, and the arm of each form is a result of
latency 20. -/
theorem division : Obligations.Division := by
  refine ⟨fun _ _ _ _ => signedDivision_rem_sign, fun q r h => BitVec.eq_of_toInt_eq (signedDivision_toInt_rem h (by decide) (by decide)), fun g s w =>
    ⟨⟨_, _, signedDivision_quotS_remS _ _, ?_, ?_⟩, ⟨_, _, unsignedDivision_quotU_remU _ _, ?_, ?_⟩⟩⟩
  · exact Later.alu (by decide) exec_div (fun _ _ => rfl) g s w
  · exact Later.alu (by decide) exec_rem (fun _ _ => rfl) g s w
  · exact Later.alu (by decide) exec_divn (fun _ _ => rfl) g s w
  · exact Later.alu (by decide) exec_remn (fun _ _ => rfl) g s w

end Sys2Proof.Machine
end

section
/-! Compares and predicate logic: what the words of slots 1 and 7 decode to, and R50's truth values. -/

namespace Sys2Proof.Machine

/-- A word that is an instruction of a slot map obeys its field rules (R42). -/
theorem decodeWord_wf {m : SlotMap} {w imm : SlotWord} {i : Instr} (e : decodeWord m w imm = i) (hm : mapOf i ≠ .any) :
    i.wf = true := by
  have hwf : wfIn m i = true := by
    unfold decodeWord at e
    split at e
    · exact absurd (congrArg mapOf e.symm) hm
    · split at e
      · rwa [← e]
      · exact absurd (congrArg mapOf e.symm) hm
  unfold wfIn at hwf
  split at hwf
  · exact absurd rfl hm
  · exact hwf

/-- The words of an instruction of slots 1 and 7 obey the field rules of a shape. -/
def Shaped (i : G → Instr) (h : Shape) : Prop := ∀ g, mapOf (i g) = .s ∧ (i g).wf = h.ok g

theorem Shaped.ok {i : G → Instr} {h : Shape} (hs : Shaped i h) {m : SlotMap} {w imm : SlotWord} {g : G}
    (e : decodeWord m w imm = i g) : h.ok g = true := by
  obtain ⟨hm, hwf⟩ := hs g
  rw [← hwf]
  exact decodeWord_wf e (by simp [hm])

theorem Shape.ok_iff (h : Shape) (g : G) : h.ok g = true ↔ h.guard.ok g.n g.p = true ∧ h.d.ok g.d = true ∧ h.a.ok g.a = true ∧
    h.b.ok g.b = true ∧ (g.ea = true → h.ea = true) ∧ (g.eb = true → h.eb = true) := by
  simp only [Shape.ok, Bool.and_eq_true, Bool.or_eq_true, Bool.not_eq_true', and_assoc, ← Bool.not_eq_true, or_iff_not_imp_right, not_not]

/-- A D that holds a predicate names one of p0 to p7 (R18). -/
theorem Shaped.d_lt {i : G → Instr} {h : Shape} (hs : Shaped i h) (hd : h.d = .p) (w imm : SlotWord) (g : G)
    (e : decodeWord .s w imm = i g) : g.d.toNat < 8 := by
  obtain ⟨_, hok, _⟩ := (h.ok_iff g).mp (hs.ok e)
  rw [hd] at hok
  exact of_decide_eq_true hok

/-- A write to p0 leaves the context as it was (R18). -/
@[simp] theorem Ctx.write_p0 (x : Ctx) (b : Bool) : x.write (.p 0 b) = x := rfl

/-- The context after a bundle with a one-cycle result. -/
theorem State.now_me (s : State) (v : RVal) : (s.now v).me = s.onward.me.write v := State.ctx_modCtx _ _ _

/-- The sign-extended immediate has the value of its field (R47). -/
theorem G.toInt_simm (g : G) : g.simm.toInt = g.b.toInt := BitVec.toInt_signExtend_of_le (by decide)

/-- Settles O4: the shapes of the twelve instructions bound D, and each completes by its arm with R50's truth value. -/
theorem predicates : Obligations.Predicates := by
  refine ⟨?_, ?_, by decide +kernel, fun s b => by rw [State.now_me, Ctx.write_p0], Now.test exec_cmpEq fun _ _ => rfl,
    Now.test exec_cmpNe fun _ _ => (decide_not).symm, Now.test exec_cmpLt fun _ _ => rfl, Now.test exec_cmpLe fun _ _ => rfl,
    Now.test exec_cmpLtn fun _ _ => rfl, Now.test exec_cmpLen fun _ _ => rfl, Now.test exec_cmpiEq fun g x => ?_,
    Now.test exec_cmpiLt fun g x => ?_, Now.test exec_pand fun _ _ => rfl, Now.test exec_por fun _ _ => rfl,
    Now.test exec_pxor fun _ _ => rfl, Now.test exec_pnot fun _ _ => rfl⟩
  · have cmp {i} (hs : Shaped i .pss) := hs.d_lt rfl
    have cmpi {i} (hs : Shaped i .psImm) := hs.d_lt rfl
    have logic {i} (hs : Shaped i .ppp) := hs.d_lt rfl
    have pnot {i} (hs : Shaped i .pp) := hs.d_lt rfl
    simp only [List.forall_mem_cons]
    exact ⟨cmp fun _ => ⟨rfl, rfl⟩, cmp fun _ => ⟨rfl, rfl⟩, cmp fun _ => ⟨rfl, rfl⟩, cmp fun _ => ⟨rfl, rfl⟩,
      cmp fun _ => ⟨rfl, rfl⟩, cmp fun _ => ⟨rfl, rfl⟩, cmpi fun _ => ⟨rfl, rfl⟩, cmpi fun _ => ⟨rfl, rfl⟩,
      logic fun _ => ⟨rfl, rfl⟩, logic fun _ => ⟨rfl, rfl⟩, logic fun _ => ⟨rfl, rfl⟩, pnot fun _ => ⟨rfl, rfl⟩, by simp⟩
  · intro w imm g e
    have hs : Shaped .pnot .pp := fun _ => ⟨rfl, rfl⟩
    obtain ⟨_, _, _, hb, _, heb⟩ := (Shape.ok_iff _ g).mp (hs.ok e)
    exact ⟨eq_of_beq hb, by simpa [Shape.pp] using heb⟩
  · rw [Ctx.sa_eq, ← G.toInt_simm]
    exact decide_eq_decide.mpr BitVec.toInt_inj.symm
  · rw [Ctx.sa_eq, ← G.toInt_simm]
    rfl

end Sys2Proof.Machine
end

section
/-! The state tests (R87): the bits of their results, the checks of the range they name, and the two instructions. -/

namespace Sys2Proof.Machine

/-- The sum that a state test collects is a number given bit by bit. -/
theorem foldl_setBits (f : Nat → Bool) (n : Nat) : (List.range n).foldl (fun acc i => if f i then acc + 2 ^ i else acc) 0 =
    lanesNat 1 (fun i => BitVec.ofBool (f i)) n := by
  induction n with
  | zero => rfl
  | succ n ih =>
    rw [List.range_succ, List.foldl_append, ih, lanesNat]
    cases h : f n <;> simp [h]

theorem foldl_setBits_bit (f : Nat → Bool) {j : Nat} (hj : j < 64) :
    (BitVec.ofNat 64 ((List.range 64).foldl (fun acc i => if f i then acc + 2 ^ i else acc) 0)).getLsbD j = f j := by
  have h := lanesNat_lane 1 (fun i => BitVec.ofBool (f i)) hj
  rw [Nat.one_mul, Nat.pow_one] at h
  rw [foldl_setBits, BitVec.getLsbD_ofNat, Nat.testBit_eq_decide_div_mod_eq, h]
  cases f j <;> simp [hj]

theorem Core.vacancy_bit (k : Core) (a : Nat) {j : Nat} (hj : j < 64) :
    (k.vacancy a).getLsbD j = (!k.mem.has (a + 2 * j) || k.pending (a + 2 * j)) :=
  foldl_setBits_bit (fun i => !k.mem.has (a + 2 * i) || k.pending (a + 2 * i)) hj

theorem Core.poisonBits_bit (k : Core) (a : Nat) {j : Nat} (hj : j < 64) :
    (k.poisonBits a).getLsbD j = k.mem.poisoned (a + 32 * j) :=
  foldl_setBits_bit (fun i => k.mem.poisoned (a + 32 * i)) hj

/-! Steps 1 to 3 of R76, a case each. -/

theorem addrChecks_misaligned (x : Ctx) {align a : Nat} (len : Nat) (h : a % align ≠ 0) :
    addrChecks x align a len = some (trap 0x05) := if_pos h

theorem addrChecks_outOfRange (x : Ctx) {align a len : Nat} (h : a % align = 0) (hr : 0x800000 < a + len ∨ x.ownsRange a len = false) :
    addrChecks x align a len = some (trap 0x06) := by
  rw [addrChecks, if_neg (not_not.mpr h)]
  split
  · rfl
  · next hb => rw [hr.resolve_left hb]; rfl

theorem addrChecks_passes (x : Ctx) {align a len : Nat} (h : a % align = 0) (hb : a + len ≤ 0x800000) (ho : x.ownsRange a len = true) :
    addrChecks x align a len = none := by
  rw [addrChecks, if_neg (not_not.mpr h), if_neg (Nat.not_lt.mpr hb), ho]
  rfl

/-- A fault that found no uncorrectable word leaves nothing to report. -/
theorem State.fails_nothingFound (s : State) (k : Nat) (word : SlotWord) {f : SlotFault} (h : f.found = []) :
    s.fails k word f = s.trapped k word f := by
  rw [State.fails, h, State.coreFound_nil, State.trapped]

section
variable {op : BitVec 8} {g : G} {n : Nat} {bits : Core → Nat → W64} {u s : State}
  (hs : u.reached .unaryS g .load (fun x => [((x.s g.a).toNat, n)]) = s) (w : Runs .unaryS g s) (ha : s.acqOut s.cur = false)
include hs w ha

/-- A state test whose range fails a check. -/
theorem test4_traps {code : BitVec 8} (hc : addrChecks s.me n (s.me.s g.a).toNat n = some (trap code)) :
    u.test4 op g n bits = .next (s.trapped 4 (State.slotOp.wordOf op g) (trap code)) := by
  rw [← State.fails_nothingFound s 4 _ rfl]
  exact slot4_traps hs w ha (by simp only [Ctx.sa_eq, hc])

/-- A state test whose range passes: its one effect is the result. -/
theorem test4_later (hc : addrChecks s.me n (s.me.s g.a).toNat n = none) :
    u.test4 op g n bits = .next (s.later 5 (.s g.d (bits (s.core s.cur.core) (s.me.s g.a).toNat)) 0) := by
  rw [← State.commit_launch]
  exact slot4_runs hs w ha (by simp only [Ctx.sa_eq, hc])

end

/-- An instruction that is a state test completes with the bits it tests, or traps by the first check that its range fails. -/
theorem test4_laws {i : G → Instr} {op : BitVec 8} {n : Nat} {bits : Core → Nat → W64} {bit : Core → Nat → Nat → Bool}
    (hi : ∀ g s, exec (i g) s = s.test4 op g n bits) (hb : ∀ k a j, j < 64 → (bits k a).getLsbD j = bit k a j) (g : G) {u s : State}
    (hs : u.reached .unaryS g .load (fun x => [((x.s g.a).toNat, n)]) = s) (w : Runs .unaryS g s) (ha : s.acqOut s.cur = false) :
    let a := (s.me.s g.a).toNat
    (a % n ≠ 0 → exec (i g) u = .next (s.trapped 4 (State.slotOp.wordOf op g) (trap 0x05))) ∧
    (a % n = 0 → (0x800000 < a + n ∨ s.me.ownsRange a n = false) →
      exec (i g) u = .next (s.trapped 4 (State.slotOp.wordOf op g) (trap 0x06))) ∧
    (a % n = 0 → a + n ≤ 0x800000 → s.me.ownsRange a n = true →
      ∃ v : W64, exec (i g) u = .next (s.later 5 (.s g.d v) 0) ∧ ∀ j < 64, v.getLsbD j = bit (s.core s.cur.core) a j) := by
  intro a
  rw [hi]
  exact ⟨fun h => test4_traps hs w ha (addrChecks_misaligned _ _ h), fun h hr => test4_traps hs w ha (addrChecks_outOfRange _ h hr),
    fun h hr ho => ⟨_, test4_later hs w ha (addrChecks_passes _ h hr ho), hb _ _⟩⟩

/-- The field rules of the shape of a state test leave B unused (R18). -/
theorem Shape.unaryS_b {g : G} (h : Shape.unaryS.ok g = true) : g.b = 0 := by
  obtain ⟨_, _, _, hb, _⟩ := (Shape.ok_iff _ g).mp h
  exact eq_of_beq hb

/-- Settles O25: each test is an instance of the laws of the shared form, by the bits of its result. -/
theorem stateTests : Obligations.StateTests :=
  ⟨fun g => ⟨fun h => ⟨Shape.unaryS_b h, opcode_packG 0x25 g⟩, fun h => ⟨Shape.unaryS_b h, opcode_packG 0x38 g⟩⟩,
    fun g _ => test4_laws exec_vtst (fun k a _ => k.vacancy_bit a) g rfl,
    fun g _ => test4_laws exec_ptst (fun k a _ => k.poisonBits_bit a) g rfl⟩

end Sys2Proof.Machine
end

section
/-! Decoding what the encoder writes (R15 to R22, R42): the opcode names the constructor, and the fields come back. -/

namespace Sys2Proof

open Machine (SlotMap mapOf fieldsOf)

/-- A word under an opcode other than 0 is not 0. -/
theorem ne_zero_of_opcode {w : SlotWord} {op : BitVec 8} (h : w.extractLsb' 20 8 = op) (hop : op ≠ 0) : w ≠ 0 := by
  rintro rfl
  exact hop (h.symm.trans (by decide))

/-- A word that names an instruction of a map under its field rules decodes to it. -/
theorem decodeWord_of_raw {m : SlotMap} {w imm : SlotWord} {i : Instr} (hw : w ≠ 0) (hr : rawDecode m w imm = i)
    (hwf : wfIn m i = true) : decodeWord m w imm = i := by
  rw [decodeWord, if_neg hw, hr, if_pos hwf]

/-- Outside the extension opcodes the rules of a slot map are those of the instruction (R42). -/
theorem wfIn_eq {i : Instr} (h : ∀ op g, i ≠ .extensionOpcode op g) (m : SlotMap) : wfIn m i = i.wf := by
  unfold wfIn
  split
  · next op g => exact absurd rfl (h op g)
  · rfl

/-- A general opcode names its constructor, applied to the fields of the word. -/
theorem rawDecode_general {m : SlotMap} {w imm : SlotWord} {f : G → Instr} (hop : opcodeOf w < 0xE0)
    (hf : findOp (generalMap m) (opcodeOf w) = some f) : rawDecode m w imm = f (unpackG w) := by
  unfold rawDecode
  rw [if_neg (by omega)]
  split
  all_goals first
    | (next h => rw [h] at hf; cases hf)
    | rw [hf]

/-! No list holds an opcode 0 or one of the extension range. -/

theorem findOp_lt {l : List (Nat × (G → Instr))} {n k : Nat} {f : G → Instr} (h : ∀ e ∈ l, 0 < e.1 ∧ e.1 < n) (hf : findOp l k = some f) :
    0 < k ∧ k < n := by
  induction l with
  | nil => cases hf
  | cons e l ih =>
    rw [findOp] at hf
    split at hf
    · next hk => rw [← hk]; exact h e (List.mem_cons_self ..)
    · exact ih (fun x hx => h x (List.mem_cons_of_mem _ hx)) hf

theorem generalMap_lt (m : SlotMap) : ∀ e ∈ generalMap m, 0 < e.1 ∧ e.1 < 0xE0 := by
  have h : ((generalMap m).all fun e => decide (0 < e.1 ∧ e.1 < 0xE0)) = true := by cases m <;> decide +kernel
  intro e he
  exact of_decide_eq_true (List.all_eq_true.mp h e he)

/-! Each map lists its instructions of the general form under their opcodes. -/

/-- A list names the constructor of an instruction under its opcode. -/
def Lists (l : List (Nat × (G → Instr))) (i : Instr) : Prop := ∃ f, findOp l (opOf i).toNat = some f ∧ f (fieldsOf i) = i

theorem lists_control {i : Instr} (h : mapOf i = .c) : Lists controlMap i ∨ (∃ j, i = .br j) ∨ (∃ j, i = .brl j) ∨ (∃ l, i = .lp l) ∨
    ∃ l, i = .lpi l := by
  cases i <;> cases h
  case br j => exact .inr (.inl ⟨j, rfl⟩)
  case brl j => exact .inr (.inr (.inl ⟨j, rfl⟩))
  case lp l => exact .inr (.inr (.inr (.inl ⟨l, rfl⟩)))
  case lpi l => exact .inr (.inr (.inr (.inr ⟨l, rfl⟩)))
  all_goals
    refine .inl ⟨_, ?_, rfl⟩
    dsimp only [opOf, BitVec.reduceToNat]
    rfl

theorem lists_scalar {i : Instr} (h : mapOf i = .s) : Lists scalarMap i ∨ (∃ g imm, i = .limm g imm) ∨ ∃ g imm, i = .limmh g imm := by
  cases i <;> cases h
  case limm g imm => exact .inr (.inl ⟨g, imm, rfl⟩)
  case limmh g imm => exact .inr (.inr ⟨g, imm, rfl⟩)
  all_goals
    refine .inl ⟨_, ?_, rfl⟩
    dsimp only [opOf, BitVec.reduceToNat]
    rfl

theorem lists_vector {i : Instr} (h : mapOf i = .v) : Lists vectorMap i := by
  cases i <;> cases h
  all_goals
    refine ⟨_, ?_, rfl⟩
    dsimp only [opOf, BitVec.reduceToNat]
    rfl

theorem lists_local {i : Instr} (h : mapOf i = .l) : Lists localMap i := by
  cases i <;> cases h
  all_goals
    refine ⟨_, ?_, rfl⟩
    dsimp only [opOf, BitVec.reduceToNat]
    rfl

theorem lists_atelier {i : Instr} (h : mapOf i = .n) : Lists atelierMap i := by
  cases i <;> cases h
  all_goals
    refine ⟨_, ?_, rfl⟩
    dsimp only [opOf, BitVec.reduceToNat]
    rfl

theorem lists_tile {i : Instr} (h : mapOf i = .t) : Lists tileMap i := by
  cases i <;> cases h
  all_goals
    refine ⟨_, ?_, rfl⟩
    dsimp only [opOf, BitVec.reduceToNat]
    rfl

theorem lists_easel {i : Instr} (h : mapOf i = .k) : Lists easelMap i := by
  cases i <;> cases h
  all_goals
    refine ⟨_, ?_, rfl⟩
    dsimp only [opOf, BitVec.reduceToNat]
    rfl

/-- An instruction that its map lists is encoded by its opcode and its fields. -/
theorem Lists.encode {i : Instr} {m : SlotMap} (h : Lists (generalMap m) i) (hm : mapOf i = m) :
    encode i = (packG (opOf i) (fieldsOf i), 0) := by
  obtain ⟨f, hf, hi⟩ := h
  have ho := findOp_lt (generalMap_lt m) hf
  subst hm
  unfold Sys2Proof.encode
  split
  case h_10 =>
    split
    · next he => rw [he] at hf; cases hf
    · rfl
  all_goals cases hf

/-- An instruction that its map lists comes back from its word. -/
theorem Lists.decode {i : Instr} {m : SlotMap} (h : Lists (generalMap m) i) (hm : mapOf i = m) (hwf : i.wf = true) :
    decodeWord m (Sys2Proof.encode i).1 (Sys2Proof.encode i).2 = i := by
  rw [h.encode hm]
  obtain ⟨f, hf, hi⟩ := h
  have ho := opcode_packG (opOf i) (fieldsOf i)
  obtain ⟨hz, hlt⟩ := findOp_lt (generalMap_lt m) hf
  refine decodeWord_of_raw (ne_zero_of_opcode ho (by rintro hz'; simp [hz'] at hz)) ?_ ?_
  · rw [rawDecode_general (f := f), unpackG_packG, hi]
    · rwa [opcodeOf, ho]
    · rwa [opcodeOf, ho]
  · rw [wfIn_eq, hwf]
    rintro op g rfl
    subst hm
    cases hf

/-! The opcodes of forms J and LP (R19, R20) and of the long immediates (R22). -/

theorem rawDecode_br {w imm : SlotWord} (h : w.extractLsb' 20 8 = 0x01) : rawDecode .c w imm = .br (unpackJ w) := by
  simp [rawDecode, opcodeOf, h]

theorem rawDecode_brl {w imm : SlotWord} (h : w.extractLsb' 20 8 = 0x02) : rawDecode .c w imm = .brl (unpackJ w) := by
  simp [rawDecode, opcodeOf, h]

theorem rawDecode_lp {w imm : SlotWord} (h : w.extractLsb' 20 8 = 0x05) : rawDecode .c w imm = .lp (unpackLp w) := by
  simp [rawDecode, opcodeOf, h]

theorem rawDecode_lpi {w imm : SlotWord} (h : w.extractLsb' 20 8 = 0x06) : rawDecode .c w imm = .lpi (unpackLpi w) := by
  simp [rawDecode, opcodeOf, h]

theorem rawDecode_limm {w imm : SlotWord} (h : w.extractLsb' 20 8 = 0x36) : rawDecode .s w imm = .limm (unpackG w) imm := by
  simp [rawDecode, opcodeOf, h]

theorem rawDecode_limmh {w imm : SlotWord} (h : w.extractLsb' 20 8 = 0x37) : rawDecode .s w imm = .limmh (unpackG w) imm := by
  simp [rawDecode, opcodeOf, h]

/-- A word of its own form comes back by its opcode and its fields. -/
theorem decodeWord_form {m : SlotMap} {op : BitVec 8} {w imm : SlotWord} {i : Instr} (ho : w.extractLsb' 20 8 = op) (hz : op ≠ 0)
    (hr : rawDecode m w imm = i) (hx : ∀ op g, i ≠ .extensionOpcode op g) (hwf : i.wf = true) : decodeWord m w imm = i :=
  decodeWord_of_raw (ne_zero_of_opcode ho hz) hr (by rw [wfIn_eq hx, hwf])

/-- A well-formed instruction of a slot map is what the map reads from its word. -/
theorem decodeWord_encode {i : Instr} (hwf : i.wf = true) (ha : mapOf i ≠ .any) (he : mapOf i ≠ .ev) :
    decodeWord (mapOf i) (encode i).1 (encode i).2 = i := by
  cases hm : mapOf i with
  | any => exact absurd hm ha
  | ev => exact absurd hm he
  | c =>
    obtain h | ⟨j, rfl⟩ | ⟨j, rfl⟩ | ⟨l, rfl⟩ | ⟨l, rfl⟩ := lists_control hm
    · exact Lists.decode (m := .c) h hm hwf
    · have ho := opcode_packJ 0x01 j
      exact decodeWord_form ho (by decide) ((rawDecode_br ho).trans (congrArg _ (unpackJ_packJ ..))) (by simp) hwf
    · have ho := opcode_packJ 0x02 j
      exact decodeWord_form ho (by decide) ((rawDecode_brl ho).trans (congrArg _ (unpackJ_packJ ..))) (by simp) hwf
    · have ho := opcode_packLp 0x05 l
      exact decodeWord_form ho (by decide) ((rawDecode_lp ho).trans (congrArg _ (unpackLp_packLp ..))) (by simp) hwf
    · have ho := opcode_packLpi 0x06 l
      exact decodeWord_form ho (by decide) ((rawDecode_lpi ho).trans (congrArg _ (unpackLpi_packLpi ..))) (by simp) hwf
  | s =>
    obtain h | ⟨g, imm, rfl⟩ | ⟨g, imm, rfl⟩ := lists_scalar hm
    · exact Lists.decode (m := .s) h hm hwf
    · have ho := opcode_packG 0x36 g
      exact decodeWord_form ho (by decide) ((rawDecode_limm ho).trans (by rw [unpackG_packG]; rfl)) (by simp) hwf
    · have ho := opcode_packG 0x37 g
      exact decodeWord_form ho (by decide) ((rawDecode_limmh ho).trans (by rw [unpackG_packG]; rfl)) (by simp) hwf
  | v => exact Lists.decode (m := .v) (lists_vector hm) hm hwf
  | l => exact Lists.decode (m := .l) (lists_local hm) hm hwf
  | n => exact Lists.decode (m := .n) (lists_atelier hm) hm hwf
  | t => exact Lists.decode (m := .t) (lists_tile hm) hm hwf
  | k => exact Lists.decode (m := .k) (lists_easel hm) hm hwf

theorem low5_extension (op : BitVec 5) : (7#3 ++ op).extractLsb' 0 5 = op := by
  refine bits_ext fun i hi => ?_
  rw [BitVec.getLsbD_extractLsb', BitVec.getLsbD_append]
  simp [hi]

theorem le_toNat_extension (op : BitVec 5) : 0xE0 ≤ (7#3 ++ op).toNat := by
  rw [BitVec.toNat_append, BitVec.toNat_ofNat, Nat.shiftLeft_eq]
  exact Nat.left_le_or

/-- An opcode of the extension range names an extension opcode in every map (R42, R45). -/
theorem rawDecode_extension (m : SlotMap) (op : BitVec 5) (g : G) (imm : SlotWord) :
    rawDecode m (packG (7#3 ++ op) g) imm = .extensionOpcode op g := by
  have ho := opcode_packG (7#3 ++ op) g
  have h5 : (packG (7#3 ++ op) g).extractLsb' 20 5 = op := by
    have e : (packG (7#3 ++ op) g).extractLsb' 20 5 = ((packG (7#3 ++ op) g).extractLsb' 20 8).extractLsb' 0 5 :=
      bits_ext fun i hi => by simp [hi, show i < 8 by omega]
    rw [e, ho, low5_extension]
  unfold rawDecode
  rw [opcodeOf, ho, if_pos (le_toNat_extension op), unpackG_packG, h5]

/-- A word decodes to `nop`, to an extension opcode, to an instruction under its field rules, or to no instruction (R42). -/
theorem decodeWord_cases (m : SlotMap) (w imm : SlotWord) : (∃ v, decodeWord m w imm = .illop v) ∨ (decodeWord m w imm).wf = true ∨
    ∃ op g, decodeWord m w imm = .extensionOpcode op g := by
  unfold decodeWord
  split
  · exact .inr (.inl rfl)
  · split
    · next h =>
      by_cases hx : ∃ op g, rawDecode m w imm = .extensionOpcode op g
      · exact .inr (.inr hx)
      · push Not at hx
        exact .inr (.inl (by rwa [wfIn_eq hx] at h))
    · exact .inl ⟨w, rfl⟩

/-- Settles O52: an instruction of the general form comes back through its map's list, those of the other forms and the extension
opcodes through their own fields. -/
theorem decodeEncode : Obligations.DecodeEncode := by
  refine ⟨fun i => decodeWord_encode, fun m op g imm hg => ?_, fun m imm => if_pos rfl, decodeWord_cases⟩
  refine decodeWord_of_raw (ne_zero_of_opcode (opcode_packG _ g) fun h => ?_) (rawDecode_extension m op g imm) ?_
  · have := le_toNat_extension op
    rw [h] at this
    exact absurd this (by decide)
  · obtain rfl | hg := hg
    · rfl
    · simp [wfIn, hg]

end Sys2Proof
end

section
/-! Scalar integer and move instructions (R47): the model's values are those of the table. -/

namespace Sys2Proof.Machine

/-- The high half of an unsigned product (R47). -/
theorem mulhn_eq (a b : W64) : BitVec.ofNat 64 (a.toNat * b.toNat / 2 ^ 64) =
    (a.zeroExtend 128 * b.zeroExtend 128).extractLsb' 64 64 := by
  apply BitVec.eq_of_toNat_eq
  have hp : a.toNat * b.toNat < 2 ^ 64 * 2 ^ 64 := Nat.mul_lt_mul'' a.isLt b.isLt
  simp only [BitVec.toNat_ofNat, BitVec.extractLsb'_toNat, BitVec.toNat_mul, BitVec.toNat_setWidth, Nat.shiftRight_eq_div_pow]
  rw [Nat.mod_eq_of_lt (show a.toNat < 2 ^ 128 by omega), Nat.mod_eq_of_lt (show b.toNat < 2 ^ 128 by omega),
    Nat.mod_eq_of_lt (show a.toNat * b.toNat < 2 ^ 128 by omega)]

/-- Settles O1: each instruction is a result of its arm, and the model's value is the table's. -/
theorem scalarInteger : Obligations.ScalarInteger :=
  ⟨Now.alu exec_add fun _ _ => rfl, Now.alu exec_sub fun _ _ => rfl, Now.alu exec_addi fun _ _ => rfl,
    Now.alu exec_min fun _ _ => min_signed _ _, Now.alu exec_max fun _ _ => max_signed _ _,
    Now.alu exec_minn fun _ _ => min_unsigned _ _, Now.alu exec_maxn fun _ _ => max_unsigned _ _,
    Now.alu exec_abs fun _ _ => abs_bits _, Now.alu exec_and fun _ _ => rfl, Now.alu exec_or fun _ _ => rfl,
    Now.alu exec_xor fun _ _ => rfl, Now.alu exec_andn fun _ _ => rfl, Now.alu exec_andi fun _ _ => rfl,
    Now.alu exec_ori fun _ _ => rfl, Now.alu exec_xori fun _ _ => rfl, Now.alu exec_shl fun _ _ => rfl,
    Now.alu exec_shr fun _ _ => rfl, Now.alu exec_sra fun _ _ => rfl, Now.alu exec_rotl fun _ _ => rfl,
    Now.alu exec_shli fun _ _ => rfl, Now.alu exec_shri fun _ _ => rfl, Now.alu exec_srai fun _ _ => rfl,
    Now.alu exec_mov fun _ _ => rfl, Now.alu exec_movi fun _ _ => rfl,
    fun imm => Now.alu (exec_limm · imm) fun _ _ => rfl, fun imm => Now.alu (exec_limmh · imm) fun _ _ => rfl,
    Now.alu exec_lea1 fun _ _ => congrArg _ (BitVec.mul_one _), Now.alu exec_lea2 fun _ _ => by rw [BitVec.mul_comm]; rfl,
    Now.alu exec_lea4 fun _ _ => by rw [BitVec.mul_comm]; rfl, Now.alu exec_lea8 fun _ _ => by rw [BitVec.mul_comm]; rfl,
    Later.alu (by decide) exec_mul fun _ _ => mul_eq _ _, Later.alu (by decide) exec_mulh fun _ _ => highHalf_eq _ _,
    Later.alu (by decide) exec_mulhn fun _ _ => mulhn_eq _ _⟩

end Sys2Proof.Machine
end

section
/-! Duplicate checks (R52, R123). -/

namespace Sys2Proof.Machine

/-- A slot word whose checks pass and that has no effect: the bundle is over. -/
theorem slotOp_onward {h : Shape} {g : G} {s : State} (w : Runs h g s) (m : SlotMap) (op : BitVec 8) (fixed : Bool)
    {body : Ctx → Res} (hb : body s.me = done []) : s.slotOp m op h g fixed body = .next s.onward := by
  rw [slotOp_runs w m op fixed hb, State.commit_nil]

/-- A scalar check completes where the values agree and raises CHKFAIL where they differ. -/
theorem check_laws {i : G → Instr} {h : Shape} {op : BitVec 8} {f : G → Ctx → Bool} (hi : ∀ g s, exec (i g) s = s.check op h g (f g))
    {g : G} {s : State} (w : Runs h g s) {p : Prop} [Decidable p] (hf : f g s.me = decide p) :
    exec (i g) s = .next (if p then s.onward else s.trapped 1 (State.slotOp.wordOf op g) (trap 0x0A)) := by
  rw [hi]
  by_cases hp : p
  · rw [if_pos hp]
    exact slotOp_onward w .s op false (by simp [hf, hp])
  · rw [if_neg hp]
    exact slotOp_traps w .s op false (by simp [hf, hp]) rfl

/-- The comparison of `vchk` runs over the governed halfwords. -/
theorem vchk_test (x : Ctx) (g : G) :
    ((List.range 128).all fun j => !maskBit (x.lanes g) 16 j || lane 16 (x.va g) j == lane 16 (x.vb g) j) = true ↔
      ∀ j < 128, x.governs g 16 j = true → lane 16 (x.v g.a) j = lane 16 (x.v g.b) j := by
  simp only [List.all_eq_true, List.mem_range, Bool.or_eq_true, Bool.not_eq_true', beq_iff_eq, Ctx.va_eq, Ctx.vb_eq]
  refine forall₂_congr fun j hj => ?_
  rw [Ctx.governs_lanes x g (by simp) hj, ← Bool.not_eq_true, or_iff_not_imp_left, not_not]

/-- Settles O5: the model's tests are the statement's, and each answer follows from the test. -/
theorem checks : Obligations.Checks := by
  refine fun g s => ⟨fun w => check_laws exec_chkEq w rfl, fun w => check_laws exec_chkP w (beq_eq_decide _ _), fun w => ⟨fun hs => ?_, fun hs => ?_⟩⟩
  · rw [exec_vchk, execVchk, slotOp_onward w _ _ _ (if_pos ((vchk_test s.me g).mpr hs))]
  · rw [exec_vchk, execVchk, slotOp_traps w _ _ _ (if_neg (mt (vchk_test s.me g).mp hs)) rfl]
    rfl

end Sys2Proof.Machine
end

section
/-! Scalar binary32 (R51) and the generator (R53, R122). -/

namespace Sys2Proof.Machine

/-- Settles O6: each instruction is a result of its arm with its flags. -/
theorem scalarFloat : Obligations.ScalarFloat :=
  ⟨Later.falu exec_faddF32, Later.falu exec_fsubF32, Later.falu exec_fmulF32, Later.falu exec_fmaF32, Later.falu exec_cvtF32I64,
    Later.ftest exec_fcmpLt, Later.ftest exec_fcmpEq, Later.fcvt exec_cvtI64F32, Later.fcvt exec_cvtI64F32Rz⟩

/-- Settles O7: with no bundle open no word has been drawn before, so the words are those from RNGCTR on. -/
theorem generator : Obligations.Generator := by
  refine fun g s => ⟨fun w => ?_, fun w => ⟨mergeLanes 16 (s.me.lanes g) (s.me.vd g) fun j => (rngWord s.me.spec.rngseed
    (coreIdReg s.cur.core) (s.me.spec.rngctr + BitVec.ofNat 64 (0 + j / 4))).extractLsb' (16 * (j % 4)) 16, ?_, fun j hj => ?_⟩⟩
  · rw [exec_rng, execRng, slotOp_runs w .s _ _ rfl, State.drawn_closed w.closed]
    exact congrArg _ (State.commit_launch ..)
  · rw [exec_vrng, execVrng, slotOp_runs w .v _ _ rfl, State.drawn_closed w.closed]
    exact congrArg _ (State.commit_launch ..)
  · rw [lane_mergeLanes (by simp) _ _ _ hj, Ctx.governs_lanes _ _ (by simp) hj, Nat.zero_add]
    rfl

end Sys2Proof.Machine
end

section
/-! Vector integer arithmetic, compares, moves and masks (R115 to R121). -/

namespace Sys2Proof.Machine

/-- Settles O8: lane by lane, with the arithmetic of each operation in its width. -/
theorem vectorInteger : Obligations.VectorInteger := by
  refine ⟨?_, ?_, ?_⟩
  · exact ⟨.two (by simp) exec_vadd fun _ _ => rfl, .two (by simp) exec_vsub fun _ _ => rfl, .two (by simp) exec_vmul mul_eq,
      .two (by simp) exec_vmulh highHalf_eq, .two (by simp) exec_vmin min_signed, .two (by simp) exec_vmax max_signed,
      .two (by simp) exec_vminN32 min_unsigned, .two (by simp) exec_vmaxN32 max_unsigned, .one (by simp) exec_vabs fun _ => abs_bits⟩
  · exact ⟨.two (by simp) exec_vaddH fun _ _ => rfl, .two (by simp) exec_vsubH fun _ _ => rfl, .two (by simp) exec_vmulH mul_eq,
      .two (by simp) exec_vmulhH highHalf_eq, .two (by simp) exec_vminH min_signed, .two (by simp) exec_vmaxH max_signed,
      .two (by simp) exec_vminN16 min_unsigned, .two (by simp) exec_vmaxN16 max_unsigned, .one (by simp) exec_vabsH fun _ => abs_bits⟩
  · exact ⟨.two (by simp) exec_vaddB fun _ _ => rfl, .two (by simp) exec_vsubB fun _ _ => rfl, .two (by simp) exec_vmulB mul_eq,
      .two (by simp) exec_vmulhB highHalf_eq, .two (by simp) exec_vminB min_signed, .two (by simp) exec_vmaxB max_signed,
      .two (by simp) exec_vminN8 min_unsigned, .two (by simp) exec_vmaxN8 max_unsigned, .one (by simp) exec_vabsB fun _ => abs_bits⟩

/-- A compare of two vectors in a width writes the bits of the statement. -/
theorem compares_of {i : G → Instr} {op : BitVec 8} {w : Nat} (hw : w = 8 ∨ w = 16 ∨ w = 32) {f : BitVec w → BitVec w → Bool}
    {c : BitVec w → BitVec w → Prop} (hi : ∀ g s, exec (i g) s = s.vcmp op .kvv g w f) (e : ∀ a b, f a b = true ↔ c a b) :
    Compares i w c := fun g s hr => by
  refine ⟨cmpMask w (s.me.lanes g) fun n => f (lane w (s.me.v g.a) n) (lane w (s.me.v g.b) n), ?_, fun j hj => ?_⟩
  · rw [hi, State.vcmp, slotOp_runs hr .v op true rfl, State.commit_launch]
    rfl
  · rw [cmpMask_bit _ _ hw _ hj]
    rcases hw with rfl | rfl | rfl <;> simp [e, and_assoc]

/-- Settles O9: the comparisons of the three widths, equal, signed and unsigned. -/
theorem vectorCompare : Obligations.VectorCompare := by
  have eq {w : Nat} (a b : BitVec w) : (a == b) = true ↔ a = b := beq_iff_eq
  have slt {w : Nat} (a b : BitVec w) : a.slt b = true ↔ a.toInt < b.toInt := decide_eq_true_iff
  have ult {w : Nat} (a b : BitVec w) : a.ult b = true ↔ a.toNat < b.toNat := decide_eq_true_iff
  exact ⟨compares_of (by simp) exec_vcmpEq eq, compares_of (by simp) exec_vcmpLt slt, compares_of (by simp) exec_vcmpLtN32 ult,
    compares_of (by simp) exec_vcmpEqH eq, compares_of (by simp) exec_vcmpLtH slt, compares_of (by simp) exec_vcmpLtN16 ult,
    compares_of (by simp) exec_vcmpEqB eq, compares_of (by simp) exec_vcmpLtB slt, compares_of (by simp) exec_vcmpLtN8 ult⟩

/-- The low bits of a register, cut out, are the register in the smaller width. -/
theorem extract_low {w : Nat} (a : W64) : a.extractLsb' 0 w = a.setWidth w := by
  ext i hi
  simp [BitVec.getElem_eq_testBit_toNat, hi]

/-- `vsel` keeps the second source where the mask is clear. -/
theorem vsel_lanes (g : G) (s : State) (w : Runs .vvv g s) : ∃ v : Vec, exec (.vsel g) s = .next (s.later 2 (.v g.d v) 0) ∧
    ∀ j < 128, lane 16 v j = if s.me.governs g 16 j then lane 16 (s.me.v g.a) j else lane 16 (s.me.v g.b) j := by
  refine ⟨mergeLanes 16 (s.me.lanes g) (s.me.vb g) (lane 16 (s.me.va g)), ?_, fun j hj => ?_⟩
  · rw [exec_vsel, execVsel, slotOp_runs w .v _ _ rfl, State.commit_launch]
  · rw [lane_mergeLanes (by simp) _ _ _ hj, Ctx.governs_lanes _ _ (by simp) hj]
    rfl

/-- `vext` reads one lane; past the last lane it raises RANGE. -/
theorem vextW_laws (g : G) (s : State) (w : Runs .plainSvs g s) : exec (.vextW g) s = .next
    (if (s.me.s g.b).toNat ≤ 63 then s.later 3 (.s g.d ((lane 32 (s.me.v g.a) (s.me.s g.b).toNat).signExtend 64)) 0
    else s.trapped 2 (State.slotOp.wordOf 0x98 g) (trap 0x06)) := by
  rw [exec_vextW, execVextW]
  split
  · rw [slotOp_runs w .v _ _ (if_neg (by simpa)), State.commit_launch]
    rfl
  · rw [slotOp_traps w .v _ _ (if_pos (by simpa using ‹¬ _ ≤ 63›)) rfl]
    rfl

/-- `vins` writes one lane where its mask bit is set; past the last lane it raises RANGE. -/
theorem vinsW_laws (g : G) (s : State) (w : Runs .vss g s) : if 63 < (s.me.s g.b).toNat
    then exec (.vinsW g) s = .next (s.trapped 2 (State.slotOp.wordOf 0x99 g) (trap 0x06))
    else ∃ v : Vec, exec (.vinsW g) s = .next (s.later 3 (.v g.d v) 0) ∧ ∀ i < 64, lane 32 v i =
      if i = (s.me.s g.b).toNat ∧ s.me.governs g 32 i = true then (s.me.s g.a).setWidth 32 else lane 32 (s.me.v g.d) i := by
  split
  · rw [exec_vinsW, execVinsW, slotOp_traps w .v _ _ (if_pos ‹_›) rfl]
    rfl
  · refine ⟨_, by rw [exec_vinsW, execVinsW, slotOp_runs w .v _ _ (if_neg ‹_›), State.commit_launch], fun j hj => ?_⟩
    rw [lane_mergeLanes (by simp) _ _ _ hj, Ctx.governs_lanes _ _ (by simp) hj, Ctx.sb_eq, Ctx.sa_eq, Ctx.vd_eq, extract_low]
    by_cases h1 : j = (s.me.s g.b).toNat <;> by_cases h2 : s.me.governs g 32 j = true <;> simp [h1, h2]

/-- Settles O10: the shared lane forms, then `vsel`, `vext` and `vins`. -/
theorem vectorMoves : Obligations.VectorMoves :=
  ⟨.two (by simp) exec_vand fun _ _ => rfl, .two (by simp) exec_vor fun _ _ => rfl, .two (by simp) exec_vxor fun _ _ => rfl,
    .one (by simp) exec_vnot fun _ _ => rfl, .two (by simp) exec_vshl fun _ _ => rfl, .two (by simp) exec_vshr fun _ _ => rfl,
    .two (by simp) exec_vsra fun _ _ => rfl, .one (by simp) exec_vshli fun _ _ => rfl, .one (by simp) exec_vshri fun _ _ => rfl,
    .one (by simp) exec_vsrai fun _ _ => rfl, .of (by simp) exec_vbcastW fun _ _ _ _ => extract_low _,
    .of (by simp) exec_vbcastH fun _ _ _ _ => extract_low _, .of (by simp) exec_vbcastB fun _ _ _ _ => extract_low _,
    .of (by simp) exec_vmov fun _ _ _ _ => rfl, .of (by simp) exec_viotaW fun _ _ _ _ => by rw [extract_low]; rfl,
    .of (by simp) exec_vpermW fun _ _ _ _ => rfl, .of (by simp) exec_vpermH fun _ _ _ _ => rfl,
    .of (by simp) exec_vrot fun _ _ _ _ => rfl, vsel_lanes, vextW_laws, vinsW_laws⟩

/-- Settles O11: each instruction is a result of its arm two cycles after issue. -/
theorem masks : Obligations.Masks :=
  ⟨.kop exec_kand fun _ _ => rfl, .kop exec_kor fun _ _ => rfl, .kop exec_kxor fun _ _ => rfl, .kop exec_knot fun _ _ => rfl,
    .kop exec_kpop fun _ _ => by rw [popCount_spec], .kop exec_kset fun _ _ => rfl,
    .kop exec_kget fun g _ => by split <;> rfl⟩

end Sys2Proof.Machine
end

section
/-! Vector floating point and conversions (R172 to R177). -/

namespace Sys2Proof.Machine

/-- A compare in a format writes the bits and flags of the governed lanes. -/
theorem vfcmp_laws {i : G → Instr} {op : BitVec 8} {F : Fmt} (hw : F.width = 16 ∨ F.width = 32) {f : Nat → Nat → Cmp}
    (hi : ∀ g s, exec (i g) s = s.vfcmp op .kvv g F f) (g : G) (s : State) (hr : Runs .kvv g s) :
    let c (n : Nat) : Cmp := f (num F.width (s.me.v g.a) n) (num F.width (s.me.v g.b) n)
    ∃ (m : KMask) (fl : Flags), exec (i g) s = .next (s.later 2 (.k g.pd m) fl) ∧
      (∀ j < 128, m.getLsbD j = true ↔ let n := if F.width = 32 then j / 2 else j
        s.me.governs g F.width n = true ∧ (c n).res = true) ∧
      ∀ b < 5, fl.getLsbD b = true ↔ ∃ n < 2048 / F.width, s.me.governs g F.width n = true ∧ (c n).flags.getLsbD b = true := by
  intro c
  refine ⟨cmpMask F.width (s.me.lanes g) fun n => (c n).res, laneFlags F.width (2048 / F.width) (s.me.lanes g) fun n => (c n).flags,
    ?_, fun j hj => ?_, fun b _ => ?_⟩
  · rw [hi, State.vfcmp, slotOp_runs hr .v op true rfl, State.commit_launch]
    rfl
  · rw [cmpMask_bit _ _ (.inr hw) _ hj]
    rcases hw with hw | hw <;> simp [hw]
  · rw [laneFlags_bit]
    exact exists_congr fun n => and_congr_right fun hn => by rw [Ctx.governs_lanes _ _ (.inr hw) hn]

/-- Settles O12: each row is a shared lane form in its format. -/
theorem vectorFloat : Obligations.VectorFloat := by
  refine ⟨?_, ?_, ?_⟩
  · exact ⟨.two (by decide) exec_vfadd, .two (by decide) exec_vfsub, .two (by decide) exec_vfmul, .three (by decide) exec_vfma,
      .three (by decide) exec_vfms, .two (by decide) exec_vfmin, .two (by decide) exec_vfmax,
      .one (by decide) exec_vfabs fun _ _ => rfl, .one (by decide) exec_vfneg fun _ _ => rfl,
      vfcmp_laws (by decide) exec_vfcmpEq, vfcmp_laws (by decide) exec_vfcmpLt, vfcmp_laws (by decide) exec_vfcmpLe⟩
  · exact ⟨.two (by decide) exec_vfaddF16, .two (by decide) exec_vfsubF16, .two (by decide) exec_vfmulF16, .three (by decide) exec_vfmaF16,
      .three (by decide) exec_vfmsF16, .two (by decide) exec_vfminF16, .two (by decide) exec_vfmaxF16,
      .one (by decide) exec_vfabsF16 fun _ _ => rfl, .one (by decide) exec_vfnegF16 fun _ _ => rfl,
      vfcmp_laws (by decide) exec_vfcmpEqF16, vfcmp_laws (by decide) exec_vfcmpLtF16, vfcmp_laws (by decide) exec_vfcmpLeF16⟩
  · exact ⟨.two (by decide) exec_vfaddBf16, .two (by decide) exec_vfsubBf16, .two (by decide) exec_vfmulBf16,
      .three (by decide) exec_vfmaBf16, .three (by decide) exec_vfmsBf16, .two (by decide) exec_vfminBf16,
      .two (by decide) exec_vfmaxBf16, .one (by decide) exec_vfabsBf16 fun _ _ => rfl, .one (by decide) exec_vfnegBf16 fun _ _ => rfl,
      vfcmp_laws (by decide) exec_vfcmpEqBf16, vfcmp_laws (by decide) exec_vfcmpLtBf16, vfcmp_laws (by decide) exec_vfcmpLeBf16⟩

/-- Settles O13: each conversion is a lane form with flags. -/
theorem vectorConversions : Obligations.VectorConversions :=
  ⟨.of (by simp) exec_vrcp, .of (by simp) exec_vrsqrt, .of (by simp) exec_vexp2, .of (by simp) exec_vlog2,
    .of (by simp) exec_vcvtF16F32, .of (by simp) exec_vcvtBf16F32, .of (by simp) exec_vcvtF32F16, .of (by simp) exec_vcvtF32Bf16,
    .of (by simp) exec_vcvtI32F32, .of (by simp) exec_vcvtI32F32Rz, .of (by simp) exec_vcvtF32I32, .of (by simp) exec_vsrBf16F32,
    .of (by simp) exec_vsrF16F32⟩

end Sys2Proof.Machine
end

section
/-! Reductions and scans (R182, R183), lane order (R162, R181). -/

namespace Sys2Proof.Machine

/-- A reduction writes the root of the pairwise tree, with the flags of the whole tree. -/
theorem reduces_of {i : G → Instr} {op : BitVec 8} {f : Nat → Nat → Lane} (hi : ∀ g s, exec (i g) s = s.vred op .unaryV g f) :
    Reduces i f := fun g s hr => by
  obtain ⟨hv, hf⟩ := treeFrom_spec f (s.me.v g.a) 0 6 0
  refine ⟨mergeLanes 32 (s.me.lanes g) (s.me.v g.d) fun _ => BitVec.ofNat 32 (treeValue f (s.me.v g.a) 6 0),
    (treeFrom f (lanes32 (s.me.v g.a)) 0 6).2, ?_, fun n hn => ?_, fun b _ => ?_⟩
  · have ht : (treeFrom f (lanes32 (s.me.v g.a)) 0 6).1 = [treeValue f (s.me.v g.a) 6 0] := hv
    rw [hi, State.vred, slotOp_runs hr .v op true (effs := [.launch (.v g.d (mergeLanes 32 (s.me.lanes g) (s.me.v g.d) fun _ =>
      BitVec.ofNat 32 (treeValue f (s.me.v g.a) 6 0))) (treeFrom f (lanes32 (s.me.v g.a)) 0 6).2 8]) (draws := 0), State.commit_launch]
    simp only [Ctx.va_eq, ht]
    rfl
  · rw [lane_mergeLanes (by simp) _ _ _ hn, Ctx.governs_lanes _ _ (by simp) hn]
  · exact (hf b).trans (by simp)

/-- A scan writes the doubling order's values, with the flags of every operation. -/
theorem scans_of {i : G → Instr} {op : BitVec 8} {f : Nat → Nat → Lane} (hi : ∀ g s, exec (i g) s = s.vscan op .unaryV g f) :
    Scans i f := fun g s hr => by
  obtain ⟨hv, hf⟩ := scanFrom_spec f (s.me.v g.a) 0 6 0 (by omega)
  refine ⟨mergeLanes 32 (s.me.lanes g) (s.me.v g.d) fun n =>
      BitVec.ofNat 32 (((List.range 64).map (scanValue f (s.me.v g.a) 6)).getD n 0),
    (scanFrom f (lanes32 (s.me.v g.a)) 0 1 6).2, ?_, fun n hn => ?_, fun b _ => ?_⟩
  · have ht : (scanFrom f (lanes32 (s.me.v g.a)) 0 1 6).1 = (List.range 64).map (scanValue f (s.me.v g.a) 6) := hv
    rw [hi, State.vscan, slotOp_runs hr .v op true (effs := [.launch (.v g.d (mergeLanes 32 (s.me.lanes g) (s.me.v g.d) fun n =>
      BitVec.ofNat 32 (((List.range 64).map (scanValue f (s.me.v g.a) 6)).getD n 0)))
      (scanFrom f (lanes32 (s.me.v g.a)) 0 1 6).2 8]) (draws := 0), State.commit_launch]
    simp only [Ctx.va_eq, ht]
    rfl
  · rw [lane_mergeLanes (by simp) _ _ _ hn, Ctx.governs_lanes _ _ (by simp) hn]
    simp [hn]
  · exact (hf b).trans (by simp)

/-- The signed maximum compares integer values. -/
theorem maxI32_eq : maxI32 = fun a b => ⟨if (BitVec.ofNat 32 a).toInt < (BitVec.ofNat 32 b).toInt then b else a, 0⟩ := by
  funext a b
  simp only [maxI32, BitVec.slt, decide_eq_true_eq]

/-- Settles O16: the tree and the doubling order of `treeFrom_spec` and `scanFrom_spec`. -/
theorem reductionsScans : Obligations.ReductionsScans :=
  ⟨reduces_of exec_vredAddF32, reduces_of exec_vredMaxF32, reduces_of exec_vredMinF32, reduces_of exec_vredAddI32, scans_of exec_vscanAddF32,
    maxI32_eq ▸ scans_of exec_vscanMaxI32, scans_of exec_vscanAddI32⟩

/-- A field that lies in the low n bits is the same after a cut to n bits. -/
theorem field_mod (x : Nat) {n p w : Nat} (h : p + w ≤ n) : x % 2 ^ n / 2 ^ p % 2 ^ w = x / 2 ^ p % 2 ^ w := by
  rw [show n = p + (n - p) by omega, pow_add, Nat.mod_mul_right_div_self, Nat.mod_mod_of_dvd _ (pow_dvd_pow 2 (by omega))]

/-- An element lies inside its block in either order. -/
theorem lanePos_le {w : Nat} (hw : w = 8 ∨ w = 6 ∨ w = 4) (t : Bool) {e : Nat} (he : e < 32) : lanePos w t e + w ≤ 32 * w := by
  rcases hw with rfl | rfl | rfl <;> cases t <;> simp only [lanePos, Bool.not_true, Bool.not_false, Bool.false_eq_true, if_true, if_false]
  any_goals omega
  split <;> omega

/-- Every element of the four blocks stands in the new register where the other order puts it. -/
theorem relaneVec_elem {w : Nat} (hw : w = 8 ∨ w = 6 ∨ w = 4) (t : Bool) (u : Vec) {b e : Nat} (hb : b < 4) (he : e < 32) :
    (relaneVec w t u).toNat / 2 ^ (32 * w * b + lanePos w t e) % 2 ^ w = u.toNat / 2 ^ (32 * w * b + lanePos w (!t) e) % 2 ^ w := by
  have hblock := (relaneVec_spec hw t u).1 b hb
  rw [pow_add, pow_add, ← Nat.div_div_eq_div_mul, ← Nat.div_div_eq_div_mul, ← field_mod _ (lanePos_le hw t he), hblock,
    relane_elem hw t _ he, field_mod _ (lanePos_le hw (!t) he)]

/-- The statement's place of an element is the model's. -/
theorem lanePos_eq {w : Nat} (hw : w = 8 ∨ w = 6 ∨ w = 4) (t : Bool) {e : Nat} (he : e < 32) :
    (if (!t || decide (w = 8)) = true then w * e else if w = 6 then 24 * (e % 8) + 6 * (e / 8) else 8 * (e % 16) + 4 * (e / 16)) =
      lanePos w t e := by
  rcases hw with rfl | rfl | rfl <;> cases t <;> simp [lanePos]
  split <;> omega

/-- The element width named by a code of `vlane`. -/
theorem laneWidth_eq (c : BitVec 6) : laneWidth c = if c.toNat = 0 then 8 else if c.toNat = 1 then 6 else 4 := by
  unfold laneWidth
  split <;> simp_all

/-- Settles O17: the blocks by `relaneVec_elem`, the bits above by `relaneVec_spec`. -/
theorem laneOrder : Obligations.LaneOrder := by
  intro g s hr _ w place moves
  have hw : w = 8 ∨ w = 6 ∨ w = 4 := by grind
  have hmoves (t : Bool) (u : Vec) : moves t (relaneVec w t u) u := by
    refine ⟨fun b hb e he => ?_, (relaneVec_spec hw t u).2⟩
    show _ / 2 ^ (32 * w * b + _) % _ = _ / 2 ^ (32 * w * b + _) % _
    rw [lanePos_eq hw t he, lanePos_eq hw (!t) he]
    exact relaneVec_elem hw t u hb he
  refine ⟨⟨_, ?_, hmoves true _⟩, ⟨_, ?_, hmoves false _⟩⟩
  · rw [exec_vlane, execVlane, slotOp_runs hr .v _ _ rfl, State.commit_launch, laneWidth_eq]
    rfl
  · rw [exec_vunlane, execVunlane, slotOp_runs hr .v _ _ rfl, State.commit_launch, laneWidth_eq]
    rfl

end Sys2Proof.Machine
end

section
/-! MX blocks (R168, R178 to R180). -/

namespace Sys2Proof.Machine

/-- The largest magnitude with one value more at the end. -/
theorem amaxTop_append (vs : List Val) (v : Val) : amaxTop (vs ++ [v]) = match v with
    | .fin _ m e => if m = 0 then amaxTop vs else match amaxTop vs with
      | none => some (topBit m e)
      | some t => some (max t (topBit m e))
    | _ => amaxTop vs := by
  unfold amaxTop
  rw [List.foldl_append, List.foldl_cons, List.foldl_nil] <;> cases v <;> rfl

/-- The top bits of the values that are not 0. -/
def topBits (vs : List Val) : Set Int := {t | ∃ n m e, .fin n m e ∈ vs ∧ m ≠ 0 ∧ topBit m e = t}

theorem topBits_append (vs : List Val) (v : Val) : topBits (vs ++ [v]) = match v with
    | .fin _ m e => if m = 0 then topBits vs else insert (topBit m e) (topBits vs)
    | _ => topBits vs := by
  ext t
  cases v with
  | nan b => simp [topBits]
  | inf b => simp [topBits]
  | fin n m e =>
    by_cases hm : m = 0
    · subst hm
      simp only [topBits, if_pos, List.mem_append, List.mem_singleton, Set.mem_ofPred_eq]
      constructor
      · rintro ⟨n', m', e', h | h, h'⟩
        · exact ⟨n', m', e', h, h'⟩
        · exact absurd (Val.fin.inj h).2.1 h'.1
      · rintro ⟨n', m', e', h, h'⟩
        exact ⟨n', m', e', .inl h, h'⟩
    · simp only [topBits, if_neg hm, List.mem_append, List.mem_singleton, Set.mem_ofPred_eq, Set.mem_insert_iff]
      constructor
      · rintro ⟨n', m', e', h | h, h'⟩
        · exact .inr ⟨n', m', e', h, h'⟩
        · obtain ⟨rfl, rfl, rfl⟩ := Val.fin.inj h
          exact .inl h'.2.symm
      · rintro (rfl | ⟨n', m', e', h, h'⟩)
        · exact ⟨n, m, e, .inr rfl, hm, rfl⟩
        · exact ⟨n', m', e', .inl h, h'⟩

/-- The model's largest magnitude is the greatest top bit; without one, every value is 0 (R168). -/
theorem amaxTop_spec (vs : List Val) : match amaxTop vs with | none => topBits vs = ∅ | some t => IsGreatest (topBits vs) t := by
  induction vs using List.reverseRecOn with
  | nil => simp [amaxTop, topBits]
  | append_singleton vs v ih =>
    rw [amaxTop_append, topBits_append]
    cases v with
    | nan b => exact ih
    | inf b => exact ih
    | fin n m e =>
      dsimp only
      by_cases hm : m = 0
      · rw [if_pos hm, if_pos hm]
        exact ih
      · rw [if_neg hm, if_neg hm]
        cases h : amaxTop vs with
        | none =>
          rw [h] at ih
          dsimp only at ih ⊢
          rw [ih, insert_empty_eq]
          exact isGreatest_singleton
        | some t =>
          rw [h] at ih
          dsimp only
          rw [max_comm]
          exact ih.insert _

/-- The scale byte of a block of numbers comes from its largest magnitude. -/
theorem block_scale (F : MxFmt) (mode : Nat → Mode) {vs : List Val} (h : ∀ v ∈ vs, v.isFin = true) :
    (F.block mode vs).2.1 = ((match amaxTop vs with | none => -127 | some t => max (-127) (min 127 (t - F.emax))) + 127).toNat := by
  have hn : ¬(vs.any fun v => !v.isFin) = true := by simpa using h
  rw [MxFmt.block, if_neg hn] <;> rfl

/-- Settles O15: by the largest magnitude of `amaxTop_spec`. -/
theorem blockScale : Obligations.BlockScale := by
  refine fun F _ mode vs hlen => ⟨fun ⟨v, hv, hf⟩ => if_pos (by simpa using ⟨v, hv, hf⟩), fun hfin => ⟨?_, fun h0 => ?_, fun top hex hle => ?_⟩⟩
  · have hn : ¬(vs.any fun v => !v.isFin) = true := by simpa using hfin
    rw [MxFmt.block, if_neg hn]
    simp [hlen]
  · have hs := amaxTop_spec vs
    rw [block_scale F mode hfin]
    cases h : amaxTop vs with
    | none => rfl
    | some t =>
      rw [h] at hs
      obtain ⟨n, m, e, hmem, hm, _⟩ := hs.1
      obtain ⟨_, _, heq⟩ := h0 _ hmem
      exact absurd (Val.fin.inj heq).2.1 hm
  · have hs := amaxTop_spec vs
    have htop : IsGreatest (topBits vs) top := ⟨hex, fun t ⟨n, m, e, hmem, hm, ht⟩ => ht ▸ hle n m e hmem hm⟩
    rw [block_scale F mode hfin]
    cases h : amaxTop vs with
    | none =>
      rw [h] at hs
      exact absurd htop.1 (by simp only [hs, Set.mem_empty_iff_false, not_false_iff])
    | some t =>
      rw [h] at hs
      rw [hs.unique htop]
      dsimp only
      omega

/-- A present `vqmx` writes the four blocks of the statement. -/
theorem quantises_of {i : G → Instr} {op : BitVec 8} {h : Shape} {F : MxFmt} {stoch : Bool} {c : State → Prop} {present : State → Bool}
    (hi : ∀ g s, exec (i g) s = s.vqmx op h g F stoch (present s)) (hc : ∀ s, c s → present s = true) : Quantises i h F stoch c :=
  fun g s hr hs => by
    refine ⟨_, ?_, rfl⟩
    rw [hi, State.vqmx, hc s hs, slotOp_runs hr .v op true rfl, State.commit_launch]
    rfl

/-- A present `vdqmx` writes the governed lanes with the values of the blocks. -/
theorem dequantises_of {i : G → Instr} {op : BitVec 8} {F : MxFmt} {c : State → Prop}
    (hi : ∀ g s, c s → exec (i g) s = s.vdqmx op .vvImm1 g F true) : Dequantises i F c := fun g s hr hs => by
  intro value
  refine ⟨mergeLanes 32 (s.me.lanes g) (s.me.v g.d) fun n => BitVec.ofNat 32 (value n).bits,
    laneFlags 32 64 (s.me.lanes g) fun n => (value n).flags, ?_, fun n hn => ?_, fun b _ => ?_⟩
  · rw [hi g s hs, State.vdqmx, slotOp_runs hr .v op true rfl, State.commit_launch]
    rfl
  · rw [lane_mergeLanes (by simp) _ _ _ hn, Ctx.governs_lanes _ _ (by simp) hn]
  · rw [laneFlags_bit]
    exact exists_congr fun n => and_congr_right fun hn => by rw [Ctx.governs_lanes _ _ (by simp) hn]

/-- An instruction of an absent extension raises EXTOP with its sources. -/
theorem absentVector_of {i : G → Instr} {op : BitVec 8} {h : Shape} (ha : h.a = .v) (hb : h.b = .v) {body : G → State → Ctx → Res}
    (hi : ∀ g s, s.mx6 = false → exec (i g) s = s.slotOp .v op h g true (body g s))
    (habs : ∀ g s x, s.mx6 = false → body g s x = h.extop x g) : AbsentVector i op h := fun g s hr hx => by
  have hbody : body g s s.me = .trap ⟨0x02, s.me.low64 (.v g.a), s.me.low64 (.v g.b), []⟩ := by
    rw [habs g s _ hx, Shape.extop, ha, hb]
    rfl
  rw [hi g s hx, slotOp_traps hr .v op true hbody rfl]
  rfl

/-- An absent `vqmx` (R44). -/
theorem absentVector_vqmx {i : G → Instr} {op : BitVec 8} {h : Shape} {F : MxFmt} {stoch : Bool} (ha : h.a = .v) (hb : h.b = .v)
    (hi : ∀ g s, exec (i g) s = s.vqmx op h g F stoch s.mx6) : AbsentVector i op h :=
  absentVector_of ha hb (fun g s _ => hi g s) fun _ _ _ hx => if_pos (by simp [hx])

/-- An absent `vdqmx` (R44, R45). -/
theorem absentVector_vdqmx {i : G → Instr} {op : BitVec 8} {F : MxFmt}
    (hi : ∀ g s, exec (i g) s = s.vdqmx op (if s.mx6 then .vvImm1 else .absentVdqmx) g F s.mx6) : AbsentVector i op .absentVdqmx :=
  absentVector_of rfl rfl (fun g s hx => (hi g s).trans (by rw [hx]; rfl)) fun _ _ _ _ => rfl

/-- Settles O14: the forms that are always there, then the 6-bit ones, present and absent. -/
theorem mxConversions : Obligations.MxConversions := by
  have always (s : State) (_ : True) : true = true := rfl
  have here {F : MxFmt} {op : BitVec 8} {g : G} {s : State} (hx : s.mx6 = true) :
      s.vdqmx op (if s.mx6 then .vvImm1 else .absentVdqmx) g F s.mx6 = s.vdqmx op .vvImm1 g F true := by rw [hx]; rfl
  exact ⟨quantises_of exec_vqmxE4m3 always, quantises_of exec_vqmxE5m2 always, quantises_of exec_vqmxE3m2 fun _ => id, quantises_of exec_vqmxE2m3 fun _ => id,
    quantises_of exec_vqmxE2m1 always, quantises_of exec_vqmxMxi8 always, quantises_of exec_vqmxSrE4m3 always, quantises_of exec_vqmxSrE5m2 always,
    quantises_of exec_vqmxSrE3m2 fun _ => id, quantises_of exec_vqmxSrE2m3 fun _ => id, quantises_of exec_vqmxSrE2m1 always, quantises_of exec_vqmxSrMxi8 always,
    dequantises_of fun g s _ => exec_vdqmxE4m3 g s, dequantises_of fun g s _ => exec_vdqmxE5m2 g s, dequantises_of fun g s hx => (exec_vdqmxE3m2 g s).trans (here hx),
    dequantises_of fun g s hx => (exec_vdqmxE2m3 g s).trans (here hx), dequantises_of fun g s _ => exec_vdqmxE2m1 g s, dequantises_of fun g s _ => exec_vdqmxMxi8 g s,
    absentVector_vqmx rfl rfl exec_vqmxE3m2, absentVector_vqmx rfl rfl exec_vqmxE2m3, absentVector_vqmx rfl rfl exec_vqmxSrE3m2, absentVector_vqmx rfl rfl exec_vqmxSrE2m3,
    absentVector_vdqmx exec_vdqmxE3m2, absentVector_vdqmx exec_vdqmxE2m3⟩

end Sys2Proof.Machine
end

section
/-! Slot 4: loads, stores, gathers, scatters and local atomics (R73 to R80, R88, R298). -/

namespace Sys2Proof.Machine

/-- A slot 4 instruction on ranges whose body is a check and then effects: what is to be shown is what those effects leave. -/
theorem slot4_of {i : G → Instr} {op : BitVec 8} {h : Shape} {fixed : Bool} {kind : Acc4} {rs : G → Ctx → List (Nat × Nat)}
    {body : G → State → Ctx → Res} {check : G → State → Option SlotFault} {effs : G → State → List Effect}
    {result : G → State → State → Prop} (hi : ∀ g u, exec (i g) u = u.slot4 op h g fixed kind (rs g) (body g))
    (hb : ∀ g s, body g s s.me = match check g s with | some f => .trap f | none => done (effs g s))
    (hr : ∀ g s, check g s = none → s.LocalForm → result g s (s.commit s.cur (effs g s) 0)) : Slot4 i op h kind rs check result := fun g u => by
  intro s w ha
  refine ⟨fun f hf => ?_, fun hn hl => ⟨_, ?_, hr g s hn hl⟩⟩
  · rw [hi]
    exact slot4_traps rfl w ha (by rw [hb, hf])
  · rw [hi]
    exact slot4_runs rfl w ha (by rw [hb, hn])

/-- Reading ranges and starting a result is what a load has to leave. -/
theorem readsInto_of {rs : G → Ctx → List (Nat × Nat)} {lat : Nat} {result : G → State → RVal → Prop} {g : G} {s : State} {v : RVal}
    (hl : s.LocalForm) (hv : result g s v) :
    ReadsInto rs lat result g s (s.commit s.cur (s.reads4 (rs g s.me) ++ [.launch v 0 lat]) 0) := by
  rw [State.reads4, State.fill4_eq hl]
  obtain ⟨hlocal, hbytes, hctx⟩ := State.commit_readsInto s (banksOf (rs g s.me)) (rs g s.me) (!isCtl s.cur.core &&
    (rs g s.me).any fun r => (List.range r.2).any fun i => !(s.core s.cur.core).mem.has (r.1 + i)) v 0 lat
  exact ⟨v, hv, hlocal, hbytes, hctx⟩

/-- A scalar load (R77). -/
theorem loadS_laws {i : G → Instr} {op : BitVec 8} {n : Nat} {ext : Nat → W64} (hi : ∀ g s, exec (i g) s = s.loadS op g n ext) :
    Slot4 i op .ldS .load (fun g x => [(operandAt g x n, n)]) (fun g s => s.checks4 s.me .load n (operandAt g s.me n) n)
      (ReadsInto (fun g x => [(operandAt g x n, n)]) 5 fun g s v =>
        v = .s g.d (ext (leNat (s.bytesAt s.cur.core (operandAt g s.me n) n)))) :=
  slot4_of hi (fun _ _ => rfl) fun g s _ hl => readsInto_of hl (by rw [State.bytes4_eq hl]; rfl)

/-- A vector load: every byte above those read is 0 (R78). -/
theorem loadV_laws {i : G → Instr} {op : BitVec 8} {n align : Nat} (hn : n ≤ 256) (hi : ∀ g s, exec (i g) s = s.loadV op g n align) :
    Slot4 i op .ldV .load (fun g x => [(operandAt g x n, n)]) (fun g s => s.checks4 s.me .load align (operandAt g s.me n) n)
      (ReadsInto (fun g x => [(operandAt g x n, n)]) 7 fun g s v => ∃ y : Vec, v = .v g.d y ∧
        ∀ b < 256, lane 8 y b = if b < n then s.byteAt s.cur.core (operandAt g s.me n + b) else 0) := by
  refine slot4_of hi (fun _ _ => rfl) fun g s _ hl => readsInto_of hl ⟨_, rfl, fun b _ => ?_⟩
  rw [State.bytes4_eq hl, lane_bytesVec (by simpa [State.bytesAt] using hn)]
  by_cases hb : b < n
  · simp [State.bytesAt, hb]
    rfl
  · simp [State.bytesAt, hb]

/-- A store (R77, R78). -/
theorem storeAt_laws {i : G → Instr} {op : BitVec 8} {h : Shape} {n align : Nat} {v : G → Ctx → Nat}
    (hi : ∀ g s, exec (i g) s = s.storeAt op h g n align (v g)) :
    Slot4 i op h .store (fun g x => [(operandAt g x n, n)]) (fun g s => s.checks4 s.me .store align (operandAt g s.me n) n)
      (Writes fun g x => [(operandAt g x n, leBytes n (v g x))]) :=
  slot4_of hi (fun _ _ => rfl) fun g s _ hl => State.commit_stores s hl _ [(operandAt g s.me n, leBytes n (v g s.me))]

/-- Settles O18: each is a scalar load or a store of the low bytes. -/
theorem scalarLoadsStores : Obligations.ScalarLoadsStores :=
  ⟨loadS_laws (ext := sext64 8) exec_ldB, loadS_laws (ext := sext64 16) exec_ldH, loadS_laws (ext := sext64 32) exec_ldW,
    loadS_laws (ext := sext64 64) exec_ldD, loadS_laws (ext := BitVec.ofNat 64) exec_ldBz, loadS_laws (ext := BitVec.ofNat 64) exec_ldHz,
    loadS_laws (ext := BitVec.ofNat 64) exec_ldWz, storeAt_laws exec_stB, storeAt_laws exec_stH, storeAt_laws exec_stW, storeAt_laws exec_stD⟩

/-- Settles O19: each is a vector load or a store of the low bytes. -/
theorem vectorLoadsStores : Obligations.VectorLoadsStores :=
  ⟨loadV_laws (by omega) exec_vld, loadV_laws (by omega) exec_vldO, loadV_laws (by omega) exec_vldQ, storeAt_laws exec_vst,
    storeAt_laws exec_vstO, storeAt_laws exec_vstQ⟩

/-- An element of blocks of one length, laid end to end. -/
theorem getD_flatten {α β : Type} (f : α → List β) (d : β) (z : α) {n : Nat} {l : List α} (hf : ∀ x ∈ l, (f x).length = n) {k b : Nat}
    (hk : k < l.length) (hb : b < n) : (l.map f).flatten.getD (n * k + b) d = (f (l.getD k z)).getD b d := by
  induction l generalizing k with
  | nil => simp at hk
  | cons x l ih =>
    have hx := hf x List.mem_cons_self
    rw [List.map_cons, List.flatten_cons]
    cases k with
    | zero => rw [Nat.mul_zero, Nat.zero_add, List.getD_append _ _ _ _ (by omega), List.getD_cons_zero]
    | succ k =>
      rw [List.getD_append_right _ _ _ _ (by rw [hx, Nat.mul_succ]; omega), List.getD_cons_succ, hx,
        show n * (k + 1) + b - n = n * k + b by rw [Nat.mul_succ]; omega]
      exact ih (fun y hy => hf y (List.mem_cons_of_mem _ hy)) (by simpa using hk)

/-- A strided load or a gather: element k of the register holds the bytes of range k (R79). -/
theorem gather_laws {i : G → Instr} {op : BitVec 8} {h : Shape} {rs : G → Ctx → List (Nat × Nat)} {ok : G → Ctx → Bool} {limit n : Nat}
    (hrs : ∀ g x, ∀ r ∈ rs g x, r.2 = n) (hlen : ∀ g x, (rs g x).length = 256 / n) (hn : n * (256 / n) = 256)
    (hi : ∀ g s, exec (i g) s = s.gather op h g limit (rs g) (ok g)) :
    Slot4 i op h .load rs (fun g s => s.elemChecks s.me .load (ok g s.me) (rs g s.me) limit)
      (ReadsInto rs 9 fun g s v => ∃ y : Vec, v = .v g.d y ∧
        ∀ k < 256 / n, ∀ b < n, lane 8 y (n * k + b) = s.byteAt s.cur.core (((rs g s.me).getD k (0, 0)).1 + b)) := by
  refine slot4_of hi (fun _ _ => rfl) fun g s _ hl => readsInto_of hl ⟨_, rfl, fun k hk b hb => ?_⟩
  have hsize : ∀ r ∈ rs g s.me, (s.bytes4 r.1 r.2).length = n := fun r hr => by
    rw [State.bytes4_eq hl, hrs g _ r hr]
    simp [State.bytesAt]
  have htotal : ((rs g s.me).map fun r => s.bytes4 r.1 r.2).flatten.length ≤ 256 := by
    rw [List.length_flatten, List.map_map, List.map_congr_left (g := fun _ => n) (by simpa using hsize)]
    simp [hlen, Nat.mul_comm, hn]
  have hk' : k < (rs g s.me).length := by rwa [hlen]
  rw [lane_bytesVec htotal, getD_flatten (fun r : Nat × Nat => s.bytes4 r.1 r.2) 0 (0, 0) hsize hk' hb, State.bytes4_eq hl,
    hrs g s.me _ (by rw [List.getD_eq_getElem _ _ hk']; exact List.getElem_mem _)]
  simp [State.bytesAt, hb]

/-- A list over the first numbers, numbered. -/
theorem zipIdx_range_map {α : Type} (f : Nat → α) (n : Nat) : ((List.range n).map f).zipIdx = (List.range n).map fun i => (f i, i) := by
  apply List.ext_getElem <;> simp

/-- A scatter writes its lanes in ascending order (R79). -/
theorem vstxW_laws : Slot4 .vstxW 0x19 .stVsv .store (fun g x => indexed (x.s g.a) (x.v g.b))
    (fun g s => s.elemChecks s.me .store (s.me.indexAligned g) (indexed (s.me.s g.a) (s.me.v g.b)) 2)
    (Writes fun g x => (List.range 64).map fun i => ((x.s g.a + (lane 32 (x.v g.b) i).zeroExtend 64).toNat, leBytes 4 (lane 32 (x.v g.d) i).toNat)) := by
  refine slot4_of exec_vstxW (fun _ _ => rfl) fun g s _ hl => ?_
  have h := State.commit_stores s hl (banksOf (indexed (s.me.s g.a) (s.me.v g.b))) ((List.range 64).map fun i =>
    ((s.me.s g.a + (lane 32 (s.me.v g.b) i).zeroExtend 64).toNat, leBytes 4 (lane 32 (s.me.v g.d) i).toNat))
  rw [List.map_map] at h
  simp only [indexed, Ctx.sa_eq, Ctx.vb_eq, Ctx.vd_eq, zipIdx_range_map, List.map_map]
  exact h

/-- Settles O20: strided loads and the gather, then the scatter. -/
theorem indexedAccess : Obligations.IndexedAccess :=
  ⟨gather_laws (by simp [strided]) (by simp [strided]) rfl exec_vldsW, gather_laws (by simp [strided]) (by simp [strided]) rfl exec_vldsH,
    gather_laws (by simp [indexed]) (by simp [indexed]) rfl exec_vldxW, vstxW_laws⟩

/-- A local atomic by the value it writes (R88). -/
theorem amo_of {i : G → Instr} {op : BitVec 8} {h : Shape} {n : Nat} {what : BitVec 2} {new : G → Ctx → Nat → Option Nat}
    (hi : ∀ g s, exec (i g) s = s.amo op h g n what)
    (hw : ∀ g (x : Ctx) old, old < 2 ^ (8 * n) → (atomicNew what (BitVec.ofNat 64 old) (x.s g.b) (x.s g.d)).map (fun v => leBytes n v.toNat) =
      (new g x old).map (leBytes n)) :
    Slot4 i op h .atomic (fun g x => [((x.s g.a).toNat, n)]) (fun g s => s.checks4 s.me .atomic n (s.me.s g.a).toNat n) fun g s t =>
      let a := (s.me.s g.a).toNat
      let old := leNat (s.bytesAt s.cur.core a n)
      ∃ p, Wrote ((new g s.me old).map fun v => (a, leBytes n v)).toList s p ∧
        p.ctx s.cur = (s.me.onward s.cycle 0).await (.s g.d (BitVec.ofNat 64 old)) 0 (s.cycle + 8) ∧ t = p.retestCore s.cur.core := by
  intro g u s w ha
  obtain ⟨htrap, hrun⟩ := amo_laws (what := what) (op := op) rfl w ha
  rw [hi]
  refine ⟨htrap, fun hn hl => ?_⟩
  obtain ⟨t, ht, p, hp, hctx, hret⟩ := hrun hn hl
  refine ⟨t, ht, p, ?_, hctx, hret⟩
  have hold : leNat (s.bytesAt s.cur.core (s.me.s g.a).toNat n) < 2 ^ (8 * n) := by
    have := leNat_lt (s.bytesAt s.cur.core (s.me.s g.a).toNat n)
    rwa [State.bytesAt, List.length_map, List.length_range] at this
  have hpair (o : Option (List Byte)) : o.map (fun bs => ((s.me.s g.a).toNat, bs)) = o.map (Prod.mk (s.me.s g.a).toNat) := rfl
  have := congrArg (Option.map (Prod.mk (s.me.s g.a).toNat)) (hw g s.me _ hold)
  simp only [Option.map_map, Function.comp_def] at this
  rw [← this]
  exact hp

/-- The bytes of a number do not depend on what lies above them. -/
theorem leBytes_mod (n x : Nat) : leBytes n (x % 2 ^ (8 * n)) = leBytes n x := by
  induction n generalizing x with
  | zero => rfl
  | succ n ih =>
    rw [leBytes, leBytes, ← ih (x / 256), Nat.mul_succ, Nat.add_comm, pow_add, show 2 ^ 8 = 256 from rfl, Nat.mod_mul_right_div_self]
    congr 1
    apply BitVec.eq_of_toNat_eq
    simp

/-- Settles O21: the value that each atomic writes. -/
theorem localAtomics : Obligations.LocalAtomics := by
  refine ⟨amo_of (new := fun g x old => some ((old + (x.s g.b).toNat) % 2 ^ 32)) exec_amoAddW fun g x old h => ?_,
    amo_of (new := fun g x old => some ((old + (x.s g.b).toNat) % 2 ^ 64)) exec_amoAddD fun g x old h => ?_,
    amo_of (new := fun g x old => some (if (BitVec.ofNat 64 old).toInt < (x.s g.b).toInt then (x.s g.b).toNat else old))
      exec_amoMaxD fun g x old h => ?_,
    amo_of (new := fun g x _ => some (x.s g.b).toNat) exec_amoXchgD fun g x old h => ?_,
    amo_of (new := fun g x old => if old = (x.s g.d).toNat then some (x.s g.b).toNat else none) exec_amoCasD fun g x old h => ?_⟩
  · have e : (BitVec.ofNat 64 old + x.s g.b).toNat % 2 ^ (8 * 4) = (old + (x.s g.b).toNat) % 2 ^ 32 := by
      rw [BitVec.toNat_add, BitVec.toNat_ofNat]
      omega
    show some (leBytes 4 (BitVec.ofNat 64 old + x.s g.b).toNat) = some (leBytes 4 ((old + (x.s g.b).toNat) % 2 ^ 32))
    rw [← leBytes_mod 4 (BitVec.ofNat 64 old + x.s g.b).toNat, e]
  · show some (leBytes 8 (BitVec.ofNat 64 old + x.s g.b).toNat) = some (leBytes 8 ((old + (x.s g.b).toNat) % 2 ^ 64))
    rw [BitVec.toNat_add, BitVec.toNat_ofNat, Nat.mod_add_mod]
  · show some (leBytes 8 (if (BitVec.ofNat 64 old).slt (x.s g.b) = true then x.s g.b else BitVec.ofNat 64 old).toNat) = some (leBytes 8 _)
    simp only [BitVec.slt, decide_eq_true_eq]
    split
    · rfl
    · rw [BitVec.toNat_ofNat, Nat.mod_eq_of_lt h]
  · rfl
  · show Option.map _ (if BitVec.ofNat 64 old = x.s g.d then some (x.s g.b) else none) = Option.map _ (if old = (x.s g.d).toNat then _ else _)
    have e : BitVec.ofNat 64 old = x.s g.d ↔ old = (x.s g.d).toNat := by
      rw [← BitVec.toNat_inj, BitVec.toNat_ofNat, Nat.mod_eq_of_lt h]
    simp only [e]
    split <;> rfl

end Sys2Proof.Machine
end

section
/-! Slot 4: streams, `vtake`, `vac` and the checks of an access (R6, R7, R73, R76, R81 to R85). -/

namespace Sys2Proof.Machine

/-- A slot 4 operation that has to wait: only what it had to wait for before its evaluation has been done. -/
theorem slot4_waits {h : Shape} {g : G} {u : State} {op : BitVec 8} {fixed : Bool} {kind : Acc4} {rs : Ctx → List (Nat × Nat)}
    {body : State → Ctx → Res} {s : State} (hs : u.reached h g kind rs = s) (w : Runs h g s) (ha : s.acqOut s.cur = false)
    (hb : body s s.me = .wait) : u.slot4 op h g fixed kind rs body = .next s := by
  have e : u.slot4 op h g fixed kind rs body = s.slotOp .l op h g fixed fun x => if s.acqOut s.cur then .wait else body s x := by
    subst hs; rfl
  rw [e, slotOp_waits w .l op fixed (by rw [ha]; exact hb)]

theorem Ctx.ahead_eq (x : Ctx) : x.ahead = { x with pc := x.ahead.pc, npc := x.ahead.npc, loops := x.ahead.loops } := by
  unfold Ctx.ahead
  repeat' split
  all_goals rfl

/-- Going on changes only what names the next bundle, and the generator's count. -/
theorem Ctx.onward_own {α : Type} (φ : Ctx → α) (h : ∀ (x : Ctx) pc npc loops emul replayAt rngctr,
      φ { x with pc := pc, npc := npc, loops := loops, emul := emul, replayAt := replayAt, spec.rngctr := rngctr } = φ x)
    (x : Ctx) (cycle draws : Nat) : φ (x.onward cycle draws) = φ x := by
  unfold Ctx.onward
  rw [Ctx.ahead_eq]
  exact h x ..

/-- A stream operation's commit: sD is empty, the record stands, both ranges are locked (R6, R72). -/
theorem State.commit_stream (s : State) (r : Reg) (st : Stream) (hk : st.kind ≠ .rmv) :
    s.commit s.cur [.empty r, .stream st] 0 = (s.onward.modCtx s.cur fun x => { x.mark r false with stream := some st }).modCore
      s.cur.core fun k => (k.lock s.me.node st.src (st.n * st.esize)).lock s.me.node st.dst (st.n * st.esize) := by
  rw [State.commit_alone s rfl rfl]
  show ((s.onward 0).modCtx s.cur fun x => x.mark r false).startStream s.cur st = _
  have hnode : (s.me.onward s.cycle 0 |>.mark r false).node = s.me.node := by
    rw [Ctx.mark_node]
    exact Ctx.onward_own Ctx.node (fun _ _ _ _ _ _ _ => rfl) ..
  simp only [State.startStream, if_neg hk, State.modCtx_modCtx, State.ctx_modCtx, State.onward_ctx, hnode]
  rfl

/-- A stream operation (R6, R7, R81 to R83). -/
theorem streamOp_laws {i : G → Instr} {op : BitVec 8} {kind : StreamKind} {n : Nat} (hk : kind ≠ .rmv)
    (hi : ∀ g s, exec (i g) s = s.streamOp op g kind n) (g : G) {u s : State}
    (hs : u.reached .sssD g .load (fun x => if 4096 < (x.s g.d).toNat then [] else
      [((x.s g.a).toNat, (x.s g.d).toNat * n), ((x.s g.b).toNat, (x.s g.d).toNat * n)]) = s)
    (w : Runs .sssD g s) (ha : s.acqOut s.cur = false) :
    let count := (s.me.s g.d).toNat
    let src := (s.me.s g.a).toNat
    let dst := (s.me.s g.b).toNat
    let st : Stream := ⟨kind, n, s.cur.core, src, s.cur.core, dst, count, 0, g.d, s.cycle + 4, false, .locked, .locked, 0, 0, 0, false⟩
    (s.me.stream.isSome = true → exec (i g) u = .next s) ∧
    (s.me.stream = none →
      (∀ f, (s.core s.cur.core).streamChecks s.me n count src dst = some f →
        exec (i g) u = .next (s.fails 4 (State.slotOp.wordOf op g) f)) ∧
      ((s.core s.cur.core).streamChecks s.me n count src dst = none →
        exec (i g) u = .next ((s.onward.modCtx s.cur fun x => { x.mark (.s g.d) false with stream := some st }).modCore
          s.cur.core fun k => (k.lock s.me.node src (count * n)).lock s.me.node dst (count * n)))) := by
  intro count src dst st
  rw [hi]
  refine ⟨fun hst => slot4_waits hs w ha (if_pos hst), fun hst => ?_⟩
  have hfree : ¬ s.me.stream.isSome = true := by simp [hst]
  refine ⟨fun f hf => slot4_traps hs w ha ((if_neg hfree).trans ?_), fun hn => ?_⟩
  · simp only [Ctx.sa_eq, Ctx.sb_eq, Ctx.sd]
    rw [hf]
  · refine (slot4_runs hs w ha (effs := [.empty (.s g.d), .stream st]) ((if_neg hfree).trans ?_)).trans
      (congrArg _ (s.commit_stream _ st hk))
    simp only [Ctx.sa_eq, Ctx.sb_eq, Ctx.sd]
    rw [hn]

/-- Settles O22: the four stream operations. -/
theorem streamIssue : Obligations.StreamIssue :=
  ⟨fun g _ => streamOp_laws (by decide) exec_smvH g rfl, fun g _ => streamOp_laws (by decide) exec_smvW g rfl,
    fun g _ => streamOp_laws (by decide) exec_smvD g rfl, fun g _ => streamOp_laws (by decide) exec_sdup g rfl⟩

/-! Vacating (R84, R85). -/

/-- The bytes after a change of one core's scratchpad. -/
theorem State.byteAt_modCore {s : State} {c : CoreRef} (hc : isCtl c = false) (f : Core → Core) (d : CoreRef) (a : Nat) :
    (s.modCore c f).byteAt d a = if d = c then (f (s.core c)).mem.load a else s.byteAt d a := by
  unfold State.byteAt
  rw [State.tower_modCore]
  by_cases hd : d = c
  · subst hd
    simp [hc]
  · rw [State.core_modCore_ne _ _ hd, if_neg hd]

/-- Whether a read of one range finds a vacant byte. -/
theorem Core.anyFill_one {k : Core} (h : k.mem.wf = true) (a n : Nat) :
    k.anyFill [(a, n)] = (List.range n).any fun i => !k.mem.has (a + i) := by
  simp only [Core.anyFill, List.any_cons, List.any_nil, Bool.or_false]
  rw [Bool.eq_iff_iff]
  simp only [List.any_eq_true, List.mem_range]
  exact exists_congr fun i => and_congr_right fun hi => by rw [Scratch.has_near h (by omega)]

/-- A change of the current core's scratchpad alone. -/
theorem OnlyLocal.modMem {s : State} {c : CoreRef} (h : c = s.cur.core) (f : Scratch → Scratch) :
    OnlyLocal s (s.modCore c fun k => { k with mem := f k.mem }) := by
  subst h
  exact .modCore s fun _ => rfl

theorem State.ctx_modMem (s : State) (c : CoreRef) (f : Scratch → Scratch) (r : CtxRef) :
    (s.modCore c fun k => { k with mem := f k.mem }).ctx r = s.ctx r :=
  State.ctx_modCore s c (f := fun k => { k with mem := f k.mem }) (fun _ => rfl) (fun _ => rfl) r

/-- The bytes and halfwords after a scratchpad has been changed to one in which a range is vacant (R84, R85). -/
theorem State.vacated_laws {p : State} {c : CoreRef} (hc : isCtl c = false) {a n : Nat} {f : Scratch → Scratch}
    (hload : ∀ b, (f (p.core c).mem).load b = if a ≤ b ∧ b < a + n then 0xFF else (p.core c).mem.load b)
    (hhas : ∀ b, (f (p.core c).mem).has b = (!decide (a ≤ b ∧ b < a + n) && (p.core c).mem.has b)) :
    let t := p.modCore c fun k => { k with mem := f k.mem }
    (∀ d b, t.byteAt d b = if d = c ∧ a ≤ b ∧ b < a + n then 0xFF else p.byteAt d b) ∧
    (∀ b, (t.core c).mem.has b = (!decide (a ≤ b ∧ b < a + n) && (p.core c).mem.has b)) := by
  refine ⟨fun d b => ?_, fun b => ?_⟩
  · rw [State.byteAt_modCore hc]
    by_cases hd : d = c
    · subst hd
      simp only [hload, State.byteAt, hc, true_and]
      rfl
    · simp [hd]
  · rw [State.core_modCore]
    exact hhas b

/-- Where a check of one range finds nothing its offset is aligned. -/
theorem checks4_aligned {s : State} {x : Ctx} {kind : Acc4} {align a n : Nat} (h : s.checks4 x kind align a n = none) : a % align = 0 := by
  by_contra ha
  rw [State.checks4, ctlChecks, addrChecks_misaligned x n ha, if_pos ha] at h
  split at h <;> cases h

/-- `vtake` as changes of its context and its scratchpad. -/
theorem State.take4_eq {p : State} (hc : isCtl p.cur.core = false) (hl : p.LocalForm) (a : Nat) (d : BitVec 6) :
    p.take4 p.cur a d = (p.modCtx p.cur fun x => (x.orStatus (if (List.range 256).any fun i => !(p.core p.cur.core).mem.has (a + i) then stVac
      else 0)).await (.v d (bytesVec (p.bytesAt p.cur.core a 256))) 0 (p.cycle + 7)).modCore p.cur.core fun k => { k with mem := k.mem.vacate a 256 } := by
  have hzero (x : Ctx) : x.orStatus 0 = x := by
    have e : x.spec.status ||| 0 = x.spec.status := BitVec.or_zero
    simp only [Ctx.orStatus, e]
  rw [State.take4, hc, Core.anyFill_one hl.1, State.localBytes_eq hl]
  cases hv : (List.range 256).any fun i => !(p.core p.cur.core).mem.has (a + i)
  · simp only [Bool.not_false, Bool.and_false, Bool.false_eq_true, if_false, hzero]
    rfl
  · simp only [Bool.not_false, Bool.and_true, if_true, State.startResult, State.modCtx_modCtx]
    rfl

theorem State.localForm_modCtx {s : State} (h : s.LocalForm) (r : CtxRef) (f : Ctx → Ctx) : (s.modCtx r f).LocalForm := by
  refine ⟨?_, h.2⟩
  rw [show (s.modCtx r f).cur = s.cur from rfl, State.core_modCtx_mem]
  exact h.1

/-- A bundle that takes 256 bytes (R84). -/
theorem State.commit_take {s : State} (hl : s.LocalForm) (hc : isCtl s.cur.core = false) {a : Nat} (ha : a % 2 = 0) (d : BitVec 6) :
    let vacant : Bool := (List.range 256).any fun i => !(s.core s.cur.core).mem.has (a + i)
    let t := s.commit s.cur [.banks (banksOf [(a, 256)]), .touch a 256, .take a d] 0
    ∃ y : Vec, OnlyLocal s t ∧ (∀ b < 256, lane 8 y b = s.byteAt s.cur.core (a + b)) ∧
      t.ctx s.cur = ((s.me.onward s.cycle 0).orStatus (if vacant then stVac else 0)).await (.v d y) 0 (s.cycle + 7) ∧
      (∀ c b, t.byteAt c b = if c = s.cur.core ∧ a ≤ b ∧ b < a + 256 then 0xFF else s.byteAt c b) ∧
      (∀ b, (t.core s.cur.core).mem.has b = (!decide (a ≤ b ∧ b < a + 256) && (s.core s.cur.core).mem.has b)) ∧
      (∀ b, (t.core s.cur.core).mem.poisoned b = (s.core s.cur.core).mem.poisoned b) := by
  intro vacant t
  let p := (s.onward.apply s.cur (.banks (banksOf [(a, 256)]))).apply s.cur (.touch a 256)
  have hq : Quiet s.onward p := Quiet.reads s.onward (banksOf [(a, 256)]) [(a, 256)]
  have hp : p.LocalForm := State.localForm_touch (State.localForm_banks (State.localForm_modCtx hl _ _) _) a 256
  have hcur : p.cur = s.cur := hq.only.cur
  have hcycle : p.cycle = s.cycle := by rw [hq.only.rest]; rfl
  have hsame : SameBytes s p := (SameBytes.onward s 0).trans hq.same
  have hctx : p.ctx s.cur = s.me.onward s.cycle 0 := hq.ctx.trans (State.onward_ctx s 0)
  let y := bytesVec (p.bytesAt s.cur.core a 256)
  let q := p.modCtx s.cur fun x => (x.orStatus (if vacant then stVac else 0)).await (.v d y) 0 (s.cycle + 7)
  have hqs : SameBytes s q := hsame.trans (.modCtx _ _ _)
  have hqf : q.LocalForm := State.localForm_modCtx hp _ _
  have hqm : (q.core s.cur.core).mem.wf = true := by
    have := hqf.1
    rwa [show q.cur = s.cur from hcur] at this
  have ht : t = q.modCore s.cur.core fun k => { k with mem := k.mem.vacate a 256 } := by
    have := State.take4_eq (p := p) (by rw [hcur]; exact hc) hp a d
    simp only [hcur, hcycle, hsame.has] at this
    exact (State.commit_alone _ rfl rfl 0).trans this
  rw [ht]
  obtain ⟨hb, hh⟩ := State.vacated_laws (p := q) hc (f := fun m => m.vacate a 256) (Scratch.load_vacate hqm ha rfl)
    (Scratch.has_vacate hqm ha rfl)
  refine ⟨y, ((OnlyLocal.onward s 0).trans hq.only).trans (OnlyLocal.trans (t := q) ?_ (.modMem (by rw [← hcur]; rfl) fun m => m.vacate a 256)),
    fun b hb => ?_, ?_, fun c b => ?_, fun b => ?_, fun b => ?_⟩
  · have := OnlyLocal.modCtx p fun x => (x.orStatus (if vacant then stVac else 0)).await (.v d y) 0 (s.cycle + 7)
    rwa [hcur] at this
  · rw [lane_bytesVec (by simp [State.bytesAt])]
    simp [State.bytesAt, hb, hsame.bytes]
  · rw [State.ctx_modMem q s.cur.core fun m => m.vacate a 256, State.ctx_modCtx, hctx]
  · rw [hb, hqs.bytes]
  · rw [hh, hqs.has]
  · rw [State.core_modCore, Scratch.poisoned_vacate, hqs.poison]

/-- Settles O23: the old bytes are read, then the range is vacated. -/
theorem take : Obligations.Take := by
  unfold Obligations.Take
  refine slot4_of exec_vtake (fun _ _ => rfl) ?_
  intro g s hcheck hl hc
  exact State.commit_take hl hc (a := operandAt g s.me 256) (by have := checks4_aligned hcheck; omega) g.d

/-- A bundle that vacates a range whose partly vacated words are all correctable (R85). -/
theorem State.commit_vacate {s : State} (hl : s.LocalForm) (hc : isCtl s.cur.core = false) {a n : Nat} (ha : a % 2 = 0) (hn : n % 2 = 0)
    (hf : (s.core s.cur.core).mem.foundWrite a n = []) :
    let k := s.core s.cur.core
    let t := s.commit s.cur [.banks (banksOf [(a, n)]), .vacate a n] 0
    OnlyLocal s t ∧ t.ctx s.cur = s.me.onward s.cycle 0 ∧
      (∀ c b, t.byteAt c b = if c = s.cur.core ∧ a ≤ b ∧ b < a + n then 0xFF else s.byteAt c b) ∧
      (∀ b, (t.core s.cur.core).mem.has b = (!decide (a ≤ b ∧ b < a + n) && k.mem.has b)) ∧
      (∀ b, ¬(a / 32 ≤ b / 32 ∧ b / 32 ≤ (a + n - 1) / 32) → (t.core s.cur.core).mem.poisoned b = k.mem.poisoned b) := by
  intro k t
  let p := s.onward.apply s.cur (.banks (banksOf [(a, n)]))
  have hq : Quiet s.onward p := Quiet.banks s.onward _
  have hcur : p.cur = s.cur := hq.only.cur
  have hsame : SameBytes s p := (SameBytes.onward s 0).trans hq.same
  have hctx : p.ctx s.cur = s.me.onward s.cycle 0 := hq.ctx.trans (State.onward_ctx s 0)
  have hmem : (p.core s.cur.core).mem = k.mem := by
    simp only [p, State.apply, State.core_modCore, State.onward, State.core_modCtx_mem, k]
  have ht : t = p.modCore s.cur.core fun k => { k with mem := k.mem.vac a n } := by
    have h : t = p.vacates s.cur a n := State.commit_alone _ rfl rfl 0
    rw [h, State.vacates, hmem, hf, State.coreFound_nil]
  have hlaws (b : Nat) := Scratch.vac_laws (m := (p.core s.cur.core).mem) (by rw [hmem]; exact hl.1) (off := a) (len := n) ha hn b
  obtain ⟨hb, hh⟩ := State.vacated_laws (p := p) hc (f := fun m => m.vac a n) (fun b => (hlaws b).1) fun b => (hlaws b).2
  rw [ht]
  refine ⟨((OnlyLocal.onward s 0).trans hq.only).trans (.modMem (by rw [← hcur]) fun m => m.vac a n), ?_, fun c b => ?_, fun b => ?_,
    fun b hout => ?_⟩
  · rw [State.ctx_modMem p s.cur.core fun m => m.vac a n, hctx]
  · rw [hb, hsame.bytes]
  · rw [hh, hsame.has]
  · rw [State.core_modCore, hmem]
    exact Scratch.poisoned_vac _ hl.1 hout

/-- Where the checks of `vac` find nothing both operands are even. -/
theorem vacChecks_even {k : Core} {x : Ctx} {a n : Nat} (h : k.vacChecks x a n = none) : a % 2 = 0 ∧ n % 2 = 0 := by
  by_contra hne
  rw [Core.vacChecks, if_pos (by omega)] at h
  cases h

/-- Settles O24: the checks, the empty range, and the range that is vacated. -/
theorem vacate : Obligations.Vacate := by
  intro g u s w ha hc hl a n k
  have hrun (hn : n ≠ 0) (hcheck : k.vacChecks s.me a n = none) :
      exec (.vac g) u = .next (s.did [.banks (banksOf [(a, n)]), .vacate a n]) := by
    rw [exec_vac, execVac]
    refine slot4_runs rfl w ha ?_
    simp only [Ctx.sa_eq, Ctx.sb_eq]
    rw [hcheck]
    exact congrArg done (if_neg hn)
  refine ⟨fun f hf => ?_, fun hn heven => ?_, fun hn hcheck hfound => ⟨_, hrun hn hcheck, ?_⟩, hrun⟩
  · rw [exec_vac, execVac]
    refine slot4_traps rfl w ha ?_
    simp only [Ctx.sa_eq, Ctx.sb_eq]
    rw [hf]
  · have hcheck : k.vacChecks s.me a n = none := by
      rw [Core.vacChecks, hn, if_neg (by omega), if_neg (by omega), if_pos rfl]
    rw [← State.commit_nil, exec_vac, execVac]
    refine slot4_runs rfl w ha ?_
    simp only [Ctx.sa_eq, Ctx.sb_eq]
    rw [hcheck]
    exact congrArg done (if_pos hn)
  · obtain ⟨heven, hneven⟩ := vacChecks_even hcheck
    exact State.commit_vacate hl hc heven hneven hfound

/-- Settles O26: control memory, then the steps on the scratchpad in the order of the model. -/
theorem accessChecks : Obligations.AccessChecks := by
  intro s kind align a n hl k some_ code reads
  refine ⟨fun hc => ?_, fun hc hn => ?_⟩
  · simp only [code, State.checks4, if_pos hc, ctlChecks]
    split
    · rfl
    · split <;> rfl
  · simp only [code, State.checks4, hc, Bool.false_eq_true, if_false]
    by_cases h1 : a % align = 0
    · by_cases h2 : 0x800000 < a + n
      · simp [addrChecks_outOfRange s.me h1 (.inl h2), h1, h2]; rfl
      · cases h3 : s.me.ownsRange a n
        · simp [addrChecks_outOfRange s.me h1 (.inr h3), h1, h2]; rfl
        · rw [addrChecks_passes s.me h1 (by omega) h3, Core.stateChecks_one hl.1 _ _ hn (by omega)]
          simp only [h1, h2, ne_eq, not_true, if_false]
          cases kind <;> simp [Core.found, Core.occupied, some_, reads, apply_ite (Option.map SlotFault.code), trap, k, or_comm]
    · simp [addrChecks_misaligned s.me n h1, h1]; rfl

end Sys2Proof.Machine
end

section
/-! What a slot word that issues alone comes to, whatever its checks answer (R28, R29). -/

namespace Sys2Proof.Machine

/-- The state after a bundle of one slot word whose checks and evaluation come to a result. -/
def State.settles (s : State) (k : Nat) (word : SlotWord) : Res → State
  | .ok effs draws => s.commit s.cur effs draws
  | .wait => s
  | .waitHeld => s.modCtx s.cur fun x => x.resumeAt s.cycle
  | .park p => s.modCtx s.cur fun x => { x with status := .parked p }
  | .trap f => s.fails k word f

section
variable (s : State) (k : Nat) (word : SlotWord)

@[simp] theorem State.settles_done (effs : List Effect) : s.settles k word (done effs) = s.did effs := rfl
@[simp] theorem State.settles_wait : s.settles k word .wait = s := rfl
@[simp] theorem State.settles_waitHeld : s.settles k word .waitHeld = s.modCtx s.cur fun x => x.resumeAt s.cycle := rfl
@[simp] theorem State.settles_park (p : Park) : s.settles k word (.park p) = s.modCtx s.cur fun x => { x with status := .parked p } := rfl
theorem State.settles_trap (f : SlotFault) : s.settles k word (.trap f) = s.fails k word f := rfl

/-- A trap without an uncorrectable word. -/
@[simp] theorem State.settles_code (code : BitVec 8) : s.settles k word (.trap (trap code)) = s.trapped k word (trap code) :=
  s.fails_nothingFound k word rfl

end

/-- A general slot word that runs settles as its body says. -/
theorem slotOp_settles {h : Shape} {g : G} {s : State} (w : Runs h g s) (m : SlotMap) (op : BitVec 8) (fixed : Bool) (body : Ctx → Res) :
    s.slotOp m op h g fixed body = .next (s.settles m.slot (State.slotOp.wordOf op g) (body s.me)) := by
  cases hb : body s.me with
  | ok effs draws => exact slotOp_runs w m op fixed hb
  | wait => exact slotOp_waits w m op fixed hb
  | waitHeld => exact slotOp_waitsHeld w m op fixed hb
  | park p => exact slotOp_parks w m op fixed hb
  | trap f => exact slotOp_fails w m op fixed hb

/-- A slot word of a form of its own, under its guard predicate, with its registers full. -/
theorem stage_settles {s : State} {n : Bool} {p : BitVec 3} {rs : List Reg} (w : Issues n p rs s) (k : Nat) (word : SlotWord)
    (dests : List Reg) (body : Res) :
    s.stage (s.me.evalWith k word (some (.p p)) (s.me.p p != n) (rs.filter fun r => !s.me.isFull r) false false dests body) =
      s.settles k word body := by
  have hon : (s.me.p p != n) = true := by simpa using w.on
  have hfull : (rs.filter fun r => !s.me.isFull r) = [] := by
    rw [List.filter_eq_nil_iff]
    exact fun r hr => by simp [w.full r hr]
  have hguard : ((some (Reg.p p)).toList.filter fun r => !s.me.isFull r) = [] := by simp [w.guard]
  rw [State.stage_closed w.closed, hfull, Ctx.evalWith, hguard, hon]
  cases body with
  | ok effs draws =>
    simp only [List.isEmpty_nil, Bool.not_true, Bool.false_eq_true, if_false]
    rw [verdict_commit rfl rfl rfl rfl rfl (.inl rfl)]
    simp [State.carry, State.settles]
  | wait =>
    simp only [List.isEmpty_nil, Bool.not_true, Bool.false_eq_true, if_false]
    rw [verdict_wait rfl rfl rfl]
    rfl
  | waitHeld =>
    simp only [List.isEmpty_nil, Bool.not_true, Bool.false_eq_true, if_false]
    rw [verdict_waitHeld rfl rfl rfl rfl]
    rfl
  | park q =>
    simp only [List.isEmpty_nil, Bool.not_true, Bool.false_eq_true, if_false]
    rw [verdict_park (p := q) rfl rfl rfl rfl (.inl rfl)]
    rfl
  | trap f =>
    simp only [List.isEmpty_nil, Bool.not_true, Bool.false_eq_true, if_false]
    rw [verdict_trap (f := f) rfl rfl rfl rfl rfl (.inl rfl)]
    simp [State.carry, State.settles, State.trapBundle, State.fails, trapWordsOf_single, SlotRec.idle]

/-- An operation that R55 and R253 forbid in a delay bundle. -/
theorem Ctx.outsideDelay_in {x : Ctx} (h : x.npc.isSome = true) (body : Res) : x.outsideDelay body = .trap (trap 0x01) := if_pos h

theorem Ctx.outsideDelay_out {x : Ctx} (h : x.npc = none) (body : Res) : x.outsideDelay body = body := if_neg (by simp [Ctx.inDelay, h])

/-! Bundles that name the next one (R54 to R57). -/

theorem Ctx.resumeAt_eq (x : Ctx) (cycle : Nat) :
    x.resumeAt cycle = { x with replayAt := if x.replay && x.replayAt.isNone then some cycle else x.replayAt } := by
  unfold Ctx.resumeAt
  split <;> rfl

/-- A bundle of one effect that names the next bundle. -/
theorem State.did_flow {s : State} (effs : List Effect) (F : Ctx → Ctx)
    (h : ∀ x : Ctx, x.pc = s.me.pc → x.npc = s.me.npc → x.loops = s.me.loops → x.advance effs = F x)
    (hF : ∀ (x : Ctx) r, ({ F { x with replayAt := r } with emul := 0 } : Ctx) = { F x with emul := 0, replayAt := r })
    (hl : ∀ e ∈ effs, e.leaves = false ∧ e.writes4 = false) (hr : bundleRead effs = none) :
    s.did effs = effs.foldl (fun a e => a.apply s.cur e) (s.modCtx s.cur fun x =>
      { F x with emul := 0, replayAt := if x.replay && x.replayAt.isNone then some s.cycle else x.replayAt }) := by
  rw [State.did, State.commit_flow s effs F h hl hr]
  simp only [Ctx.resumeAt_eq, hF]

/-- The delay bundle of a taken branch is next, then the target. -/
theorem State.did_branch {s : State} (hn : s.me.npc = none) (t : BAddr) (link : Option RVal) :
    s.did (.branch t :: link.toList.map .reg) = s.modCtx s.cur fun x => link.toList.foldl (fun y v => y.write v)
      { bundleOver x s.cycle with pc := x.pc + 1, npc := some t } := by
  rw [State.did_flow _ (fun x => { x with pc := x.pc + 1, npc := some t })
    (fun x _ hx _ => by rw [Ctx.advance, hx, hn]; rfl) (fun _ _ => rfl) (by cases link <;> simp [Effect.leaves, Effect.writes4, Effect.writeRange])
    (by cases link <;> rfl)]
  cases link with
  | none => rfl
  | some v => exact State.modCtx_modCtx s s.cur _ fun x => x.write v

/-- Whether the bundle stands at the end of the innermost loop. -/
theorem Ctx.atLoopEnd_iff (x : Ctx) : x.atLoopEnd = true ↔ atEndOfLoop x := by
  unfold Ctx.atLoopEnd atEndOfLoop
  cases x.loops <;> simp

/-- The state after a taken branch (R54, R55). -/
def State.branched (s : State) (t : Nat) (link : List (BitVec 6)) : State := s.modCtx s.cur fun x =>
  link.foldl (fun y d => y.write (.s d ((x.pc + 2).zeroExtend 64))) { bundleOver x s.cycle with pc := x.pc + 1, npc := some (BitVec.ofNat 15 t) }

theorem branchTo_laws (s : State) (word : SlotWord) (t : Nat) (link : Option (BitVec 6)) :
    let out : Out := .next (s.settles 0 word (s.me.branchTo s.cur.core t link))
    ((s.me.npc.isSome = true ∨ atEndOfLoop s.me) → out = .next (s.trapped 0 word (trap 0x01))) ∧
    (s.me.npc = none → ¬atEndOfLoop s.me →
      (topOf s.cur.core ≤ t → out = .next (s.trapped 0 word (trap 0x06))) ∧
      (t < topOf s.cur.core → out = .next (s.branched t link.toList))) := by
  intro out
  refine ⟨fun h => ?_, fun hn hend => ?_⟩
  · have hc : (s.me.inDelay || s.me.atLoopEnd) = true := by
      rw [Bool.or_eq_true, Ctx.atLoopEnd_iff]
      exact h
    rw [← State.settles_code]
    exact congrArg (fun b => Host.Outcome.next (s.settles 0 word b)) (if_pos hc)
  · have hc : ¬(s.me.inDelay || s.me.atLoopEnd) = true := by
      rw [Bool.or_eq_true, Ctx.atLoopEnd_iff, not_or]
      exact ⟨by simp [Ctx.inDelay, hn], hend⟩
    refine ⟨fun ht => ?_, fun ht => ?_⟩
    · rw [← State.settles_code]
      exact congrArg (fun b => Host.Outcome.next (s.settles 0 word b)) ((if_neg hc).trans (if_pos ht))
    · have hb : s.me.branchTo s.cur.core t link =
          done (.branch (BitVec.ofNat 15 t) :: (link.map fun d => RVal.s d ((s.me.pc + 2).zeroExtend 64)).toList.map .reg) := by
        rw [Ctx.branchTo, if_neg hc, if_neg (by omega)]
        cases link <;> rfl
      show Host.Outcome.next (s.settles 0 word _) = _
      rw [hb, State.settles_done, State.did_branch hn]
      cases link <;> rfl

/-- Settles O27: four forms of one branch. -/
theorem branches : Obligations.Branches := by
  refine ⟨fun j s w => ?_, fun j s w => ?_, fun g s w => ?_, fun g s w => ?_⟩
  · have e : exec (.br j) s = .next (s.settles 0 (BitVec.ofBool j.n ++ j.p ++ (0x01 : BitVec 8) ++ j.t) (s.me.branchTo s.cur.core j.t.toNat none)) := by
      rw [exec_br, execBr, State.branchJ, State.slotNo_closed w.closed]
      exact congrArg _ (stage_settles w 0 _ [] _)
    rw [e]
    exact branchTo_laws s _ _ none
  · have e : exec (.brl j) s = .next (s.settles 0 (BitVec.ofBool j.n ++ j.p ++ (0x02 : BitVec 8) ++ j.t) (s.me.branchTo s.cur.core j.t.toNat (some 62))) := by
      rw [exec_brl, execBrl, State.branchJ, State.slotNo_closed w.closed]
      exact congrArg _ (stage_settles w 0 _ [.s 62] _)
    rw [e]
    exact branchTo_laws s _ _ (some 62)
  · rw [exec_bri, execBri, slotOp_settles w]
    exact branchTo_laws s _ _ none
  · rw [exec_bril, execBril, slotOp_settles w]
    exact branchTo_laws s _ _ (some g.d)

end Sys2Proof.Machine
end

section
/-! Loops, special registers, traps of words and `rti` (R42, R57 to R65). -/

namespace Sys2Proof.Machine

/-- A bundle of one jump. -/
theorem State.did_jump {s : State} (hn : s.me.npc = none) (t : BAddr) :
    s.did [.jump t] = s.modCtx s.cur fun x => { bundleOver x s.cycle with pc := t } :=
  State.did_flow _ (fun x => { x with pc := t }) (fun x _ hx _ => by rw [Ctx.advance, hx, hn]; rfl) (fun _ _ => rfl) (by simp [Effect.leaves, Effect.writes4, Effect.writeRange])
    rfl

/-- A bundle that opens a loop. -/
theorem State.did_loopPush {s : State} (hn : s.me.npc = none) (e : LoopEntry) :
    s.did [.loopPush e] = s.modCtx s.cur fun x => { bundleOver x s.cycle with pc := x.pc + 1, loops := e :: x.loops } :=
  State.did_flow _ (fun x => { x with pc := x.pc + 1, loops := e :: x.loops }) (fun x _ hx _ => by rw [Ctx.advance, hx, hn]; rfl)
    (fun _ _ => rfl) (by simp [Effect.leaves, Effect.writes4, Effect.writeRange]) rfl

/-- The next bundle of a context outside a delay bundle is R57's step. -/
theorem Ctx.ahead_of_none {x : Ctx} (h : x.npc = none) : x.ahead = { x with pc := (loopStep x.loops x.pc).1, loops := (loopStep x.loops x.pc).2 } := by
  rw [← Ctx.advance_plain (effs := []) rfl, Ctx.advance, h]
  rfl

/-- A bundle that leaves the innermost loop. -/
theorem State.did_loopPop {s : State} {e : LoopEntry} {es : List LoopEntry} (hn : s.me.npc = none) (hl : s.me.loops = e :: es) :
    s.did [.loopPop] = s.modCtx s.cur fun x => bundleOver ({ x with loops := es } : Ctx).ahead s.cycle := by
  rw [State.did_flow _ (fun x => { x with pc := (loopStep es x.pc).1, loops := (loopStep es x.pc).2 })
    (fun x _ hx hxl => by rw [Ctx.advance, hx, hn, hxl, hl]; rfl) (fun _ _ => rfl) (by simp [Effect.leaves, Effect.writes4, Effect.writeRange]) rfl]
  have hme : ({ s.me with loops := es } : Ctx).ahead = { s.me with pc := (loopStep es s.me.pc).1, loops := (loopStep es s.me.pc).2 } :=
    Ctx.ahead_of_none (x := { s.me with loops := es }) hn
  simp only [State.modCtx, List.foldl_cons, List.foldl_nil, State.apply, hme]
  rfl

/-- A loop instruction by its end offset and its count (R57). -/
theorem loopBy_laws (s : State) (word : SlotWord) (e n : Nat) :
    let out : Out := .next (s.settles 0 word (s.me.loopBy e n))
    (s.me.npc.isSome = true → out = .next (s.trapped 0 word (trap 0x01))) ∧
    (s.me.npc = none →
      (n = 0 → out = .next (s.modCtx s.cur fun x => { bundleOver x s.cycle with pc := BitVec.ofNat 15 (x.pc.toNat + e + 1) })) ∧
      (n ≠ 0 → (2 ^ 32 ≤ n ∨ 4 ≤ s.me.loops.length) → out = .next (s.trapped 0 word (trap 0x06))) ∧
      (n ≠ 0 → n < 2 ^ 32 → s.me.loops.length < 4 → out = .next (s.modCtx s.cur fun x =>
        { bundleOver x s.cycle with pc := x.pc + 1, loops := ⟨x.pc + 1, BitVec.ofNat 15 (x.pc.toNat + e), BitVec.ofNat 32 n⟩ :: x.loops }))) := by
  intro out
  refine ⟨fun h => ?_, fun h => ⟨fun h0 => ?_, fun h0 hr => ?_, fun h0 h1 h2 => ?_⟩⟩
  · simp only [out, Ctx.loopBy, Ctx.outsideDelay_in h, State.settles_code]
  · simp only [out, Ctx.loopBy, Ctx.outsideDelay_out h, if_pos h0, State.settles_done, State.did_jump h]
    rfl
  · simp only [out, Ctx.loopBy, Ctx.outsideDelay_out h, if_neg h0, if_pos hr, State.settles_code]
  · simp only [out, Ctx.loopBy, Ctx.outsideDelay_out h, if_neg h0, if_neg (show ¬(2 ^ 32 ≤ n ∨ 4 ≤ s.me.loops.length) by omega),
      State.settles_done, State.did_loopPush h]
    rfl

/-- Settles O28: `lp` and `lpi` by their counts, `lpx` by the loop stack. -/
theorem loops : Obligations.Loops := by
  refine ⟨fun l s w => ?_, fun l s w => ?_, fun g s w => ⟨fun h => ?_, fun h hl => ?_, fun e es h hl => ?_⟩⟩
  · have e : exec (.lp l) s = .next (s.settles 0 (BitVec.ofBool l.n ++ l.p ++ (0x05 : BitVec 8) ++ l.c ++ l.e)
        (s.me.loopBy l.e.toNat (s.me.s l.c).toNat)) := by
      rw [exec_lp, execLp, State.slotNo_closed w.closed]
      exact congrArg _ (stage_settles w 0 _ [] _)
    rw [e]
    exact loopBy_laws s _ _ _
  · have e : exec (.lpi l) s = .next (s.settles 0 (BitVec.ofBool l.n ++ l.p ++ (0x06 : BitVec 8) ++ l.c ++ l.e)
        (s.me.loopBy l.e.toNat (if l.c = 0 then 1024 else l.c.toNat))) := by
      rw [exec_lpi, execLpi, State.slotNo_closed w.closed]
      exact congrArg _ (stage_settles w 0 _ [] _)
    rw [e]
    exact loopBy_laws s _ _ _
  · rw [exec_lpx, execLpx, slotOp_settles w, Ctx.outsideDelay_in h, State.settles_code]
    rfl
  · rw [exec_lpx, execLpx, slotOp_settles w, Ctx.outsideDelay_out h, if_pos (by rw [hl]; rfl), State.settles_code]
    rfl
  · rw [exec_lpx, execLpx, slotOp_settles w, Ctx.outsideDelay_out h, if_neg (by simp [hl]), State.settles_done, State.did_loopPop h hl]

/-- The fields of SEGATTR after the first n segments have been looked at. -/
theorem mergeKinds_prefix (own : BitVec 32) (v old : W64) {n : Nat} (hn : n ≤ 32) (b : Nat) (hb : b < 64) :
    ((List.range n).foldl (fun acc i => if own.getLsbD i then
      setBit (setBit acc (2 * i) (v.getLsbD (2 * i))) (2 * i + 1) (v.getLsbD (2 * i + 1)) else acc) old).getLsbD b =
      if b / 2 < n ∧ own.getLsbD (b / 2) = true then v.getLsbD b else old.getLsbD b := by
  induction n with
  | zero => simp
  | succ n ih =>
    rw [List.range_succ, List.foldl_append, List.foldl_cons, List.foldl_nil]
    by_cases ho : own.getLsbD n = true
    · rw [if_pos ho, getLsbD_setBit _ _ _ _ (by omega), getLsbD_setBit _ _ _ _ (by omega), ih (by omega)]
      by_cases h1 : b = 2 * n + 1
      · subst h1
        rw [if_pos rfl, if_pos ⟨by omega, by rwa [show (2 * n + 1) / 2 = n by omega]⟩]
      · by_cases h2 : b = 2 * n
        · subst h2
          rw [if_neg (by omega), if_pos rfl, if_pos ⟨by omega, by rwa [show 2 * n / 2 = n by omega]⟩]
        · rw [if_neg h1, if_neg h2]
          congr 1
          rw [eq_iff_iff]
          constructor <;> rintro ⟨h, h'⟩ <;> exact ⟨by omega, h'⟩
    · rw [if_neg ho, ih (by omega)]
      congr 1
      rw [eq_iff_iff]
      constructor
      · rintro ⟨h, h'⟩
        exact ⟨by omega, h'⟩
      · rintro ⟨h, h'⟩
        refine ⟨?_, h'⟩
        by_contra hc
        exact ho (by rwa [show b / 2 = n by omega] at h')

theorem mergeKinds_bit (own : BitVec 32) (v old : W64) {b : Nat} (hb : b < 64) :
    (mergeKinds own v old).getLsbD b = if own.getLsbD (b / 2) = true then v.getLsbD b else old.getLsbD b := by
  rw [mergeKinds, mergeKinds_prefix own v old (le_refl _) b hb]
  simp only [show b / 2 < 32 by omega, true_and]

theorem badKinds_iff (own : BitVec 32) (v : W64) : badKinds own v = true ↔
    ∃ j < 32, own.getLsbD j = true ∧ v.getLsbD (2 * j) = true ∧ v.getLsbD (2 * j + 1) = true := by
  simp [badKinds, and_assoc]

/-- `mts` by its check and its write. -/
theorem mts_settles {g : G} {s : State} (w : Runs .srcDImm12 g s) :
    exec (.mts g) s = .next (match s.mtsFault s.cur g.imm12 (s.me.s g.d) with
      | some f => s.fails 0 (State.slotOp.wordOf 0x10 g) f
      | none => s.onward.writeSpec s.cur g.imm12 (s.me.s g.d)) := by
  rw [exec_mts, execMts, slotOp_settles w]
  show Host.Outcome.next (s.settles 0 _ (match s.mtsFault s.cur g.imm12 (s.me.s g.d) with
    | some f => .trap f
    | none => done [.spec g.imm12 (s.me.s g.d)])) = _
  cases s.mtsFault s.cur g.imm12 (s.me.s g.d) with
  | some f => rfl
  | none => exact congrArg _ (State.commit_one s rfl rfl 0)

theorem mts_traps {g : G} {s : State} (w : Runs .srcDImm12 g s) {code : BitVec 8}
    (h : s.mtsFault s.cur g.imm12 (s.me.s g.d) = some (trap code)) :
    exec (.mts g) s = .next (s.trapped 0 (State.slotOp.wordOf 0x10 g) (trap code)) := by
  rw [mts_settles w, h]
  exact congrArg _ (s.fails_nothingFound 0 _ rfl)

theorem mts_writes {g : G} {s : State} (w : Runs .srcDImm12 g s) (h : s.mtsFault s.cur g.imm12 (s.me.s g.d) = none) {t : State}
    (ht : s.onward.writeSpec s.cur g.imm12 (s.me.s g.d) = t) : exec (.mts g) s = .next t := by
  rw [mts_settles w, h, ← ht]

/-- A register without rules of its own passes the checks of `mts` if it can be written. -/
theorem mtsFault_none {s : State} {n : BitVec 12} {v : W64} (h : noRwSpecs.contains n = false) (hv : n.toNat ≠ 0x004) (hk : n.toNat ≠ 0x011)
    (ha : n.toNat ≠ 0x050) : s.mtsFault s.cur n v = none := by
  rw [State.mtsFault, h]
  simp only [Bool.false_eq_true, if_false]

/-- The value of every special register in the table (R58). -/
theorem readSpec_table (s : State) (n : BitVec 12) {r : Nat × W64} (hr : r ∈ specials s) (hn : n.toNat = r.1) : s.readSpec s.cur n = r.2 := by
  have hid (a b : Bool) : ((if a then 2 else 0) ||| (if b then 1 else 0) : W64) = (if a then 2 else 0) + (if b then 1 else 0) := by
    cases a <;> cases b <;> rfl
  unfold State.readSpec
  rw [hn]
  simp only [specials, List.mem_cons, List.not_mem_nil, or_false] at hr
  rcases hr with rfl | rfl | rfl | rfl | rfl | rfl | rfl | rfl | rfl | rfl | rfl | rfl | rfl | rfl | rfl | rfl | rfl | rfl | rfl | rfl | rfl | rfl
  case inr.inr.inr.inr.inr.inr.inr.inr.inr.inr.inr.inr.inl => exact hid _ _
  all_goals rfl

/-- What `mts` does to each register that it can write (R58 to R62). -/
theorem mts_laws {g : G} {s : State} (w : Runs .srcDImm12 g s) :
    let v := s.me.s g.d
    let out := exec (.mts g) s
    let sets (f : Ctx → Ctx) : Prop := out = .next (s.onward.modCtx s.cur f)
    (g.imm12 = 0x000 → sets fun x => { x with spec.status := (x.spec.status &&& ~~~ (7 : W64)) ||| (v &&& 7) }) ∧
    (g.imm12 = 0x001 → sets fun x => { x with
      spec.fflags := (v &&& 0x1F) ||| if x.flagsAt = s.cycle then x.flagsNow.zeroExtend 64 else 0 }) ∧
    (g.imm12 = 0x002 → sets fun x => { x with spec.trapinfo := (x.spec.trapinfo &&& ~~~ (0xFF0800 : W64)) ||| (v &&& 0xFF0800) }) ∧
    (g.imm12 = 0x010 → sets fun x => { x with spec.vlive := v }) ∧
    (g.imm12 = 0x040 → sets fun x => { x with spec.rngseed := v }) ∧
    (g.imm12 = 0x041 → sets fun x => { x with spec.rngctr := v }) := by
  intro v out sets
  refine ⟨fun h => ?_, fun h => ?_, fun h => ?_, fun h => ?_, fun h => ?_, fun h => ?_⟩
  all_goals
    refine mts_writes w (mtsFault_none ?_ ?_ ?_ ?_) ?_ <;> rw [h]
    any_goals decide
    rfl

/-- A context's change leaves what a core holds beside its contexts as it is. -/
theorem State.core_modCtx_own {α : Type} (s : State) (r : CtxRef) (f : Ctx → Ctx) (φ : Core → α) (h : ∀ k q x, φ (Core.setCtx k q x) = φ k)
    (c : CoreRef) : φ ((s.modCtx r f).core c) = φ (s.core c) := by
  by_cases hc : c = r.core
  · subst hc
    simp [State.modCtx, State.setCtx, h]
  · simp [State.modCtx, State.setCtx, State.core_setCore_ne _ _ hc]

/-- The kinds of a context's segments (R62, R90). -/
theorem mts_segattr {g : G} {s : State} (w : Runs .srcDImm12 g s) (h : g.imm12 = 0x011) :
    let v := s.me.s g.d
    let out := exec (.mts g) s
    let bad := ∃ j < 32, s.me.owns j = true ∧ v.getLsbD (2 * j) = true ∧ v.getLsbD (2 * j + 1) = true
    (bad → out = .next (s.trapped 0 (State.slotOp.wordOf 0x10 g) (trap 0x06))) ∧
    (¬bad → ∃ k : W64, (∀ j < 32, s.me.owns j = true → k.getLsbD (2 * j) = v.getLsbD (2 * j) ∧ k.getLsbD (2 * j + 1) = v.getLsbD (2 * j + 1)) ∧
      (∀ j < 32, s.me.owns j = false → k.getLsbD (2 * j) = (s.core s.cur.core).segKind.getLsbD (2 * j) ∧
        k.getLsbD (2 * j + 1) = (s.core s.cur.core).segKind.getLsbD (2 * j + 1)) ∧
      out = .next (s.onward.modCore s.cur.core fun c => { c with segKind := k })) := by
  intro v out bad
  refine ⟨fun hb => mts_traps w (by rw [h]; exact if_pos ((badKinds_iff _ _).mpr hb)), fun hb =>
    ⟨mergeKinds s.me.spec.segown v (s.core s.cur.core).segKind, fun j hj ho => ?_, fun j hj ho => ?_,
      mts_writes w (by rw [h]; exact if_neg (mt (badKinds_iff _ _).mp hb)) ?_⟩⟩
  · rw [mergeKinds_bit _ _ _ (by omega), mergeKinds_bit _ _ _ (by omega), show 2 * j / 2 = j by omega, show (2 * j + 1) / 2 = j by omega]
    exact ⟨if_pos ho, if_pos ho⟩
  · rw [mergeKinds_bit _ _ _ (by omega), mergeKinds_bit _ _ _ (by omega), show 2 * j / 2 = j by omega, show (2 * j + 1) / 2 = j by omega]
    exact ⟨if_neg (Bool.eq_false_iff.mp ho), if_neg (Bool.eq_false_iff.mp ho)⟩
  · rw [h]
    have hown : (s.onward.ctx s.cur).spec.segown = s.me.spec.segown := by
      rw [State.onward_ctx]
      exact Ctx.onward_own (fun x => x.spec.segown) (fun _ _ _ _ _ _ _ => rfl) ..
    have hkind : (s.onward.core s.cur.core).segKind = (s.core s.cur.core).segKind :=
      State.core_modCtx_own s s.cur _ Core.segKind (fun _ q _ => by cases q <;> rfl) _
    show s.onward.modCore s.cur.core (fun k => { k with segKind := mergeKinds (s.onward.ctx s.cur).spec.segown v k.segKind }) = _
    simp only [State.modCore, hown, hkind]

/-- Settles O29: `mfs` by its table, `mts` register by register. -/
theorem specialRegisters : Obligations.SpecialRegisters := by
  refine ⟨fun g s w r hr hg => ?_, fun g s w => ?_⟩
  · rw [exec_mfs, execMfs, slotOp_settles w, State.settles_done, State.did, State.commit_launch, readSpec_table s g.imm12 hr hg]
  · intro v out traps sets
    obtain ⟨h0, h1, h2, h10, h40, h41⟩ := mts_laws w
    refine ⟨fun h => ?_, h0, h1, h2, fun h => ⟨fun ht => ?_, fun ht => ?_⟩, h10, fun h => ?_, h40, h41,
      fun h => ⟨fun ha => ?_, fun ha => ?_⟩⟩
    · refine mts_traps w (if_pos ?_)
      rw [List.contains_iff_mem, ← List.mem_map_of_injective (f := BitVec.toNat) fun _ _ => BitVec.eq_of_toNat_eq]
      exact h
    · exact mts_traps w (by rw [h]; exact if_pos ht)
    · exact mts_writes w (by rw [h]; exact if_neg (Nat.not_le.mpr ht)) (by rw [h]; rfl)
    · exact mts_segattr w h
    · exact mts_traps w (by rw [h]; exact if_pos ha)
    · exact mts_writes w (by rw [h]; exact if_neg (Bool.eq_false_iff.mp ha)) (by rw [h]; rfl)

/-- EXTOP of an extension opcode in slots 2 and 3: the low halves of two vectors (R45). -/
theorem extensionOpcode_open {op : BitVec 5} {g : G} {s : State} (ho : s.issue.opened = true) (hs : s.issue.slot = 2 ∨ s.issue.slot = 3)
    (hk : s.me.isFull (.k g.p) = true) (ha : s.me.isFull (.v g.a) = true) (hb : s.me.isFull (.v g.b) = true) :
    exec (.extensionOpcode op g) s = .next { s with issue := { s.issue with recs := s.issue.recs ++
      [{ SlotRec.idle s.issue.slot (State.slotOp.wordOf (7#3 ++ op) g) with
        fault := some ⟨0x02, (s.me.v g.a).extractLsb' 0 64, (s.me.v g.b).extractLsb' 0 64, []⟩ }] } } := by
  have hslot (m : SlotMap) : s.slotNo m = s.issue.slot := if_pos ho
  have hv : (s.slotNo .any == 2 || s.slotNo .any == 3) = true := by rw [hslot]; simpa using hs
  have heval : Shape.srcVV.eval s.me s.issue.slot (State.slotOp.wordOf (7#3 ++ op) g) g false (Shape.srcVV.extop s.me g) =
      { SlotRec.idle s.issue.slot (State.slotOp.wordOf (7#3 ++ op) g) with
        fault := some ⟨0x02, (s.me.v g.a).extractLsb' 0 64, (s.me.v g.b).extractLsb' 0 64, []⟩ } := by
    have hguard : ((some (Reg.k g.p)).toList.filter fun r => !s.me.isFull r) = [] := by simp [hk]
    have hblock : Shape.srcVV.blockers g s.me = [] := by
      rw [Shape.blockers, List.filter_eq_nil_iff]
      intro r hr
      have : r = .v g.a ∨ r = .v g.b := by
        simp [Shape.sources, Shape.dests, Shape.srcVV, FieldKind.reg] at hr
        tauto
      rcases this with rfl | rfl <;> simp [ha, hb]
    have hstarved : Shape.srcVV.starved g s.me = false := by
      simp [Shape.starved, Shape.sources, Shape.srcVV, FieldKind.reg, ha, hb]
    show s.me.evalWith _ _ (some (.k g.p)) true _ _ false [] _ = _
    rw [hblock, hstarved, Ctx.evalWith, hguard]
    rfl
  rw [exec_extensionOpcode, execExtensionOpcode, hv, State.slotOp, State.stage_open ho, hslot]
  exact congrArg (fun a => Host.Outcome.next ({ s with issue := { s.issue with recs := s.issue.recs ++ [a] } } : State)) heval

/-- Settles O30: each word's answer. -/
theorem trapsOfWords : Obligations.TrapsOfWords := by
  refine ⟨fun s hc => ?_, fun word s hc => ?_, fun op g s w => ?_, fun op g s ho hs hk ha hb => extensionOpcode_open ho hs hk ha hb, fun g s w => ?_⟩
  · rw [exec_nop, execNop, State.stage_closed hc, verdict_commit rfl rfl rfl rfl rfl (.inl rfl)]
    exact congrArg _ (State.commit_nil s 0)
  · rw [exec_illop, execIllop, State.slotIllop, State.stage_closed hc, verdict_illop rfl, State.slotNo_closed hc]
    exact congrArg _ (State.trapBundle_single rfl)
  · have hv : ¬(s.slotNo .any == 2 || s.slotNo .any == 3) = true := by rw [State.slotNo_closed w.closed]; decide
    rw [exec_extensionOpcode, execExtensionOpcode]
    simp only [if_neg hv]
    rw [slotOp_settles w]
    exact congrArg _ (s.fails_nothingFound 0 _ rfl)
  · rw [exec_trap, execTrap, slotOp_settles w, State.settles_code]
    rfl

/-- Settles O31: what `rti` makes of the context that its bundle leaves. -/
theorem returnFromTrap : Obligations.ReturnFromTrap := by
  intro g s w word skip dly pc npc
  refine ⟨fun h => ?_, fun hn ht => ?_⟩
  · rw [exec_rti, execRti, slotOp_settles w]
    rcases hn : s.me.npc with _ | t
    · have htm : s.me.tmask = false := h.resolve_left (by simp [hn])
      rw [Ctx.outsideDelay_out hn, htm, if_neg (by simp), State.settles_code]
      rfl
    · rw [Ctx.outsideDelay_in (by simp [hn]), State.settles_code]
      rfl
  · rw [exec_rti, execRti, slotOp_settles w, Ctx.outsideDelay_out hn, ht, if_pos rfl, State.settles_done, State.did, State.commit_one _ rfl rfl]
    show Host.Outcome.next (s.onward.modCtx s.cur fun x => x.rti s.cycle) = _
    have hinfo : (s.onward.ctx s.cur).spec.trapinfo = s.me.spec.trapinfo := by
      rw [State.onward_ctx]
      exact Ctx.onward_own (fun x => x.spec.trapinfo) (fun _ _ _ _ _ _ _ => rfl) ..
    have hpc : (s.onward.ctx s.cur).spec.trappc = s.me.spec.trappc := by
      rw [State.onward_ctx]
      exact Ctx.onward_own (fun x => x.spec.trappc) (fun _ _ _ _ _ _ _ => rfl) ..
    unfold State.modCtx
    generalize s.onward.ctx s.cur = x at hinfo hpc
    refine congrArg (fun y => Host.Outcome.next (s.onward.setCtx s.cur y)) ?_
    have hskip : bit x.spec.trapinfo 11 = skip := by rw [bit, hinfo]
    have hdly : bit x.spec.trappc 63 = dly := by rw [bit, hpc]
    unfold Ctx.rti
    simp only [hskip, hdly]
    cases skip <;> cases dly <;> simp only [Bool.false_eq_true, if_false, if_true, hpc, hinfo]
    · rfl
    · rfl
    · rw [Ctx.ahead_of_none rfl] <;> rfl
    · rfl

end Sys2Proof.Machine
end

section
/-! Fences, barriers and suspension (R112, R141 to R149, R154, R253 to R264). -/

namespace Sys2Proof.Machine

/-- A bundle of one effect. -/
theorem State.did_one (s : State) {e : Effect} (h : Ctx.advance.flow e = none) (hr : bundleRead [e] = none) :
    s.did [e] = s.onward.apply s.cur e := State.commit_one s h hr 0

theorem State.did_nil (s : State) : s.did [] = s.onward := State.commit_nil s 0

/-- What a context is like is the same after its bundle, but for the next bundle and the generator's count. -/
theorem State.onward_own {α : Type} (s : State) (φ : Ctx → α) (h : ∀ (x : Ctx) pc npc loops emul replayAt rngctr,
      φ { x with pc := pc, npc := npc, loops := loops, emul := emul, replayAt := replayAt, spec.rngctr := rngctr } = φ x) :
    φ (s.onward.ctx s.cur) = φ s.me := by
  rw [State.onward_ctx]
  exact Ctx.onward_own φ h ..

/-- A fence waits for what it orders, else notes what its side and scope have ordered (R141, R142, R145). -/
theorem fence_laws {i : G → Instr} {op : BitVec 8} {rel acq : Bool} (hi : ∀ g s, exec (i g) s = s.fence op g rel acq) (g : G) (s : State)
    (w : Runs .immB4 g s) :
    let wide : Bool := g.b != 0
    ((rel = true ∧ s.writesOut s.cur g.b.toNat = true ∨ acq = true ∧ s.me.readsOut = true) → exec (i g) s = .next s) ∧
    (¬(rel = true ∧ s.writesOut s.cur g.b.toNat = true ∨ acq = true ∧ s.me.readsOut = true) →
      exec (i g) s = .next (s.did ((if acq && !wide && s.me.readFar then [.status stScx] else []) ++ [.fence wide rel]))) := by
  intro wide
  have hwide : (g.b.toNat != 0) = wide := by
    rw [Bool.eq_iff_iff, bne_iff_ne, bne_iff_ne, not_iff_not]
    exact BitVec.toNat_eq (y := 0#6) |>.symm
  have hzero : (g.b.toNat == 0) = !wide := by rw [← hwide]; simp [bne]
  rw [hi, State.fence, slotOp_settles w, hwide, hzero]
  refine ⟨fun h => ?_, fun h => ?_⟩
  · rw [if_pos (by simpa using h), State.settles_wait]
  · rw [if_neg (by simpa using h), State.settles_done]

/-- Settles O32: the fences, then `xfence`, `gbar` and `cbar`. -/
theorem fencesBarriers : Obligations.FencesBarriers := by
  refine ⟨fence_laws exec_fenceRel, fence_laws exec_fenceAcq, fence_laws exec_fenceSc, fun g s w => ⟨fun hb hw => ?_, fun h => ?_⟩,
    fun g s w => ?_, fun g s w => ?_⟩
  · have hb' : (g.b != 1) = true := bne_iff_ne.mpr hb
    rw [exec_xfence, execXfence, slotOp_settles w, if_pos (by rw [hb', hw]; rfl), State.settles_wait]
  · rw [exec_xfence, execXfence, slotOp_settles w, if_neg (by rcases h with h | h <;> simp [h]), State.settles_done, State.did_nil]
  · rw [exec_gbar, execGbar, slotOp_settles w]
    intro a word member
    have hmem : (decide (256 ≤ (s.me.sa g).toNat) || !grpHas ((s.tower (towerOf s.cur.core)).group (s.me.sa g).toNat) s.cur.core.val) =
        !member := by
      show (decide (256 ≤ a) || !grpHas ((s.tower (towerOf s.cur.core)).group a) s.cur.core.val) = !member
      rw [Bool.eq_iff_iff]
      simp [member]
    refine ⟨fun h => ?_, fun h hw => ?_, fun h hw hm => ?_, fun h hw hm => ?_⟩
    · rw [Ctx.outsideDelay_in h, State.settles_code]
      rfl
    · rw [Ctx.outsideDelay_out h, if_pos hw, State.settles_wait]
    · rw [Ctx.outsideDelay_out h, if_neg (by simp [hw]), if_pos (by rw [hmem, hm]; rfl), State.settles_code]
      rfl
    · rw [Ctx.outsideDelay_out h, if_neg (by simp [hw]), if_neg (by rw [hmem, hm]; decide), State.settles_done, State.did_one s rfl rfl]
      rfl
  · rw [exec_cbar, execCbar, slotOp_settles w]
    intro word
    refine ⟨fun h => ?_, fun h hw => ?_, fun h hw ha => ?_, fun a h hw ha => ?_⟩
    · rw [Ctx.outsideDelay_in h, State.settles_code]
      rfl
    · rw [Ctx.outsideDelay_out h, if_pos hw, State.settles_wait]
    · rw [Ctx.outsideDelay_out h, if_neg (by simp [hw]), if_pos (by simp [ha]), State.settles_code]
      rfl
    · have hat : (s.onward.ctx s.cur).atelier = some a := (s.onward_own Ctx.atelier fun _ _ _ _ _ _ _ => rfl).trans ha
      rw [Ctx.outsideDelay_out h, if_neg (by simp [hw]), if_neg (by simp [ha]), State.settles_done, State.did_one s rfl rfl]
      simp only [State.apply, hat]
      rfl

/-- A suspension that waits for quiet, then for held results. -/
theorem onceQuiet_busy {s : State} (h : s.quiet s.cur = false) (x : Ctx) (go : Res) : s.onceQuiet x go = .wait := if_pos (by simp [h])

theorem onceQuiet_held {s : State} {x : Ctx} (h : s.quiet s.cur = true) (hx : x.landsHeld = true) (go : Res) : s.onceQuiet x go = .waitHeld := by
  rw [State.onceQuiet, if_neg (by simp [h]), if_pos hx]

theorem onceQuiet_goes {s : State} {x : Ctx} (h : s.quiet s.cur = true) (hx : x.landsHeld = false) (go : Res) : s.onceQuiet x go = go := by
  rw [State.onceQuiet, if_neg (by simp [h]), if_neg (by simp [hx])]

theorem State.ctx_requeue (s : State) (id : Nat) (r : CtxRef) : (s.requeue id).ctx r = s.ctx r := by
  unfold State.requeue
  split
  · rfl
  · rw [State.ctx_modTower]
    rfl

/-- A yielded context is free. -/
theorem State.ctx_yieldCtx (s : State) (r : CtxRef) : (s.yieldCtx r).ctx r = Ctx.blank := by
  unfold State.yieldCtx State.freeCtx
  rw [State.ctx_requeue, State.ctx_setCtx]

/-- The checks of an address find no uncorrectable word. -/
theorem addrChecks_found {x : Ctx} {align a len : Nat} {f : SlotFault} (h : addrChecks x align a len = some f) : f.found = [] := by
  unfold addrChecks at h
  split at h
  · cases h; rfl
  · split at h
    · cases h; rfl
    · split at h
      · cases h; rfl
      · cases h

section
variable {g : G} {s : State}

theorem yield_laws (w : Runs .bare g s) :
    (s.me.npc.isSome = true → exec (.yield g) s = .next (s.trapped 0 (State.slotOp.wordOf 0x08 g) (trap 0x01))) ∧
    (s.me.npc = none → s.quiet s.cur = false → exec (.yield g) s = .next s) ∧
    (s.me.npc = none → s.quiet s.cur = true → s.me.landsHeld = true → exec (.yield g) s = .next (s.modCtx s.cur fun x => x.resumeAt s.cycle)) ∧
    (s.me.npc = none → s.quiet s.cur = true → s.me.landsHeld = false →
      ∃ t, exec (.yield g) s = .next t ∧ t = s.onward.yieldCtx s.cur ∧ t.ctx s.cur = Ctx.blank) := by
  rw [exec_yield, execYield, slotOp_settles w]
  refine ⟨fun h => ?_, fun h hq => ?_, fun h hq hh => ?_, fun h hq hh => ⟨_, rfl, ?_⟩⟩
  · rw [Ctx.outsideDelay_in h, State.settles_code]
    rfl
  · rw [Ctx.outsideDelay_out h, onceQuiet_busy hq, State.settles_wait]
  · rw [Ctx.outsideDelay_out h, onceQuiet_held hq hh, State.settles_waitHeld]
  · rw [Ctx.outsideDelay_out h, onceQuiet_goes hq hh, State.settles_done, State.did_one s rfl rfl]
    exact ⟨rfl, State.ctx_yieldCtx s.onward s.cur⟩

theorem waitF_laws (w : Runs .immB63 g s) :
    (s.me.npc.isSome = true → exec (.waitF g) s = .next (s.trapped 0 (State.slotOp.wordOf 0x0A g) (trap 0x01))) ∧
    (s.me.npc = none → s.me.flagFile.getLsbD g.b.toNat = true →
      exec (.waitF g) s = .next (s.onward.modCtx s.cur fun x => { x with flagFile := setBit x.flagFile g.b.toNat false })) ∧
    (s.me.npc = none → s.me.flagFile.getLsbD g.b.toNat = false →
      exec (.waitF g) s = .next (s.modCtx s.cur fun x => { x with status := .parked (.waitF g.b) })) := by
  rw [exec_waitF, execWaitF, slotOp_settles w]
  refine ⟨fun h => ?_, fun h hf => ?_, fun h hf => ?_⟩
  · rw [Ctx.outsideDelay_in h, State.settles_code]
    rfl
  · rw [Ctx.outsideDelay_out h, if_pos hf, State.settles_done, State.did_one s rfl rfl]
    rfl
  · rw [Ctx.outsideDelay_out h, if_neg (by simp [hf]), State.settles_park]

theorem tickw_laws (w : Runs .srcA g s) :
    let frame : W64 := match s.job s.me.job with | some j => j.frame | none => 0
    (s.me.npc.isSome = true → exec (.tickw g) s = .next (s.trapped 0 (State.slotOp.wordOf 0x1C g) (trap 0x01))) ∧
    (s.me.npc = none → s.me.s g.a ≤ frame → exec (.tickw g) s = .next s.onward) ∧
    (s.me.npc = none → ¬s.me.s g.a ≤ frame →
      exec (.tickw g) s = .next (s.modCtx s.cur fun x => { x with status := .parked (.tick (s.me.s g.a)) })) := by
  intro frame
  rw [exec_tickw, execTickw, slotOp_settles w]
  change let out := Host.Outcome.next (s.settles 0 _ (s.me.outsideDelay
    (if decide (s.me.s g.a ≤ frame) = true then done [] else .park (.tick (s.me.s g.a))))); (_ → out = _) ∧ (_ → _ → out = _) ∧ (_ → _ → out = _)
  refine ⟨fun h => ?_, fun h hf => ?_, fun h hf => ?_⟩
  · rw [Ctx.outsideDelay_in h, State.settles_code]
  · rw [Ctx.outsideDelay_out h, if_pos (decide_eq_true hf), State.settles_done, State.did_nil]
  · rw [Ctx.outsideDelay_out h, if_neg (by simpa using hf), State.settles_park]

theorem brk_laws (w : Runs .bare g s) :
    (s.me.dbg = false → exec (.brk g) s = .next s.onward) ∧
    (s.me.dbg = true → exec (.brk g) s = .next ((s.onward.modCtx s.cur fun x => { x with status := .parked .brk }).postJob s.me.job
      { type := 0x04, scope := s.me.spec.scope.toNat, pay := ofDws 256 [BitVec.ofNat 64 s.me.node, (s.onward.ctx s.cur).resumeWord,
          at_ 64 0 s.cur.core.val ||| at_ 64 9 (if s.cur.q then 1 else 0), 0] })) := by
  rw [exec_brk, execBrk, slotOp_settles w, State.settles_done]
  refine ⟨fun h => ?_, fun h => ?_⟩
  · rw [if_neg (by simp [h]), State.did_nil]
  · have hjob := s.onward_own Ctx.job fun _ _ _ _ _ _ _ => rfl
    have hscope := s.onward_own (fun x => x.spec.scope) fun _ _ _ _ _ _ _ => rfl
    have hnode := s.onward_own Ctx.node fun _ _ _ _ _ _ _ => rfl
    rw [if_pos h, State.did_one s rfl rfl, ← hjob, ← hscope, ← hnode]
    rfl

theorem retire_laws (w : Runs .bare g s) :
    let waits := s.quiet s.cur = false ∨ s.me.refusals ≠ [] ∨ ∃ t ∈ s.me.asyncQ, t.code = 0x26
    (s.me.npc.isSome = true → exec (.retire g) s = .next (s.trapped 0 (State.slotOp.wordOf 0x0B g) (trap 0x01))) ∧
    (s.me.npc = none → waits → exec (.retire g) s = .next s) ∧
    (s.me.npc = none → ¬waits → s.me.landsHeld = true → exec (.retire g) s = .next (s.modCtx s.cur fun x => x.resumeAt s.cycle)) ∧
    (s.me.npc = none → ¬waits → s.me.landsHeld = false → s.me.atelier.isSome = true → s.me.cbarDone = false →
      exec (.retire g) s = .next (s.trapped 0 (State.slotOp.wordOf 0x0B g) (trap 0x0B))) ∧
    (s.me.npc = none → ¬waits → s.me.landsHeld = false → (s.me.atelier = none ∨ s.me.cbarDone = true) →
      exec (.retire g) s = .next (s.onward.retire s.cur)) := by
  intro waits
  have hout : (!s.me.refusals.isEmpty || s.me.asyncQ.any fun t => t.code == 0x26) = true ↔
      s.me.refusals ≠ [] ∨ ∃ t ∈ s.me.asyncQ, t.code = 0x26 := by simp
  have hquiet (h : ¬waits) : s.quiet s.cur = true := by
    simpa using mt Or.inl h
  have hnone (h : ¬waits) : ¬(!s.me.refusals.isEmpty || s.me.asyncQ.any fun t => t.code == 0x26) = true := fun hc =>
    h (.inr (hout.mp hc))
  rw [exec_retire, execRetire, slotOp_settles w]
  refine ⟨fun h => ?_, fun h hw => ?_, fun h hw hh => ?_, fun h hw hh ha hb => ?_, fun h hw hh ha => ?_⟩
  · rw [Ctx.outsideDelay_in h, State.settles_code]
    rfl
  · rw [Ctx.outsideDelay_out h]
    by_cases hc : (!s.me.refusals.isEmpty || s.me.asyncQ.any fun t => t.code == 0x26) = true
    · rw [if_pos hc, State.settles_wait]
    · rw [if_neg hc, onceQuiet_busy (hw.resolve_right (mt hout.mpr hc)), State.settles_wait]
  · rw [Ctx.outsideDelay_out h, if_neg (hnone hw), onceQuiet_held (hquiet hw) hh, State.settles_waitHeld]
  · rw [Ctx.outsideDelay_out h, if_neg (hnone hw), onceQuiet_goes (hquiet hw) hh, if_pos (by simp [ha, hb]), State.settles_code]
    rfl
  · rw [Ctx.outsideDelay_out h, if_neg (hnone hw), onceQuiet_goes (hquiet hw) hh, if_neg (by rcases ha with ha | ha <;> simp [ha]),
      State.settles_done, State.did_one s rfl rfl]
    rfl

/-- `wait.ge` on a scratchpad (R154). -/
theorem waitGe_local (w : Runs .srcAB g s) (hc : isCtl s.cur.core = false) :
    let a := (s.me.s g.a).toNat
    let k := s.core s.cur.core
    let word := State.slotOp.wordOf 0x09 g
    (s.me.npc.isSome = true → exec (.waitGe g) s = .next (s.trapped 0 word (trap 0x01))) ∧
    (∀ f, s.me.npc = none → addrChecks s.me 8 a 8 = some f → exec (.waitGe g) s = .next (s.trapped 0 word f)) ∧
    (s.me.npc = none → addrChecks s.me 8 a 8 = none →
      (k.mem.foundRead a 8 ≠ [] ∨ k.mem.poisoned a = true →
        exec (.waitGe g) s = .next (s.fails 0 word { trap 0x08 with found := k.mem.foundRead a 8 })) ∧
      (k.mem.foundRead a 8 = [] → k.mem.poisoned a = false → k.counter a = none → exec (.waitGe g) s = .next (s.trapped 0 word (trap 0x07))) ∧
      (∀ v, k.mem.foundRead a 8 = [] → k.mem.poisoned a = false → k.counter a = some v →
        exec (.waitGe g) s = .next (if s.me.s g.b ≤ v then s.did [.touch a 8] else s.did [.touch a 8, .park (.waitGe a (s.me.s g.b))]))) := by
  intro a k word
  have hv : s.counterAt s.cur.core a = k.counter a := if_neg (by simp [hc])
  rw [exec_waitGe, execWaitGe, slotOp_settles w]
  refine ⟨fun h => ?_, fun f h hf => ?_, fun h hn => ⟨fun hp => ?_, fun hf hp hk => ?_, fun v hf hp hk => ?_⟩⟩
  · rw [Ctx.outsideDelay_in h, State.settles_code]
    rfl
  all_goals
    rw [Ctx.outsideDelay_out h, if_neg (by simp [hc])]
    rw [Ctx.sa_eq, Ctx.sb_eq]
  · rw [hf]
    exact congrArg _ (s.fails_nothingFound 0 word (addrChecks_found hf))
  · rw [hn]
    dsimp only
    rw [if_pos (by simpa using hp)]
    rfl
  · rw [hn]
    dsimp only
    rw [if_neg (by simpa using And.intro hf hp), hv, hk, State.settles_code]
    rfl
  · rw [hn]
    dsimp only
    rw [if_neg (by simpa using And.intro hf hp), hv, hk, State.settles_done]
    by_cases hb : s.me.s g.b ≤ v
    · rw [if_pos hb, if_neg (BitVec.not_lt.mpr hb), List.append_nil]
    · rw [if_neg hb, if_pos (BitVec.not_le.mp hb)]
      rfl

/-- `wait.ge` on a control memory (R154, R298). -/
theorem waitGe_ctl (w : Runs .srcAB g s) (hc : isCtl s.cur.core = true) :
    let a := (s.me.s g.a).toNat
    let word := State.slotOp.wordOf 0x09 g
    let v := dwordOf (s.tower (towerOf s.cur.core)).ctlmem a
    (s.me.npc.isSome = true → exec (.waitGe g) s = .next (s.trapped 0 word (trap 0x01))) ∧
    (s.me.npc = none → exec (.waitGe g) s = .next (
      if a % 8 ≠ 0 then s.trapped 0 word (trap 0x05)
      else if 0x100000 < a + 8 then s.trapped 0 word (trap 0x06)
      else if s.me.s g.b ≤ v then s.onward
      else s.onward.modCtx s.cur fun x => { x with status := .parked (.waitGe a (s.me.s g.b)) })) := by
  intro a word v
  have hv : s.counterAt s.cur.core a = some v := if_pos hc
  rw [exec_waitGe, execWaitGe, slotOp_settles w]
  refine ⟨fun h => ?_, fun h => ?_⟩
  · rw [Ctx.outsideDelay_in h, State.settles_code]
    rfl
  · rw [Ctx.outsideDelay_out h, if_pos hc]
    rw [Ctx.sa_eq, Ctx.sb_eq]
    by_cases h1 : a % 8 ≠ 0
    · rw [if_pos h1, if_pos h1, State.settles_code]
      rfl
    · rw [if_neg h1, if_neg h1]
      by_cases h2 : 0x100000 < a + 8
      · rw [if_pos h2, if_pos h2, State.settles_code]
        rfl
      · rw [if_neg h2, if_neg h2, hv, State.settles_done, Option.getD_some]
        by_cases hb : s.me.s g.b ≤ v
        · rw [if_pos hb, if_neg (by simpa using hb), State.did_nil]
        · rw [if_neg hb, if_pos (by simpa using hb), State.did_one s rfl rfl]
          rfl

end

/-- Settles O33: each instruction's laws. -/
theorem suspension : Obligations.Suspension :=
  ⟨fun _ _ w => yield_laws w, fun _ _ w hc => waitGe_local w hc, fun _ _ w hc => waitGe_ctl w hc, fun _ _ w => waitF_laws w,
    fun _ _ w => retire_laws w, fun _ _ w => tickw_laws w, fun _ _ w => brk_laws w⟩

end Sys2Proof.Machine
end

section
/-! The graph's operations (R92, R93, R130, R245, R266 to R268). -/

namespace Sys2Proof.Machine

section
variable {g : G} {s : State}

theorem spawn_laws (w : Runs .spawn g s) :
    let a := (s.me.s g.a).toNat
    (∀ f, s.spawnCheck s.cur a = .error f → exec (.spawn g) s = .next (s.fails 0 (State.slotOp.wordOf 0x0C g) f)) ∧
    (∀ n, s.spawnCheck s.cur a = .ok n → exec (.spawn g) s =
      .next (s.did [.touch a 64, .empty (.s g.d), .empty (.p g.pb), .spawn g.d g.pb n])) := by
  intro a
  rw [exec_spawn, execSpawn, slotOp_settles w, Ctx.sa_eq]
  refine ⟨fun f h => ?_, fun n h => ?_⟩
  · rw [h]
    rfl
  · rw [h]
    rfl

/-- A bundle of two effects that neither leave, nor name a next bundle, nor write or read memory makes them in order. -/
theorem State.did_pair (s : State) {e f : Effect} (he : Ctx.advance.flow e = none ∧ e.leaves = false ∧ bundleRead [e] = none)
    (hf : Ctx.advance.flow f = none ∧ f.leaves = false ∧ bundleRead [f] = none) (we : e.writes4 = false) (wf : f.writes4 = false) :
    s.did [e, f] = (s.onward.apply s.cur e).apply s.cur f :=
  State.commit_sorted s (rs := [e, f]) (ws := []) (by
    intro x hx
    rcases List.mem_pair.mp hx with rfl | rfl
    · exact he
    · exact hf) (by
    intro x hx
    rcases List.mem_pair.mp hx with rfl | rfl
    · exact we
    · exact wf) (by simp) 0

theorem sopen_laws (w : Runs .dstS g s) :
    exec (.sopen g) s = .next ((s.onward.modCtx s.cur fun x => x.mark (.s g.d) false).sopen s.cur g.d) := by
  rw [exec_sopen, execSopen, slotOp_settles w, State.settles_done,
    State.did_pair s ⟨rfl, rfl, rfl⟩ ⟨rfl, rfl, rfl⟩ rfl rfl]
  rfl

theorem sclose_laws (w : Runs .srcA g s) :
    let a := (s.me.s g.a).toNat
    (4096 ≤ a → exec (.sclose g) s = .next (s.trapped 0 (State.slotOp.wordOf 0x18 g) (trap 0x06))) ∧
    (a < 4096 → s.scopeWithin s.cur a = false → exec (.sclose g) s = .next (s.trapped 0 (State.slotOp.wordOf 0x18 g) (trap 0x13))) ∧
    (a < 4096 → s.scopeWithin s.cur a = true → exec (.sclose g) s = .next (s.onward.sclose (s.homeOf s.me.job) a)) := by
  intro a
  rw [exec_sclose, execSclose, slotOp_settles w, Ctx.sa_eq]
  refine ⟨fun h => ?_, fun h hw => ?_, fun h hw => ?_⟩
  · rw [if_pos h, State.settles_code]
    rfl
  · rw [if_neg (Nat.not_le.mpr h), if_pos (by rw [hw]; rfl), State.settles_code]
    rfl
  · have hjob := s.onward_own Ctx.job fun _ _ _ _ _ _ _ => rfl
    rw [if_neg (Nat.not_le.mpr h), if_neg (by rw [hw]; decide), State.settles_done, State.did_one s rfl rfl, ← hjob]
    rfl

theorem cancel_laws (w : Runs .srcAB g s) :
    let a := (s.me.s g.a).toNat
    let b := (s.me.s g.b).toNat
    let allowed := a ≠ s.me.spec.scope.toNat ∧ s.scopeWithin s.cur a = true
    let traps (code : BitVec 8) : Out := .next (s.trapped 0 (State.slotOp.wordOf 0x19 g) (trap code))
    ((4096 ≤ a ∨ 0x7FFFF8 < b) → exec (.cancel g) s = traps 0x06) ∧
    (a < 4096 → b ≤ 0x7FFFF8 → b % 8 ≠ 0 → exec (.cancel g) s = traps 0x05) ∧
    (a < 4096 → b ≤ 0x7FFFF8 → b % 8 = 0 → ¬allowed → exec (.cancel g) s = traps 0x13) ∧
    (a < 4096 → b ≤ 0x7FFFF8 → b % 8 = 0 → allowed → exec (.cancel g) s =
      .next (s.onward.killScope (s.homeOf s.me.job) s.me.job a s.cur.core b s.me.spec.tenant.toNat s.me.spec.scope.toNat)) := by
  intro a b allowed traps
  have hout : ¬allowed ↔ (a = s.me.spec.scope.toNat ∨ (!s.scopeWithin s.cur a) = true) := by
    simp only [allowed, not_and_or, not_not, Bool.not_eq_true, Bool.not_eq_true']
  rw [exec_cancel, execCancel, slotOp_settles w, Ctx.sa_eq, Ctx.sb_eq]
  refine ⟨fun h => ?_, fun ha hb h => ?_, fun ha hb hm h => ?_, fun ha hb hm h => ?_⟩
  · rw [if_pos h, State.settles_code]
    rfl
  · rw [if_neg (by omega), if_pos h, State.settles_code]
    rfl
  · rw [if_neg (by omega), if_neg (by omega), if_pos (hout.mp h), State.settles_code]
    rfl
  · have hjob := s.onward_own Ctx.job fun _ _ _ _ _ _ _ => rfl
    have hscope := s.onward_own (fun x => x.spec.scope) fun _ _ _ _ _ _ _ => rfl
    have htenant := s.onward_own (fun x => x.spec.tenant) fun _ _ _ _ _ _ _ => rfl
    rw [if_neg (by omega), if_neg (by omega), if_neg (mt hout.mpr (not_not.mpr h)), State.settles_done, State.did_one s rfl rfl,
      ← hjob, ← hscope, ← htenant]
    rfl

theorem ofNat_toNat_low (v : W64) : BitVec.ofNat 32 v.toNat = v.extractLsb' 0 32 := by
  apply BitVec.eq_of_toNat_eq
  simp

/-- The one source of a word of one operand is full when it runs. -/
theorem Runs.srcA_full (w : Runs .srcA g s) : s.me.isFull (.s g.a) = true :=
  w.full _ (by simp [Shape.sources, Shape.srcA, FieldKind.reg])

theorem segacq_laws (w : Runs .srcA g s) :
    let v := (s.me.s g.a).toNat
    let mask : BitVec 32 := BitVec.ofNat 32 v
    let inside := mask &&& ~~~ s.partition (towerOf s.cur.core) s.me.job = 0
    let traps (code : BitVec 8) : Out := .next (s.trapped 0 (State.slotOp.wordOf 0x1A g) (trap code))
    (mask &&& s.ownedByOthers s.cur ≠ 0 → exec (.segacq g) s = .next s) ∧
    (mask &&& s.ownedByOthers s.cur = 0 → 2 ^ 32 ≤ v → exec (.segacq g) s = traps 0x06) ∧
    (mask &&& s.ownedByOthers s.cur = 0 → v < 2 ^ 32 → ¬inside → exec (.segacq g) s = traps 0x13) ∧
    (mask &&& s.ownedByOthers s.cur = 0 → v < 2 ^ 32 → inside → exec (.segacq g) s = .next (s.onward.grant s.cur mask)) := by
  intro v mask inside traps
  have hmask : (s.me.s g.a).extractLsb' 0 32 = mask := (ofNat_toNat_low _).symm
  have hwait : (s.me.isFull (.s g.a) && (mask &&& s.ownedByOthers s.cur) != 0) = true ↔ mask &&& s.ownedByOthers s.cur ≠ 0 := by
    rw [w.srcA_full, Bool.true_and, bne_iff_ne]
  rw [exec_segacq, execSegacq, slotOp_settles w]
  simp only [Ctx.sa, hmask]
  refine ⟨fun h => ?_, fun h hv => ?_, fun h hv hi => ?_, fun h hv hi => ?_⟩
  · rw [if_pos (hwait.mpr h), State.settles_wait]
  · rw [if_neg (mt hwait.mp (not_not.mpr h)), if_pos hv, State.settles_code]
    rfl
  · rw [if_neg (mt hwait.mp (not_not.mpr h)), if_neg (Nat.not_le.mpr hv), if_pos hi, State.settles_code]
    rfl
  · rw [if_neg (mt hwait.mp (not_not.mpr h)), if_neg (Nat.not_le.mpr hv), if_neg (not_not.mpr hi), State.settles_done,
      State.did_one s rfl rfl]
    rfl

theorem segrel_laws (w : Runs .srcA g s) :
    let v := (s.me.s g.a).toNat
    let mask : BitVec 32 := BitVec.ofNat 32 v
    (s.segBusy s.cur mask = true → exec (.segrel g) s = .next s) ∧
    (s.segBusy s.cur mask = false → 2 ^ 32 ≤ v → exec (.segrel g) s = .next (s.trapped 0 (State.slotOp.wordOf 0x1B g) (trap 0x06))) ∧
    (s.segBusy s.cur mask = false → v < 2 ^ 32 →
      exec (.segrel g) s = .next (s.onward.modCtx s.cur fun x => { x with spec.segown := x.spec.segown &&& ~~~ mask })) := by
  intro v mask
  have hmask : (s.me.s g.a).extractLsb' 0 32 = mask := (ofNat_toNat_low _).symm
  rw [exec_segrel, execSegrel, slotOp_settles w]
  simp only [Ctx.sa, hmask, w.srcA_full, Bool.true_and]
  refine ⟨fun h => ?_, fun h hv => ?_, fun h hv => ?_⟩
  · rw [if_pos h, State.settles_wait]
  · rw [if_neg (Bool.eq_false_iff.mp h), if_pos hv, State.settles_code]
    rfl
  · rw [if_neg (Bool.eq_false_iff.mp h), if_neg (Nat.not_le.mpr hv), State.settles_done, State.did_one s rfl rfl]
    rfl

end

/-- Settles O34: each instruction's laws. -/
theorem graphOperations : Obligations.GraphOperations := by
  refine ⟨fun _ _ w => spawn_laws w, fun _ _ w => sopen_laws w, fun _ _ w => sclose_laws w, fun _ _ w => cancel_laws w, fun g s w => ?_⟩
  obtain ⟨ha1, ha2, ha3, ha4⟩ := segacq_laws w
  obtain ⟨hr1, hr2, hr3⟩ := segrel_laws w
  exact ⟨ha1, ha2, ha3, ha4, hr1, hr2, hr3⟩

end Sys2Proof.Machine
end

section
/-! Slot 5: the operations of the atelier set out in pieces (R109, R126 to R134, R143). -/

namespace Sys2Proof.Machine

section
variable {α : Type} {i : G → Instr} {op : BitVec 8} {h : Shape} {waits : G → State → Prop} {check : G → State → Except SlotFault α}
  {effs : α → G → State → List Effect}

/-- A slot word whose body waits, fails its check or is done is a command. -/
theorem command_of (m : SlotMap) (fixed : Bool) {body : State → G → Ctx → Res} (hi : ∀ g s, exec (i g) s = s.slotOp m op h g fixed (body s g))
    (hw : ∀ g s, Runs h g s → waits g s → body s g s.me = .wait)
    (he : ∀ g s f, Runs h g s → ¬waits g s → check g s = .error f → body s g s.me = .trap f)
    (ho : ∀ g s c, Runs h g s → ¬waits g s → check g s = .ok c → body s g s.me = done (effs c g s)) :
    Command i m.slot op h waits check effs := by
  intro g s w
  rw [hi, slotOp_settles w]
  refine ⟨fun hwait => ?_, fun hgo => ⟨fun f hf => ?_, fun c hc => ?_⟩⟩
  · rw [hw g s w hwait, State.settles_wait]
  · rw [he g s f w hgo hf, State.settles_trap]
  · rw [ho g s c w hgo hc, State.settles_done]

/-- The test of R129 and R143 says what slot 5 waits for. -/
theorem slot5Waits_iff (g : G) (s : State) :
    (s.acqOut s.cur || !s.me.refusals.isEmpty || decide (16 ≤ s.me.s5Count)) = true ↔ slot5Waits g s := by
  simp [slot5Waits, or_assoc]

/-- A slot 5 word whose body waits for more, fails its check or is done is a command. -/
theorem slot5_command_waiting {body : State → G → Ctx → Res} (hi : ∀ g s, exec (i g) s = s.slot5 op h g (body s g))
    (h5 : ∀ g s, slot5Waits g s → waits g s) (hw : ∀ g s, ¬slot5Waits g s → waits g s → body s g s.me = .wait)
    (he : ∀ g s f, ¬waits g s → check g s = .error f → body s g s.me = .trap f)
    (ho : ∀ g s c, ¬waits g s → check g s = .ok c → body s g s.me = done (effs c g s)) : Command i 5 op h waits check effs := by
  have hpast (g : G) (s : State) (hgo : ¬slot5Waits g s) :
      (if s.acqOut s.cur || !s.me.refusals.isEmpty || decide (16 ≤ s.me.s5Count) then .wait else body s g s.me) = body s g s.me :=
    if_neg (mt (slot5Waits_iff g s).mp hgo)
  refine command_of .n false hi (fun g s _ hwait => ?_) (fun g s f _ hgo hf => (hpast g s (mt (h5 g s) hgo)).trans (he g s f hgo hf))
    fun g s c _ hgo hc => (hpast g s (mt (h5 g s) hgo)).trans (ho g s c hgo hc)
  by_cases hs : slot5Waits g s
  · exact if_pos ((slot5Waits_iff g s).mpr hs)
  · exact (hpast g s hs).trans (hw g s hs hwait)

/-- A slot 5 word whose body fails its check or is done is a command. -/
theorem slot5_command {body : State → G → Ctx → Res} (hi : ∀ g s, exec (i g) s = s.slot5 op h g (body s g))
    (he : ∀ g s f, check g s = .error f → body s g s.me = .trap f)
    (ho : ∀ g s c, check g s = .ok c → body s g s.me = done (effs c g s)) : Command i 5 op h slot5Waits check effs :=
  slot5_command_waiting hi (fun _ _ => id) (fun _ _ hn hy => absurd hy hn) (fun g s f _ => he g s f) fun g s c _ => ho g s c

end

/-- The address of a remote access is the one that the statements name. -/
theorem Ctx.operand_at (x : Ctx) (g : G) (n : Nat) : x.operand g n = operandAt g x n := rfl

/-- A remote load is a command (R109, R131). -/
theorem rload_command {i : G → Instr} {op : BitVec 8} {h : Shape} {n align : Nat} {dst : G → Reg}
    (hi : ∀ g s, exec (i g) s = s.rload op h g n align (dst g)) :
    Command i 5 op h slot5Waits (fun g s => s.checks5 s.me (operandAt g s.me n) n align false false) fun c g s =>
      [.empty (dst g), s.send s.me .load (some (dst g)) c.1 (operandAt g s.me n) c.2 n (pieceRanges c.2 n) [] 0 s.me.spec.scope.toNat] :=
  slot5_command hi (fun g s f hf => by simp only [Ctx.operand_at, hf]) fun g s ⟨c, off⟩ hc => by simp only [Ctx.operand_at, hc]

/-- A remote store is a command (R109, R131). -/
theorem rstore_command {i : G → Instr} {op : BitVec 8} {h : Shape} {n align : Nat} {v : G → Ctx → Nat}
    (hi : ∀ g s, exec (i g) s = s.rstore op h g n align (v g)) :
    Command i 5 op h slot5Waits (fun g s => s.checks5 s.me (operandAt g s.me n) n align false true) fun c g s =>
      [s.send s.me .store none c.1 (operandAt g s.me n) c.2 n (pieceRanges c.2 n) (leBytes n (v g s.me)) 0 s.me.spec.scope.toNat] :=
  slot5_command hi (fun g s f hf => by simp only [Ctx.operand_at, hf]) fun g s ⟨c, off⟩ hc => by simp only [Ctx.operand_at, hc]

/-- `rtst` is a command (R133). -/
theorem rtst_command :
    Command .rtst 5 0x0C .unaryS slot5Waits (fun g s => s.checks5 s.me (s.me.s g.a).toNat 128 128 false false) (fun c g s =>
      [.empty (.s g.d), s.send s.me .test (some (.s g.d)) c.1 (s.me.s g.a).toNat c.2 128 (pieceRanges c.2 128) [] 0
        s.me.spec.scope.toNat]) :=
  slot5_command exec_rtst (fun g s f hf => by simp only [Ctx.sa, hf]) fun g s ⟨c, off⟩ hc => by simp only [Ctx.sa, hc]

/-- `rmv.h` waits for the context's stream operation, then checks its two ranges (R132). -/
theorem rmvH_command :
    Command .rmvH 5 0x0B .sssD (fun g s => slot5Waits g s ∨ s.me.stream.isSome = true)
      (fun g s => s.rmvChecks s.me (s.me.s g.d).toNat (s.me.s g.a).toNat (s.me.s g.b).toNat) (fun c g s =>
      [.empty (.s g.d), .stream ⟨.rmv, 2, c.1.1, c.1.2, c.2.1, c.2.2, (s.me.s g.d).toNat, 0, g.d, 0, false, .requested, .requested,
        s.me.s5Seq, (s.me.s g.a).toNat, (s.me.s g.b).toNat, false⟩]) := by
  refine slot5_command_waiting exec_rmvH (fun _ _ => .inl) (fun g s hn hw => if_pos (hw.resolve_left hn))
    (fun g s f hw hf => ?_) fun g s ⟨⟨c, off⟩, c2, off2⟩ hw hc => ?_
  · rw [if_neg (not_or.mp hw).2]
    simp only [Ctx.sa, Ctx.sb, Ctx.sd, hf]
  · rw [if_neg (not_or.mp hw).2]
    simp only [Ctx.sa, Ctx.sb, Ctx.sd, hc]

/-- Settles O35: the loads, the stores, `rtst` and `rmv.h`. -/
theorem remoteAccess : Obligations.RemoteAccess :=
  ⟨rload_command exec_rldW, rload_command exec_rldD, rload_command exec_rldQ, rload_command exec_rldO, rload_command exec_rvld,
    rstore_command (v := fun g x => (x.sd g).toNat) exec_rstW, rstore_command (v := fun g x => (x.sd g).toNat) exec_rstD,
    rstore_command (v := fun g x => (x.vd g).toNat) exec_rstQ, rstore_command (v := fun g x => (x.vd g).toNat) exec_rstO,
    rstore_command (v := fun g x => (x.vd g).toNat) exec_rvst, rtst_command, rmvH_command⟩

/-- A remote atomic is a command: its target and scope are fields of sA (R134, R144, R145). -/
theorem ramo_command {i : G → Instr} {opc : BitVec 8} {h : Shape} {op : BitVec 2} {acq rel : Bool}
    (hi : ∀ g s, exec (i g) s = s.ramo opc h g op acq rel) :
    let target (g : G) (s : State) : Nat := (s.me.s g.a).toNat % 2 ^ 27
    let scope (g : G) (s : State) : Nat := (s.me.s g.a).toNat / 2 ^ 32 % 8
    let bad (g : G) (s : State) : Bool :=
      (s.me.s g.a).toNat / 2 ^ 35 != 0 || (s.me.s g.a).toNat / 2 ^ 27 % 2 ^ 5 != 0 || decide (4 < scope g s)
    Command i 5 opc h slot5Waits (fun g s => s.checks5 s.me (target g s) 8 8 (bad g s) true) fun c g s =>
      let covered : Bool := scope g s != 0 || c.1 == s.cur.core
      (if !covered && (acq || rel) then [.status stScx] else []) ++
        [.empty (.s g.d), s.send s.me (.atomic op (acq && covered) (rel && covered)) (some (.s g.d)) c.1 (target g s) c.2 8 [(c.2, 8)]
          (leBytes 8 (s.me.s g.b).toNat) (s.me.s g.d) s.me.spec.scope.toNat] := by
  intro target scope bad
  have hbad (g : G) (s : State) : (nfld (s.me.sa g).toNat 63 35 != 0 || nfld (s.me.sa g).toNat 31 27 != 0 ||
      decide (4 < nfld (s.me.sa g).toNat 34 32)) = bad g s := by
    have : nfld (s.me.sa g).toNat 63 35 = (s.me.s g.a).toNat / 2 ^ 35 := Nat.mod_eq_of_lt (by rw [Ctx.sa]; omega)
    rw [this]
    rfl
  have hcheck (g : G) (s : State) : s.checks5 s.me ((s.me.sa g).toNat % 2 ^ 27) 8 8 (nfld (s.me.sa g).toNat 63 35 != 0 ||
      nfld (s.me.sa g).toNat 31 27 != 0 || decide (4 < nfld (s.me.sa g).toNat 34 32)) true =
      s.checks5 s.me (target g s) 8 8 (bad g s) true := by
    rw [hbad]
    rfl
  refine slot5_command hi (fun g s f hf => ?_) fun g s ⟨c, off⟩ hc => ?_
  · simp only [(hcheck g s).trans hf]
  · simp only [(hcheck g s).trans hc]
    rfl

/-- Settles O37. -/
theorem remoteAtomics : Obligations.RemoteAtomics :=
  ⟨ramo_command exec_ramoAddRlx, ramo_command exec_ramoAddAcq, ramo_command exec_ramoAddRel, ramo_command exec_ramoAddAr,
    ramo_command exec_ramoMaxRlx, ramo_command exec_ramoMaxAcq, ramo_command exec_ramoMaxRel, ramo_command exec_ramoMaxAr,
    ramo_command exec_ramoXchgRlx, ramo_command exec_ramoXchgAcq, ramo_command exec_ramoXchgRel, ramo_command exec_ramoXchgAr,
    ramo_command exec_ramoCasRlx, ramo_command exec_ramoCasAcq, ramo_command exec_ramoCasRel, ramo_command exec_ramoCasAr⟩

/-! The checks of an atelier address (R126). -/

section
variable {s : State} {x : Ctx} {a size align : Nat} {holds : Bool}

/-- A range without a member raises RANGE. -/
theorem checks5_nowhere (h : a % align = 0) (hm : s.memberAt x a = none) : s.checks5 x a size align false holds = .error (trap 0x06) := by
  rw [State.checks5, if_neg (not_not.mpr h), if_neg Bool.false_ne_true, hm]

/-- The checks of a range that names a member. -/
theorem checks5_member {c : CoreRef} {off : Nat} (h : a % align = 0) (hm : s.memberAt x a = some (c, off)) :
    s.checks5 x a size align false holds =
      if 0x800000 < off + size then .error (trap 0x06)
      else if !s.memberOwns x c off size then .error (trap 0x06)
      else if s.layerOff c then .error (trap 0x0C)
      else if holds && (s.core c).heldIn off size then .error (trap 0x09)
      else .ok (c, off) := by
  rw [State.checks5, if_neg (not_not.mpr h), if_neg Bool.false_ne_true, hm]

/-- The member that an atelier's context names. -/
theorem memberAt_of {gr : Nat} (hg : x.atelier = some gr) (ha : a < 2 ^ 27) :
    s.memberAt x a = ((s.members (towerOf s.cur.core) gr)[a / 2 ^ 23]?).map fun c => (c, a % 2 ^ 23) := by
  rw [State.memberAt, hg]
  simp only [if_neg (Nat.not_le.mpr ha)]
  cases (s.members (towerOf s.cur.core) gr)[a / 2 ^ 23]? <;> rfl

theorem memberOwns_iff {c : CoreRef} {off : Nat} (h : 0 < size) : s.memberOwns x c off size = true ↔
    ∀ seg, off / 0x40000 ≤ seg → seg ≤ (off + size - 1) / 0x40000 → (s.mirror x c).getLsbD seg = true := by
  rw [State.memberOwns, List.all_eq_true]
  exact ⟨fun hall seg h1 h2 => hall seg (touched_mem.mpr ⟨h, h1, h2⟩), fun hall seg hseg => hall seg (touched_mem.mp hseg).2.1 (touched_mem.mp hseg).2.2⟩

theorem heldIn_iff {k : Core} {off : Nat} : k.heldIn off size = true ↔ ∃ i < size, k.held (off + i) = true := by
  simp [Core.heldIn]

end

/-- Settles O36, along the steps of R126. -/
theorem atelierAddresses : Obligations.AtelierAddresses := by
  intro s a size align holds x
  refine ⟨fun h => if_pos h, fun h hn => checks5_nowhere h ?_, fun gr h hg ha => ?_⟩
  · rw [State.memberAt]
    rcases hn with hn | hn
    · rw [hn]
    · split
      · rfl
      · rw [if_pos hn]
  intro off owned
  have hat := memberAt_of (s := s) hg ha
  refine ⟨fun hl => checks5_nowhere h ?_, fun c hsize hc => ?_⟩
  · rw [hat, List.getElem?_eq_none hl]
    rfl
  rw [hc] at hat
  have hm := checks5_member (size := size) (holds := holds) h hat
  have howns : s.memberOwns x c off size = true ↔ owned c := memberOwns_iff hsize
  refine ⟨fun hout => ?_, fun hfit hown => ?_⟩
  · rw [hm]
    by_cases hfit : 0x800000 < off + size
    · rw [if_pos hfit]
    · have hnot : s.memberOwns x c off size = false := Bool.eq_false_iff.mpr (mt howns.mp (hout.resolve_left hfit))
      rw [if_neg hfit, if_pos (by rw [hnot]; rfl)]
  rw [if_neg (Nat.not_lt.mpr hfit), if_neg (by rw [howns.mpr hown]; decide)] at hm
  refine ⟨fun hoff => ?_, fun hon => ?_⟩
  · rw [hm, if_pos hoff]
  rw [if_neg (Bool.eq_false_iff.mp hon)] at hm
  refine ⟨fun hh hheld => ?_, fun hfree => ?_⟩
  · rw [hm, if_pos (by rw [hh, heldIn_iff.mpr hheld]; rfl)]
  · rw [hm, if_neg ?_]
    intro hboth
    obtain ⟨hh, hheld⟩ := Bool.and_eq_true_iff.mp hboth
    obtain ⟨j, hj, hset⟩ := heldIn_iff.mp hheld
    rcases hfree with hfree | hfree
    · rw [hh] at hfree
      exact Bool.noConfusion hfree
    · rw [hfree j hj] at hset
      exact Bool.noConfusion hset

end Sys2Proof.Machine
end

section
/-! Slot 6 of the compute profile: commands to the copy engine, collectives, messages and Canvas names (R44, R211 to R228, R239 to R241, R279, R296). -/

namespace Sys2Proof.Machine

/-- A command of the copy engine waits while its queue is full, then fails its check or is queued (R219). -/
theorem engine_command {α : Type} {i : G → Instr} {op : BitVec 8} {h : Shape} {check : G → State → Except SlotFault α}
    {effs : α → G → State → List Effect} {body : State → G → Ctx → Res} (hi : ∀ g s, exec (i g) s = s.engineOp op h g (body s g))
    (he : ∀ g s f, check g s = .error f → body s g s.me = .trap f)
    (ho : ∀ g s c, check g s = .ok c → body s g s.me = done (effs c g s)) :
    Command i 6 op h (fun _ s => s.engineRoom s.cur.core = false) check effs :=
  command_of .t false hi (fun g s _ hw => if_pos (by rw [hw]; rfl))
    (fun g s f _ hw hf => (if_neg (by rw [eq_true_of_ne_false hw]; decide)).trans (he g s f hf))
    fun g s c _ hw hc => (if_neg (by rw [eq_true_of_ne_false hw]; decide)).trans (ho g s c hc)

theorem fld_low (v : W64) : fld v 7 0 = v.toNat % 256 := by simp [fld, nfld]

theorem fld_next (v : W64) : fld v 15 8 = v.toNat / 256 % 256 := rfl

/-- A transfer is a command (R215, R221). -/
theorem xfer_command {i : G → Instr} {op : BitVec 8} {c : CmdOp} (hi : ∀ g s, exec (i g) s = s.xfer op .srcAB g c) :
    Command i 6 op .srcAB (fun _ s => s.engineRoom s.cur.core = false)
      (fun g s => s.xferCheck s.me c.vacates (s.me.s g.a) (s.me.s g.b)) fun ctr g s =>
      [.cmd (s.newCmd s.me (Shape.issued .srcAB op s.me g) c ((s.me.s g.a).toNat % 256) ((s.me.s g.a).toNat / 256 % 256) ctr 0)] :=
  engine_command hi (fun g s f hf => by simp only [Ctx.sa, Ctx.sb, hf]) fun g s ctr hc => by
    simp only [Ctx.sa, Ctx.sb, hc, fld_low, fld_next]

/-- What `pub` and `dsc` check: a counter, and an unpublished transfer into the id (R216, R228). -/
def settleCheck (g : G) (s : State) : Except SlotFault Ctr := match counterOf s.me (s.me.s g.b) with
  | none => .error (trap 0x06)
  | some ctr =>
    if 256 ≤ (s.me.s g.a).toNat ∨ s.npInto (some s.cur) s.me.node s.nextId (s.me.s g.a).toNat = [] then .error (trap 0x06) else .ok ctr

/-- `pub` and `dsc` are commands (R216, R228). -/
theorem settle_command {i : G → Instr} {op : BitVec 8} {c : CmdOp} (hi : ∀ g s, exec (i g) s = s.settleOp op .srcAB g c) :
    Command i 6 op .srcAB (fun _ s => s.engineRoom s.cur.core = false) settleCheck fun ctr g s =>
      [.cmd (s.newCmd s.me (Shape.issued .srcAB op s.me g) c (s.me.s g.a).toNat (s.me.s g.a).toNat ctr 0)] := by
  have hnone (g : G) (s : State) : (256 ≤ (s.me.s g.a).toNat ∨ s.npInto (some s.cur) s.me.node s.nextId (s.me.s g.a).toNat = []) ↔
      (decide (256 ≤ (s.me.sa g).toNat) || (s.npInto (some s.cur) s.me.node s.nextId (s.me.sa g).toNat).isEmpty) = true := by
    rw [Bool.or_eq_true, decide_eq_true_iff, List.isEmpty_iff]
    rfl
  refine engine_command hi (fun g s f hf => ?_) fun g s ctr hc => ?_
  · cases hn : counterOf s.me (s.me.s g.b) with
    | none =>
      simp only [settleCheck, hn] at hf
      simp only [Ctx.sb, hn]
      exact congrArg Res.trap (Except.error.inj hf)
    | some ctr =>
      simp only [settleCheck, hn, hnone] at hf
      simp only [Ctx.sb, hn]
      split at hf
      · next hr => rw [if_pos hr, Except.error.inj hf]
      · cases hf
  · cases hn : counterOf s.me (s.me.s g.b) with
    | none =>
      simp only [settleCheck, hn] at hc
      cases hc
    | some c0 =>
      simp only [settleCheck, hn, hnone] at hc
      simp only [Ctx.sb, hn]
      split at hc
      · cases hc
      · next hr =>
        obtain rfl := Except.ok.inj hc
        rw [if_neg hr]
        rfl

/-- `fretry` and `fskip` are commands that wait for nothing (R227). -/
theorem held_command {i : G → Instr} {op : BitVec 8} {e : Nat → Effect} (hi : ∀ g s, exec (i g) s = s.heldOp op .srcA g e) :
    Command i 6 op .srcA (fun _ _ => False)
      (fun g s => if 4096 ≤ (s.me.s g.a).toNat ∨ s.heldCmd s.cur (s.me.s g.a).toNat = none then .error (trap 0x06) else .ok ())
      fun _ g s => [e (s.me.s g.a).toNat] := by
  have hnone (g : G) (s : State) : (4096 ≤ (s.me.s g.a).toNat ∨ s.heldCmd s.cur (s.me.s g.a).toNat = none) ↔
      (decide (4096 ≤ (s.me.sa g).toNat) || (s.heldCmd s.cur (s.me.sa g).toNat).isNone) = true := by
    rw [Bool.or_eq_true, decide_eq_true_iff, Option.isNone_iff_eq_none]
    rfl
  refine command_of .t false hi (fun _ _ _ => False.elim) (fun g s f _ _ hf => ?_) fun g s c _ _ hc => ?_
  · simp only [hnone] at hf
    split at hf
    · next hr => simp only [if_pos hr, Except.error.inj hf]
    · cases hf
  · simp only [hnone] at hc
    split at hc
    · cases hc
    · next hr =>
      simp only [if_neg hr]
      rfl

/-- `fill` is a command (R222). -/
theorem fill_command :
    Command .fill 6 0x36 .srcDAB (fun _ s => s.engineRoom s.cur.core = false)
      (fun g s => s.fillCheck s.me g.d (s.me.s g.a) (s.me.s g.b)) (fun ctr g s =>
    [.cmd (s.newCmd s.me (Shape.issued .srcDAB 0x36 s.me g) (.fill ((s.me.s g.a).getLsbD 8)) ((s.me.s g.a).toNat % 256)
      ((s.me.s g.a).toNat % 256) ctr (s.me.s g.d))]) :=
  engine_command exec_fill (fun g s f hf => by simp only [Ctx.sa, Ctx.sb, hf]) fun g s ctr hc => by
    simp only [Ctx.sa, Ctx.sb, hc, fld_low]
    rfl

/-- `ctradd` is a command (R214). -/
theorem ctradd_command :
    Command .ctradd 6 0x37 .srcAB (fun _ s => s.engineRoom s.cur.core = false) (fun g s => s.ctraddCheck (s.me.s g.a)) (fun ctr g s =>
    [.cmd (s.newCmd s.me (Shape.issued .srcAB 0x37 s.me g) (.ctradd (s.me.s g.b)) 0 0 ctr 0)]) :=
  engine_command exec_ctradd (fun g s f hf => by simp only [Ctx.sa, hf]) fun g s ctr hc => by simp only [Ctx.sa, Ctx.sb, hc]

/-- `coll` is a command that waits while 16 collectives of its context are out (R211, R279). -/
theorem coll_command :
    Command .coll 6 0x48 .srcA (fun _ s => 16 ≤ (s.collsOf s.cur).length) (fun g s => s.collCheck s.me (s.me.s g.a)) (fun ring g s =>
    let id := (s.me.s g.a).toNat % 256
    let d := s.me.entry id
    [.coll ⟨0, some s.cur, s.me.node, s.me.job, s.me.spec.scope.toNat, s.me.spec.tenant.toNat, s.cur.core, s.me.cmdSeq,
      Shape.issued .srcA 0x48 s.me g, d, id, s.me.entry (clBucket d), clBucket d, ring, s.me.spec.arbw, 0, 0, 0, false, 0, [], [], [],
      [], none, 0, none, false, false⟩]) :=
  command_of .t false exec_coll (fun g s _ hw => if_pos hw)
    (fun g s f _ hw hf => by
      rw [if_neg hw]
      simp only [Ctx.sa, hf])
    fun g s ring _ hw hc => by
      rw [if_neg hw]
      simp only [Ctx.sa, hc, fld_low]

/-- `qpush` is a command that waits while 16 messages of its context are out (R296). -/
theorem qpush_command :
    Command .qpush 6 0x50 .srcAB (fun _ s => 16 ≤ (s.msgsOf s.cur).length)
      (fun g s => s.qpushCheck s.me (s.me.s g.a).toNat (s.me.s g.b)) (fun m g s =>
    [.touch (s.me.s g.a).toNat 32,
     .qpush ⟨0, s.cur, s.me.node, s.me.job, s.me.spec.scope.toNat, s.me.spec.tenant.toNat, s.cur.core, s.me.cmdSeq,
       Shape.issued .srcAB 0x50 s.me g, m.1, m.2, false⟩]) :=
  command_of .t false exec_qpush (fun g s _ hw => if_pos hw)
    (fun g s f _ hw hf => by
      rw [if_neg hw]
      simp only [Ctx.sa, Ctx.sb, hf])
    fun g s ⟨bs, c⟩ _ hw hc => by
      rw [if_neg hw]
      simp only [Ctx.sa, Ctx.sb, hc]

/-- Settles O38: the transfers, `pub` and `dsc`, `fill`, `ctradd`, `fretry` and `fskip`, `coll`, `qpush`. -/
theorem engineCommands : Obligations.EngineCommands :=
  ⟨xfer_command exec_cpy, xfer_command exec_engineMove, xfer_command exec_movNp, xfer_command exec_cpyNp, settle_command exec_pub,
    settle_command exec_dsc, fill_command, ctradd_command, held_command exec_fretry, held_command exec_fskip, coll_command, qpush_command⟩

/-! Canvas names (R44, R239 to R241). -/

/-- An operation on Canvas names raises EXTOP with its operands on a device without a block store; else it waits for the queue, then
tests its names, and is queued. -/
theorem canvas_laws {i : G → Instr} {op : BitVec 8} {h : Shape} {names : G → Ctx → List W64} {effs : G → State → Ctx → List Effect}
    (hi : ∀ g s, exec (i g) s = s.canvasOp op h g (names g) (effs g s))
    (hx : ∀ (g : G) (x : Ctx), h.extop x g = .trap ⟨0x02, x.s g.a, if h.b = .s then x.s g.b else 0, []⟩) (g : G) (s : State) (w : Runs h g s) :
    (s.hasCanvas = false →
      exec (i g) s = .next (s.trapped 6 (State.slotOp.wordOf op g) ⟨0x02, s.me.s g.a, if h.b = .s then s.me.s g.b else 0, []⟩)) ∧
    (s.hasCanvas = true → s.engineRoom s.cur.core = false → exec (i g) s = .next s) ∧
    (s.hasCanvas = true → s.engineRoom s.cur.core = true →
      ((∃ n ∈ names g s.me, 2 ^ 56 ≤ n.toNat) → exec (i g) s = .next (s.trapped 6 (State.slotOp.wordOf op g) (trap 0x06))) ∧
      ((∀ n ∈ names g s.me, n.toNat < 2 ^ 56) → exec (i g) s = .next (s.did (effs g s s.me)))) := by
  have hlong : ((names g s.me).any fun n => decide (2 ^ 56 ≤ n.toNat)) = true ↔ ∃ n ∈ names g s.me, 2 ^ 56 ≤ n.toNat := by
    simp only [List.any_eq_true, decide_eq_true_iff]
  rw [hi, State.canvasOp, slotOp_settles w]
  refine ⟨fun hc => ?_, fun hc hr => ?_, fun hc hr => ⟨fun hn => ?_, fun hn => ?_⟩⟩
  · rw [if_pos (by rw [hc]; rfl), hx, State.settles_trap, s.fails_nothingFound _ _ rfl]
    rfl
  · rw [if_neg (by rw [hc]; decide), if_pos (by rw [hr]; rfl), State.settles_wait]
  · rw [if_neg (by rw [hc]; decide), if_neg (by rw [hr]; decide), if_pos (hlong.mpr hn), State.settles_code]
    rfl
  · have hshort : ¬∃ n ∈ names g s.me, 2 ^ 56 ≤ n.toNat := fun ⟨n, hmem, hge⟩ => Nat.not_le.mpr (hn n hmem) hge
    rw [if_neg (by rw [hc]; decide), if_neg (by rw [hr]; decide), if_neg (mt hlong.mp hshort), State.settles_done]

/-- Settles O39. -/
theorem canvasCommands : Obligations.CanvasCommands :=
  ⟨canvas_laws (names := fun g x => [x.s g.a, x.s g.b]) exec_kvshare fun _ _ => rfl,
    canvas_laws (names := fun g x => [x.s g.a]) exec_kvdrop fun _ _ => rfl,
    canvas_laws (names := fun g x => [x.s g.a]) exec_kvstat fun _ _ => rfl⟩

end Sys2Proof.Machine
end

section
/-! Slot 6: the Palette and the matrix engine (R44, R152, R153, R188 to R191, R199, R200, R205). -/

namespace Sys2Proof.Machine

/-- What a command of the matrix engine waits for: another context's engine, or a full queue (R191). -/
theorem mxWaits_iff (s : State) : (s.mxForeign || s.mxFull) = true ↔ s.mxForeign = true ∨ s.mxFull = true := Bool.or_eq_true_iff

section
variable {g : G} {s : State}

/-- `mmq` raises EXTOP without its capability, waits for the engine, then fails its checks or is queued (R44, R152). -/
theorem mmq_laws {i : G → Instr} {op : BitVec 8} {z rc ta tb : Bool} (hi : ∀ g s, exec (i g) s = s.mmq op .rawSs g z rc ta tb)
    (g : G) (s : State) (w : Runs .rawSs g s) :
    let a := (s.me.s g.a).toNat % 256
    let b := (s.me.s g.a).toNat / 256 % 256
    let busy := s.mxForeign = true ∨ s.mxFull = true
    (rc = true → s.rcmb = false →
      exec (i g) s = .next (s.trapped 6 (State.slotOp.wordOf op g) ⟨0x02, s.me.s g.a, s.me.s g.b, []⟩)) ∧
    ((rc = false ∨ s.rcmb = true) →
      (busy → exec (i g) s = .next s) ∧
      (¬busy →
        (∀ f, s.mmqCheck s.me g.d (s.me.s g.a) (s.me.s g.b) rc ta tb = .error f →
          exec (i g) s = .next (s.fails 6 (State.slotOp.wordOf op g) f)) ∧
        (∀ c, s.mmqCheck s.me g.d (s.me.s g.a) (s.me.s g.b) rc ta tb = .ok c → exec (i g) s =
          .next (s.did [.bind, .mx (newMx s.me.cmdSeq (Shape.issued .rawSs op s.me g) (.mmq z rc ta tb) (g.d == 1) (s.me.entry a)
            (s.me.entry b) a b c)])))) := by
  intro a b busy
  rw [hi, State.mmq, slotOp_settles w]
  refine ⟨fun hrc hcap => ?_, fun hcap => ?_⟩
  · rw [if_pos (by rw [hrc, hcap]; rfl)]
    exact congrArg Host.Outcome.next (s.fails_nothingFound _ _ rfl)
  rw [if_neg (by rcases hcap with h | h <;> simp [h])]
  refine ⟨fun hb => ?_, fun hb => ⟨fun f hf => ?_, fun c hc => ?_⟩⟩
  · rw [if_pos ((mxWaits_iff s).mpr hb), State.settles_wait]
  · rw [if_neg (mt (mxWaits_iff s).mp hb)]
    simp only [Ctx.sa, Ctx.sb, hf]
    rfl
  · rw [if_neg (mt (mxWaits_iff s).mp hb)]
    simp only [Ctx.sa, Ctx.sb, hc, fld_low, fld_next]
    rfl

/-- `mdrain` waits for the engine, then fails its checks or is queued, with 4096 words for stochastic rounding (R153, R205). -/
theorem mdrain_laws (w : Runs .rawSs g s) :
    let a := (s.me.s g.a).toNat % 256
    let b := (s.me.s g.a).toNat / 256 % 256
    let busy := s.mxForeign = true ∨ s.mxFull = true
    let epi := s.me.entry b
    (busy → exec (.mdrain g) s = .next s) ∧
    (¬busy →
      (∀ f, s.mdrainCheck s.me g.d (s.me.s g.a) (s.me.s g.b) = .error f → exec (.mdrain g) s = .next (s.fails 6 (State.slotOp.wordOf 0x20 g) f)) ∧
      (∀ c, s.mdrainCheck s.me g.d (s.me.s g.a) (s.me.s g.b) = .ok c → exec (.mdrain g) s = .next (s.commit s.cur
        [.bind, .drain ⟨0, s.cur, s.me.node, s.me.job, s.me.spec.scope.toNat, s.me.spec.tenant.toNat, s.me.cmdSeq,
          Shape.issued .rawSs 0x20 s.me g, g.d == 1, s.me.entry a, a, epi, if epBiasv epi then some (s.me.entry (epBias epi)) else none,
          epBias epi, c, s.me.spec.rngseed, s.me.spec.rngctr, [], none, [], false, none, false⟩]
        (if epMode epi = 1 then 4096 else 0)))) := by
  intro a b busy epi
  have hdrawn : s.me.spec.rngctr + BitVec.ofNat 64 s.drawn = s.me.spec.rngctr := by
    rw [State.drawn, w.closed]
    exact BitVec.add_zero _
  rw [exec_mdrain, execMdrain, slotOp_settles w]
  refine ⟨fun hb => ?_, fun hb => ⟨fun f hf => ?_, fun c hc => ?_⟩⟩
  · rw [if_pos ((mxWaits_iff s).mpr hb), State.settles_wait]
  · rw [if_neg (mt (mxWaits_iff s).mp hb)]
    simp only [Ctx.sa, Ctx.sb, hf]
    rfl
  · rw [if_neg (mt (mxWaits_iff s).mp hb)]
    simp only [Ctx.sa, Ctx.sb, hc, fld_low, fld_next, hdrawn]
    rfl

end

/-- A command of the matrix engine that only checks a field of its own. -/
theorem engineField_command {i : G → Instr} {op : BitVec 8} {h : Shape} {fixed : Bool} {bad : G → Prop} [DecidablePred bad]
    {effs : G → State → Ctx → List Effect}
    (hi : ∀ g s, exec (i g) s = s.slotOp .t op h g fixed fun x =>
      if s.mxForeign || s.mxFull then .wait else if bad g then .trap (trap 0x06) else done (effs g s x)) :
    Command i 6 op h (fun _ s => s.mxForeign = true ∨ s.mxFull = true) (fun g _ => if bad g then .error (trap 0x06) else .ok ())
      fun _ g s => effs g s s.me := by
  refine command_of .t fixed hi (fun g s _ hw => if_pos ((mxWaits_iff s).mpr hw)) (fun g s f _ hw hf => ?_) fun g s c _ hw hc => ?_
  · rw [if_neg (mt (mxWaits_iff s).mp hw)]
    split at hf
    · next hb => rw [if_pos hb, Except.error.inj hf]
    · cases hf
  · rw [if_neg (mt (mxWaits_iff s).mp hw)]
    split at hc
    · cases hc
    · next hb => rw [if_neg hb]

/-- A command on the Palette that only checks that sA names an entry (R189, R190). -/
theorem paletteEntry_command {i : G → Instr} {op : BitVec 8} {h : Shape} {fixed : Bool} {effs : G → State → Ctx → List Effect}
    (hi : ∀ g s, exec (i g) s = s.slotOp .t op h g fixed fun x =>
      if 256 ≤ (x.sa g).toNat then .trap (trap 0x06) else done (effs g s x)) :
    Command i 6 op h (fun _ _ => False) (fun g s => if 256 ≤ (s.me.s g.a).toNat then .error (trap 0x06) else .ok ())
      fun _ g s => effs g s s.me := by
  refine command_of .t fixed hi (fun _ _ _ => False.elim) (fun g s f _ _ hf => ?_) fun g s c _ _ hc => ?_
  · split at hf
    · next hb => exact (if_pos hb).trans (congrArg Res.trap (Except.error.inj hf))
    · cases hf
  · split at hc
    · cases hc
    · next hb => exact if_neg hb

/-- `pset` is a command that waits for nothing (R188). -/
theorem pset_command :
    Command .pset 6 0x01 .srcAB (fun _ _ => False) (fun g s => s.psetCheck s.me (s.me.s g.a) (s.me.s g.b).toNat) (fun e g s =>
      [.touch (s.me.s g.b).toNat 64, .palette (s.me.s g.a).toNat e]) :=
  command_of .t false exec_pset (fun _ _ _ => False.elim) (fun g s f _ _ hf => by simp only [Ctx.sa, Ctx.sb, hf])
    fun g s e _ _ hc => by simp only [Ctx.sa, Ctx.sb, hc]

/-- Settles O40: the 16 forms of `mmq`, `mdrain`, `mzero`, `mstat`, then the Palette. -/
theorem matrixCommands : Obligations.MatrixCommands :=
  ⟨mmq_laws exec_mmq, mmq_laws exec_mmqZ, mmq_laws exec_mmqRc, mmq_laws exec_mmqZRc, mmq_laws exec_mmqTa, mmq_laws exec_mmqZTa,
    mmq_laws exec_mmqRcTa, mmq_laws exec_mmqZRcTa, mmq_laws exec_mmqTb, mmq_laws exec_mmqZTb, mmq_laws exec_mmqRcTb, mmq_laws exec_mmqZRcTb,
    mmq_laws exec_mmqTaTb, mmq_laws exec_mmqZTaTb, mmq_laws exec_mmqRcTaTb, mmq_laws exec_mmqZRcTaTb, fun _ _ w => mdrain_laws w,
    engineField_command (bad := fun g => 1 < g.d.toNat) exec_mzero, engineField_command (bad := fun g => 1 < g.b.toNat) exec_mstat,
    pset_command, paletteEntry_command exec_pget, paletteEntry_command exec_pinv⟩

end Sys2Proof.Machine
end

section
/-! Slot 6 of the control profile (R299 to R309). -/

namespace Sys2Proof.Machine

section
variable {i : G → Instr} {op : BitVec 8} {h : Shape} {fixed : Bool} {p q : G → State → Prop} {c d : BitVec 8}
  {body : State → G → Ctx → Res} {effs : G → State → List Effect}

/-- A control operation with one check. -/
theorem tested_command [∀ g s, Decidable (p g s)] (hi : ∀ g s, exec (i g) s = s.slotOp .k op h g fixed (body s g))
    (hp : ∀ g s, p g s → body s g s.me = .trap (trap c)) (hn : ∀ g s, ¬p g s → body s g s.me = done (effs g s)) :
    Command i 6 op h (fun _ _ => False) (fun g s => if p g s then .error (trap c) else .ok ()) fun _ g s => effs g s := by
  refine command_of .k fixed hi (fun _ _ _ => False.elim) (fun g s f _ _ hf => ?_) fun g s _ _ _ hc => ?_
  · split at hf
    · next hb => rw [hp g s hb, Except.error.inj hf]
    · cases hf
  · split at hc
    · cases hc
    · next hb => exact hn g s hb

/-- A control operation with two checks in order. -/
theorem testedTwice_command [∀ g s, Decidable (p g s)] [∀ g s, Decidable (q g s)]
    (hi : ∀ g s, exec (i g) s = s.slotOp .k op h g fixed (body s g))
    (hp : ∀ g s, p g s → body s g s.me = .trap (trap c)) (hq : ∀ g s, ¬p g s → q g s → body s g s.me = .trap (trap d))
    (hn : ∀ g s, ¬p g s → ¬q g s → body s g s.me = done (effs g s)) :
    Command i 6 op h (fun _ _ => False)
      (fun g s => (if p g s then Except.error (trap c) else Except.ok ()) >>= fun _ => if q g s then .error (trap d) else .ok ())
      fun _ g s => effs g s := by
  refine command_of .k fixed hi (fun _ _ _ => False.elim) (fun g s f _ _ hf => ?_) fun g s _ _ _ hc => ?_
  · by_cases hb : p g s
    · rw [if_pos hb] at hf
      rw [hp g s hb, Except.error.inj hf]
    · rw [if_neg hb] at hf
      by_cases hb2 : q g s
      · rw [hq g s hb hb2, Except.error.inj (((if_pos hb2).symm.trans hf))]
      · exact nomatch (if_neg hb2).symm.trans hf
  · by_cases hb : p g s
    · rw [if_pos hb] at hc
      cases hc
    · rw [if_neg hb] at hc
      by_cases hb2 : q g s
      · exact nomatch (if_pos hb2).symm.trans hc
      · exact hn g s hb hb2

/-- A control operation that always completes. -/
theorem sure_command (hi : ∀ g s, exec (i g) s = s.slotOp .k op h g fixed (body s g))
    (hn : ∀ g s, body s g s.me = done (effs g s)) :
    Command i 6 op h (fun _ _ => False) (fun _ _ => Except.ok (ε := SlotFault) ()) fun _ g s => effs g s :=
  command_of .k fixed hi (fun _ _ _ => False.elim) (fun _ _ _ _ _ hf => nomatch hf) fun g s _ _ _ _ => hn g s

end

theorem fld_key (v : W64) : fld v 10 0 = v.toNat % 2 ^ 11 := by simp [fld, nfld]

theorem fld_reserved (v : W64) : fld v 31 11 = v.toNat / 2 ^ 11 % 2 ^ 21 := rfl

theorem fld_upper (v : W64) : fld v 63 32 = v.toNat / 2 ^ 32 := Nat.mod_eq_of_lt (by omega)

/-- The counters and sequence numbers that `jread` gives (R302). -/
theorem jread_laws {g : G} {s : State} (w : Runs .sImm2 g s) :
    exec (.jread g) s = .next (s.later 2 (.s g.d (
      if g.b.toNat = 0 then s.mine.jcom else if g.b.toNat = 1 then s.mine.japp
      else (s.mine.lastseq ((s.me.s g.a).toNat % 2 ^ 11)).zeroExtend 64)) 0) := by
  rw [exec_jread, execJread, slotOp_settles w, State.settles_done, State.did, State.commit_launch, fld_key]
  split
  · next h => rw [if_pos h]
  · next h => rw [h, if_neg Nat.one_ne_zero, if_pos rfl]
  · next h0 h1 =>
    rw [if_neg h0, if_neg h1]
    rfl

/-- `jcommit` waits for the core's pushes, then tests its number (R302). -/
theorem jcommit_command : Command .jcommit 6 0x04 .srcA (fun _ s => s.pushing = true)
    (fun g s => if (s.me.s g.a).toNat < s.mine.jcom.toNat ∨ s.mine.japp.toNat < (s.me.s g.a).toNat then .error (trap 0x06) else .ok ())
    (fun _ g s => [.ctl (.jcommit (s.me.s g.a).toNat)]) := by
  refine command_of .k false exec_jcommit (fun g s _ hw => if_pos hw) (fun g s f _ hw hf => ?_) fun g s _ _ hw hc => ?_
  · rw [if_neg hw]
    split at hf
    · next hb => exact (if_pos hb).trans (congrArg Res.trap (Except.error.inj hf))
    · cases hf
  · rw [if_neg hw]
    split at hc
    · cases hc
    · next hb => exact if_neg hb

/-- Settles O41, instruction by instruction. -/
theorem controlOperations : Obligations.ControlOperations := by
  have hqueue (g : G) (s : State) : (fld (s.me.sa g) 31 11 ≠ 0 ∨ (!s.mine.queueOn (fld (s.me.sa g) 10 0)) = true ∨
      0xFFFC0 < (s.me.sb g).toNat) ↔ ((s.me.s g.a).toNat / 2 ^ 11 % 2 ^ 21 ≠ 0 ∨
        s.mine.queueOn ((s.me.s g.a).toNat % 2 ^ 11) = false ∨ 0xFFFC0 < (s.me.s g.b).toNat) := by
    rw [fld_key, Bool.not_eq_true', fld_reserved]
    rfl
  have hhold (g : G) (s : State) : (fld (s.me.sd g) 31 11 ≠ 0 ∨ s.mine.holdFull = true) ↔
      ((s.me.s g.d).toNat / 2 ^ 11 % 2 ^ 21 ≠ 0 ∨ s.mine.hold = true ∧ 16384 ≤ s.mine.holdCount) := by
    rw [Tower.holdFull, Bool.and_eq_true, decide_eq_true_iff, fld_reserved]
    rfl
  have htaking (s : State) : s.takingOver = true ↔ (s.tower (towerOf s.cur.core)).takeover = true ∧ s.isPrimary s.cur.core = false := by
    rw [State.takingOver, Bool.and_eq_true, Bool.not_eq_true']
    rfl
  refine ⟨tested_command exec_kscan (fun g s h => if_pos h) fun g s h => if_neg h,
    testedTwice_command exec_qread (fun g s h => if_pos ((hqueue g s).mpr h)) (fun g s h h2 => (if_neg (mt (hqueue g s).mp h)).trans (if_pos h2))
      fun g s h h2 => ((if_neg (mt (hqueue g s).mp h)).trans (if_neg h2)).trans ?_,
    tested_command exec_jappend (fun g s h => if_pos h) fun g s h => if_neg h, jcommit_command, fun g s w => jread_laws w,
    testedTwice_command exec_npush (fun g s h => if_pos h) (fun g s h h2 => (if_neg h).trans (if_pos h2))
      fun g s h h2 => ((if_neg h).trans (if_neg h2)).trans ?_,
    tested_command exec_cpost (fun g s h => if_pos ((hhold g s).mpr h)) fun g s h => (if_neg (mt (hhold g s).mp h)).trans ?_,
    sure_command exec_chold fun _ _ => rfl, ?_, sure_command exec_hbeat fun _ _ => rfl, ?_,
    testedTwice_command exec_tlbinv (fun g s h => if_pos h) (fun g s h h2 => (if_neg h).trans (if_pos h2))
      fun g s h h2 => (if_neg h).trans (if_neg h2)⟩
  · rw [fld_key, fld_upper]
    rfl
  · rw [fld_key, fld_upper]
    rfl
  · rw [fld_key, fld_upper, fld_upper]
    rfl
  · exact tested_command exec_crel (fun g s h => if_pos (Bool.and_eq_true_iff.mpr h)) fun g s h => if_neg (mt Bool.and_eq_true_iff.mp h)
  · exact tested_command exec_tko (fun g s h => if_neg (mt (htaking s).mp h)) fun g s h => if_pos ((htaking s).mpr (not_not.mp h))

end Sys2Proof.Machine
end

section
/-! Every slot instruction of general fields is one slot word whose body does not look at the bundle in issue (R15, R28). -/

namespace Sys2Proof.Machine

/-- Where no piece of a remote operation is out none is performed before an access (R136). -/
theorem readyFor_none {s : State} (h : s.pieces = []) (kind : Acc4) (rs : List (Nat × Nat)) : s.readyFor kind rs = s := by
  simp [State.readyFor, State.beforeS, State.before, h]

/-- Nothing has to be performed before a slot instruction: only slot 4 performs the earlier pieces of remote operations first (R136). -/
def Unhindered (i : Instr) (s : State) : Prop := mapOf i = .l → s.pieces = []

/-- The body of an instruction does not look at the bundle in issue, but for the generator words that its earlier slots take (R53). -/
def Blind (i : Instr) (B : State → Res) : Prop := ∀ (s : State) (u : Issue), Unhindered i s →
  ({ s with issue := u } : State).drawn = s.drawn → B { s with issue := u } = B s

/-- What an instruction of general fields does is one slot word of its shape, with a body that does not look at the bundle in issue. The
shape of an absent `vdqmx` is another one under the same guard (R45). -/
def General (i : Instr) (h : Shape) : Prop := ∃ (word : SlotWord) (fixed : Bool) (H : State → Shape) (B : State → Res),
  (∀ (s : State) (u : Issue), H { s with issue := u } = H s) ∧ (∀ s, (H s).guard = h.guard) ∧ Blind i B ∧
  ∀ s : State, Unhindered i s → exec i s = .next (s.stage ((H s).eval s.me (s.slotNo (mapOf i)) word (fieldsOf i) fixed (B s)))

section
variable {i : Instr} {word : SlotWord} {h : Shape} {fixed : Bool} {B : State → Res}

theorem general_of (hi : ∀ s : State, exec i s = .next (s.stage (h.eval s.me (s.slotNo (mapOf i)) word (fieldsOf i) fixed (B s))))
    (hB : Blind i B) : General i h :=
  ⟨word, fixed, fun _ => h, B, fun _ _ => rfl, fun _ => rfl, hB, fun s _ => hi s⟩

/-- A slot 4 word: it is evaluated once the pieces before it have been performed. -/
theorem general_after {r : State → State} (hm : mapOf i = .l)
    (hi : ∀ s : State, exec i s = .next ((r s).stage (h.eval (r s).me ((r s).slotNo (mapOf i)) word (fieldsOf i) fixed (B s))))
    (hr : ∀ s, s.pieces = [] → r s = s) (hB : Blind i B) : General i h :=
  ⟨word, fixed, fun _ => h, B, fun _ _ => rfl, fun _ => rfl, hB, fun s hp => by rw [hi, hr s (hp hm)]⟩

end

/-! Instructions that draw generator words are blind to all but the words of the earlier slots (R53). -/

theorem general_rng (g : G) : General (.rng g) .dstS := by
  refine general_of (fun _ => rfl) fun s u _ hd => ?_
  beta_reduce
  rw [hd]
  rfl

theorem general_vrng (g : G) : General (.vrng g) .dstV := by
  refine general_of (fun _ => rfl) fun s u _ hd => ?_
  beta_reduce
  rw [hd]
  rfl

theorem general_mdrain (g : G) : General (.mdrain g) .rawSs := by
  refine general_of (fun _ => rfl) fun s u _ hd => ?_
  beta_reduce
  rw [hd]
  rfl

/-! The 6-bit forms of `vdqmx` have another shape on a device without MX6 (R45). -/

theorem guard_vdqmx (s : State) : (if s.mx6 then Shape.vvImm1 else Shape.absentVdqmx).guard = Shape.vvImm1.guard := by
  split <;> rfl

theorem general_vdqmxE3m2 (g : G) : General (.vdqmxE3m2 g) .vvImm1 :=
  ⟨_, _, fun s => if s.mx6 then .vvImm1 else .absentVdqmx, _, fun _ _ => rfl, guard_vdqmx, fun _ _ _ _ => rfl, fun _ _ => rfl⟩

theorem general_vdqmxE2m3 (g : G) : General (.vdqmxE2m3 g) .vvImm1 :=
  ⟨_, _, fun s => if s.mx6 then .vvImm1 else .absentVdqmx, _, fun _ _ => rfl, guard_vdqmx, fun _ _ _ _ => rfl, fun _ _ => rfl⟩

/-! Map by map: what each instruction does unfolds to its slot word. -/

theorem general_c {i : Instr} {h : Shape} (hm : mapOf i = .c) (hs : shapeOf i = some h) : General i h := by
  cases i <;> cases hm <;> cases hs
  all_goals exact general_of (fun _ => rfl) fun _ _ _ _ => rfl

theorem general_s {i : Instr} {h : Shape} (hm : mapOf i = .s) (hs : shapeOf i = some h) : General i h := by
  cases i <;> cases hm <;> cases hs
  case rng g => exact general_rng g
  all_goals exact general_of (fun _ => rfl) fun _ _ _ _ => rfl

theorem general_v {i : Instr} {h : Shape} (hm : mapOf i = .v) (hs : shapeOf i = some h) : General i h := by
  cases i <;> cases hm <;> cases hs
  case vdqmxE3m2 g => exact general_vdqmxE3m2 g
  case vdqmxE2m3 g => exact general_vdqmxE2m3 g
  case vrng g => exact general_vrng g
  all_goals exact general_of (fun _ => rfl) fun _ _ _ _ => rfl

theorem general_n {i : Instr} {h : Shape} (hm : mapOf i = .n) (hs : shapeOf i = some h) : General i h := by
  cases i <;> cases hm <;> cases hs
  all_goals exact general_of (fun _ => rfl) fun _ _ _ _ => rfl

theorem general_t {i : Instr} {h : Shape} (hm : mapOf i = .t) (hs : shapeOf i = some h) : General i h := by
  cases i <;> cases hm <;> cases hs
  case mdrain g => exact general_mdrain g
  all_goals exact general_of (fun _ => rfl) fun _ _ _ _ => rfl

theorem general_k {i : Instr} {h : Shape} (hm : mapOf i = .k) (hs : shapeOf i = some h) : General i h := by
  cases i <;> cases hm <;> cases hs
  all_goals exact general_of (fun _ => rfl) fun _ _ _ _ => rfl

theorem general_l {i : Instr} {h : Shape} (hm : mapOf i = .l) (hs : shapeOf i = some h) : General i h := by
  cases i <;> cases hm <;> cases hs
  all_goals
    refine general_after rfl (fun _ => rfl) (fun s hp => ?_) fun s u hp _ => ?_
    · beta_reduce
      rw [readyFor_none hp, ite_self]
    · beta_reduce
      rw [readyFor_none (hp rfl), readyFor_none (s := { s with issue := u }) (hp rfl), ite_self, ite_self]
      rfl

theorem shapeOf_ev {i : Instr} (h : mapOf i = .ev) : shapeOf i = none := by
  cases i <;> cases h <;> rfl

/-- Every instruction of general fields. -/
theorem general_all {i : Instr} {h : Shape} (hm : mapOf i ≠ .any) (hs : shapeOf i = some h) : General i h := by
  cases h0 : mapOf i with
  | any => exact absurd h0 hm
  | c => exact general_c h0 hs
  | s => exact general_s h0 hs
  | v => exact general_v h0 hs
  | l => exact general_l h0 hs
  | n => exact general_n h0 hs
  | t => exact general_t h0 hs
  | k => exact general_k h0 hs
  | ev =>
    rw [shapeOf_ev h0] at hs
    cases hs

end Sys2Proof.Machine
end

section
/-! One record for every slot word, and a disabled operation (R16, R17, R28 to R30). -/

namespace Sys2Proof.Machine

section
variable (x : Ctx) (slot : Nat) (word : SlotWord) (guard : Option Reg) (blockers : List Reg) (starved fixed : Bool) (dests : List Reg)
  (body : Res)

theorem Ctx.waitRec_slot (rs : List Reg) : (x.waitRec slot word rs).slot = slot := by
  unfold Ctx.waitRec
  split
  · rfl
  · split <;> rfl

/-- A slot word's record is of its slot. -/
theorem Ctx.evalWith_slot (on : Bool) : (x.evalWith slot word guard on blockers starved fixed dests body).slot = slot := by
  unfold Ctx.evalWith
  dsimp only
  split
  · exact x.waitRec_slot ..
  split
  · rfl
  split
  · exact x.waitRec_slot ..
  cases body with
  | wait | waitHeld | trap f => rfl
  | ok effs draws | park p => cases starved <;> rfl

/-- An operation that its guard disables has a record that does nothing. -/
theorem Ctx.evalWith_off (h : ∀ r, guard = some r → x.isFull r = true) :
    x.evalWith slot word guard false blockers starved fixed dests body = SlotRec.idle slot word := by
  have hheld : (guard.toList.filter fun r => !x.isFull r) = [] := by
    cases guard with
    | none => rfl
    | some r => simp [h r rfl]
  rw [Ctx.evalWith, hheld]
  rfl

end

/-- A bundle of one slot that does nothing. -/
theorem State.stage_idle {s : State} (h : s.issue = Issue.closed) (slot : Nat) (word : SlotWord) :
    s.stage (SlotRec.idle slot word) = s.onward := by
  rw [State.stage_closed h, verdict_commit rfl rfl rfl rfl rfl (.inl rfl)]
  exact State.commit_nil s 0

/-- There is one record of a slot that an instruction joins to the open bundle, or closes at once with none open. -/
def JoinsOne (i : Instr) (s : State) (k : Nat) : Prop :=
  ∃ a : SlotRec, a.slot = k ∧
    ∀ u : Issue, (u = Issue.closed ∧ k = (mapOf i).slot ∨ u.opened = true ∧ u.slot = k ∧ (u.recs.map (·.draws)).sum = 0) →
    let t : State := { s with issue := u }
    exec i t = .next (if u.opened then { t with issue := { u with recs := u.recs ++ [a] } }
      else ({ t with issue := ⟨false, 0, [a]⟩ } : State).closeBundle)

/-- An instruction joins one record if that depends on the bundle in issue only through the slot's number and the generator words taken. -/
theorem joinsOne_of {i : Instr} (R : Nat → State → SlotRec) (hslot : ∀ k s, (R k s).slot = k)
    (hi : ∀ s, Unhindered i s → exec i s = .next (s.stage (R (s.slotNo (mapOf i)) s)))
    (hR : ∀ k (s : State) (u : Issue), Unhindered i s → ({ s with issue := u } : State).drawn = s.drawn → R k { s with issue := u } = R k s)
    (s : State) (k : Nat) (hs : Unhindered i s) : JoinsOne i s k := by
  refine ⟨R k { s with issue := Issue.closed }, hslot .., fun u hu => ?_⟩
  intro t
  have hno : t.slotNo (mapOf i) = k := by
    rcases hu with ⟨rfl, rfl⟩ | ⟨ho, rfl, -⟩
    · rfl
    · exact if_pos ho
  have hdrawn : t.drawn = 0 := by
    rcases hu with ⟨rfl, -⟩ | ⟨ho, -, hd⟩
    · rfl
    · exact (if_pos ho).trans hd
  have hrec : R k t = R k { s with issue := Issue.closed } := hR k { s with issue := Issue.closed } u hs hdrawn
  rw [hi t hs, hno, hrec]
  rfl

/-- Every instruction of general fields joins one record. -/
theorem General.joinsOne {i : Instr} {h : Shape} (hg : General i h) (s : State) (k : Nat) (hs : Unhindered i s) : JoinsOne i s k := by
  obtain ⟨word, fixed, H, B, hH, -, hB, hi⟩ := hg
  refine joinsOne_of (fun k s => (H s).eval s.me k word (fieldsOf i) fixed (B s)) (fun _ _ => Ctx.evalWith_slot ..) hi (fun k s u hp hd => ?_) s k hs
  rw [hH, hB s u hp hd]
  rfl

/-- The instructions of other forms join one record: branches, loops, and the words of every map. -/
theorem joinsOne_other {i : Instr} (hm : mapOf i ≠ .ev) (hs : shapeOf i = none) (s : State) (k : Nat) (hp : Unhindered i s) : JoinsOne i s k := by
  cases i <;> cases hs
  case nop => exact joinsOne_of (fun k _ => SlotRec.idle k 0) (fun _ _ => rfl) (fun _ _ => rfl) (fun _ _ _ _ _ => rfl) s k hp
  case illop w =>
    exact joinsOne_of (fun k _ => { SlotRec.idle k w with illop := true }) (fun _ _ => rfl) (fun _ _ => rfl) (fun _ _ _ _ _ => rfl) s k hp
  case extensionOpcode op g =>
    let H (k : Nat) : Shape := if k == 2 || k == 3 then .srcVV else .srcAB
    exact joinsOne_of (fun k s => (H k).eval s.me k (State.slotOp.wordOf (7#3 ++ op) g) g false ((H k).extop s.me g))
      (fun _ _ => Ctx.evalWith_slot ..) (fun _ _ => rfl) (fun _ _ _ _ _ => rfl) s k hp
  case br j =>
    exact joinsOne_of (fun k s => s.me.evalWith k (BitVec.ofBool j.n ++ j.p ++ (0x01 : BitVec 8) ++ j.t) (some (.p j.p)) (s.me.p j.p != j.n) [] false
      false [] (s.me.branchTo s.cur.core j.t.toNat none)) (fun _ _ => Ctx.evalWith_slot ..) (fun _ _ => rfl) (fun _ _ _ _ _ => rfl) s k hp
  case brl j =>
    exact joinsOne_of (fun k s => s.me.evalWith k (BitVec.ofBool j.n ++ j.p ++ (0x02 : BitVec 8) ++ j.t) (some (.p j.p)) (s.me.p j.p != j.n)
      ([Reg.s 62].filter fun r => !s.me.isFull r) false false [.s 62] (s.me.branchTo s.cur.core j.t.toNat (some 62)))
      (fun _ _ => Ctx.evalWith_slot ..) (fun _ _ => rfl) (fun _ _ _ _ _ => rfl) s k hp
  case lp l =>
    exact joinsOne_of (fun k s => s.me.evalWith k (BitVec.ofBool l.n ++ l.p ++ (0x05 : BitVec 8) ++ l.c ++ l.e) (some (.p l.p)) (s.me.p l.p != l.n)
      ([Reg.s l.c].filter fun r => !s.me.isFull r) false false [] (s.me.loopBy l.e.toNat (s.me.s l.c).toNat))
      (fun _ _ => Ctx.evalWith_slot ..) (fun _ _ => rfl) (fun _ _ _ _ _ => rfl) s k hp
  case lpi l =>
    exact joinsOne_of (fun k s => s.me.evalWith k (BitVec.ofBool l.n ++ l.p ++ (0x06 : BitVec 8) ++ l.c ++ l.e) (some (.p l.p)) (s.me.p l.p != l.n)
      [] false false [] (s.me.loopBy l.e.toNat (if l.c = 0 then 1024 else l.c.toNat)))
      (fun _ _ => Ctx.evalWith_slot ..) (fun _ _ => rfl) (fun _ _ _ _ _ => rfl) s k hp
  all_goals exact absurd rfl hm

/-- The words of every map have no shape of their own. -/
theorem shapeOf_any {i : Instr} (h : mapOf i = .any) : shapeOf i = none := by
  cases i <;> cases h <;> rfl

/-- Settles O53. -/
theorem oneRecord : Obligations.OneRecord := by
  intro i s k hm hp
  cases hs : shapeOf i with
  | none => exact joinsOne_other hm hs s k hp
  | some h => exact (general_all (fun hany => by rw [shapeOf_any hany] at hs; cases hs) hs).joinsOne s k hp

/-- A disabled instruction of general fields. -/
theorem General.disabled {i : Instr} {h : Shape} (hg : General i h) {s : State} (hs : Unhindered i s) (hc : s.issue = Issue.closed)
    (hfull : ∀ r, h.guard.reg (fieldsOf i).p = some r → s.me.isFull r = true) (hoff : h.guard.enabled s.me (fieldsOf i).n (fieldsOf i).p = false) :
    exec i s = .next s.onward := by
  obtain ⟨word, fixed, H, B, -, hH, -, hi⟩ := hg
  rw [hi s hs, Shape.eval, hH, hoff, Ctx.evalWith_off _ _ _ _ _ _ _ _ _ hfull, State.stage_idle hc]

/-- Settles O58: the general fields, then `br`, `brl`, `lp` and `lpi`. -/
theorem disabledOperation : Obligations.DisabledOperation := by
  refine ⟨fun i h s hs hm hp hc hfull hoff => (general_all hm hs).disabled hp hc hfull hoff, fun s n p hc hfull hn => ?_⟩
  have hguard : ∀ r, some (Reg.p p) = some r → s.me.isFull r = true := fun r hr => Option.some.inj hr ▸ hfull
  have hoff : (s.me.p p != n) = false := by rw [hn]; exact bne_self_eq_false n
  refine ⟨fun t => ?_, fun t => ?_, fun c e => ?_, fun c e => ?_⟩
  · rw [exec_br, execBr, State.branchJ]
    dsimp only
    rw [hoff, Ctx.evalWith_off _ _ _ _ _ _ _ _ _ hguard, State.stage_idle hc]
  · rw [exec_brl, execBrl, State.branchJ]
    dsimp only
    rw [hoff, Ctx.evalWith_off _ _ _ _ _ _ _ _ _ hguard, State.stage_idle hc]
  · rw [exec_lp, execLp]
    dsimp only
    rw [hoff, Ctx.evalWith_off _ _ _ _ _ _ _ _ _ hguard, State.stage_idle hc]
  · rw [exec_lpi, execLpi]
    dsimp only
    rw [hoff, Ctx.evalWith_off _ _ _ _ _ _ _ _ _ hguard, State.stage_idle hc]

end Sys2Proof.Machine
end

section
/-! Nothing stops the machine: no instruction is refused, and three events fault (R4, R231). -/

namespace Sys2Proof.Machine

/-- An instruction that answers a next state in every state. -/
def Completes (i : Instr) : Prop := ∀ s : State, ∃ t, exec i s = .next t

theorem completes_slot {i : Instr} (hm : mapOf i ≠ .ev) : Completes i := by
  intro s
  cases h : mapOf i with
  | ev => exact absurd h hm
  | any => cases i <;> cases h <;> exact ⟨_, rfl⟩
  | c => cases i <;> cases h <;> exact ⟨_, rfl⟩
  | s => cases i <;> cases h <;> exact ⟨_, rfl⟩
  | v => cases i <;> cases h <;> exact ⟨_, rfl⟩
  | l => cases i <;> cases h <;> exact ⟨_, rfl⟩
  | n => cases i <;> cases h <;> exact ⟨_, rfl⟩
  | t => cases i <;> cases h <;> exact ⟨_, rfl⟩
  | k => cases i <;> cases h <;> exact ⟨_, rfl⟩

/-! Entries of the host's queues. -/

theorem entry_completes (s : State) (q : Nat) (e : Rec64) (opc : Nat → Bool) (act : BitVec 32 → Option (Ans × State)) :
    ∃ t, s.entry q e opc act = .next t := by
  unfold State.entry
  split
  · exact ⟨_, rfl⟩
  split
  · exact ⟨_, rfl⟩
  dsimp only
  split
  · exact ⟨_, rfl⟩
  split <;> exact ⟨_, rfl⟩

theorem jobEntry_completes (s : State) (q : Nat) (e : Rec64) (opc : Nat → Bool) (layout : Bool)
    (act : Job → BitVec 32 → Option (Ans × State)) : ∃ t, s.jobEntry q e opc layout act = .next t :=
  entry_completes ..

theorem config_completes (s : State) (q : Nat) (e : Rec64) (sel : Nat → Bool) (act : Job → Option (Ans × State)) :
    ∃ t, s.config q e sel act = .next t := by
  unfold State.config
  split
  · exact ⟨_, rfl⟩
  · exact jobEntry_completes ..

/-! Events. -/

theorem completes_ev {i : Instr} (hm : mapOf i = .ev) (hx : ∀ id, i ≠ .transferCompletion id) (hw : ∀ j a b, i ≠ .hostCxlMemWrite j a b)
    (hr : ∀ j a n, i ≠ .hostCxlMemRead j a n) : Completes i := by
  intro s
  have hseal (h : ∃ q e, i = .seal q e) : ∃ t, exec i s = .next t := by
    obtain ⟨q, e, rfl⟩ := h
    rw [exec_seal, execSeal]
    exact jobEntry_completes ..
  cases i <;> cases hm
  any_goals exact hseal ⟨_, _, rfl⟩
  case transferCompletion id => exact absurd rfl (hx id)
  case hostCxlMemWrite j a b => exact absurd rfl (hw j a b)
  case hostCxlMemRead j a n => exact absurd rfl (hr j a n)
  case launch | node | preempt | layerpwr | badOpcode =>
    simp only [exec_launch, execLaunch, exec_node, execNode, exec_preempt, execPreempt, exec_layerpwr, execLayerpwr, exec_badOpcode,
      execBadOpcode]
    exact entry_completes ..
  case group | inval | pin | hostCancel | release | scopering | inject =>
    simp only [exec_group, execGroup, exec_inval, execInval, exec_pin, execPin, exec_hostCancel, execHostCancel, exec_release, execRelease,
      exec_scopering, execScopering, exec_inject, execInject]
    exact jobEntry_completes ..
  case sliplog | arbw | clock =>
    simp only [exec_sliplog, execSliplog, exec_arbw, execArbw, exec_clock, execClock]
    exact config_completes ..
  case engineCounterAdd | rctrRetest | qpushPost | completionWrite | frameTick | standbyReload | invalidationAck | scrub | thermalLimit |
    clockRestore | bringUp | timeFlit | linkRekey | queueCreate | registerWrite | imemue | layerPowerOn | fullService |
    precisionTimeMeasurement =>
    simp only [exec_engineCounterAdd, execEngineCounterAdd, exec_rctrRetest, execRctrRetest, exec_qpushPost, execQpushPost,
      exec_completionWrite, execCompletionWrite, exec_frameTick, execFrameTick, exec_standbyReload, execStandbyReload, exec_invalidationAck,
      execInvalidationAck, exec_scrub, execScrub, exec_thermalLimit, execThermalLimit, exec_clockRestore, execClockRestore, exec_bringUp,
      execBringUp, exec_timeFlit, execTimeFlit, exec_linkRekey, execLinkRekey, exec_queueCreate, execQueueCreate, exec_registerWrite,
      execRegisterWrite, exec_imemue, execImemue, exec_layerPowerOn, execLayerPowerOn, exec_fullService, execFullService,
      exec_precisionTimeMeasurement, execPrecisionTimeMeasurement]
    repeat' split
    all_goals exact ⟨_, rfl⟩
  all_goals exact ⟨_, rfl⟩

/-- What an outcome that does not complete can be: a page or an address outside every memory (R231). -/
def OnlyOutside (o : Out) : Prop := (∀ r, o ≠ .refused r) ∧ ∀ f, o = .fault f → f = .noSuchMemory

theorem onlyOutside_next (s : State) : OnlyOutside (.next s) := ⟨nofun, nofun⟩

theorem onlyOutside_fault : OnlyOutside (.fault .noSuchMemory) := ⟨nofun, fun _ h => (Host.Outcome.fault.inj h).symm⟩

theorem transferCompletion_outside (id : Nat) (s : State) : OnlyOutside (exec (.transferCompletion id) s) := by
  rw [exec_transferCompletion, execTransferCompletion]
  split
  · exact onlyOutside_next _
  split
  · exact onlyOutside_fault
  · exact onlyOutside_next _

theorem hostCxlMemWrite_outside (j : Option Nat) (a : Nat) (b : List Byte) (s : State) : OnlyOutside (exec (.hostCxlMemWrite j a b) s) := by
  rw [exec_hostCxlMemWrite, execHostCxlMemWrite]
  split
  · exact onlyOutside_fault
  · exact onlyOutside_next _

theorem hostCxlMemRead_outside (j : Option Nat) (a n : Nat) (s : State) : OnlyOutside (exec (.hostCxlMemRead j a n) s) := by
  rw [exec_hostCxlMemRead, execHostCxlMemRead]
  split
  · exact onlyOutside_fault
  · exact onlyOutside_next _

/-- The three events that may reach outside every memory. -/
def Reaches (i : Instr) : Prop :=
  (∃ id, i = .transferCompletion id) ∨ (∃ j a b, i = .hostCxlMemWrite j a b) ∨ ∃ j a n, i = .hostCxlMemRead j a n

/-- An instruction is one of the three events or completes. -/
theorem reaches_or_completes (i : Instr) : Reaches i ∨ Completes i := by
  by_cases hx : Reaches i
  · exact .inl hx
  · by_cases hm : mapOf i = .ev
    · exact .inr (completes_ev hm (fun id h => hx (.inl ⟨id, h⟩)) (fun j a b h => hx (.inr (.inl ⟨j, a, b, h⟩)))
        fun j a n h => hx (.inr (.inr ⟨j, a, n, h⟩)))
    · exact .inr (completes_slot hm)

theorem exec_outside (i : Instr) (s : State) : OnlyOutside (exec i s) := by
  rcases reaches_or_completes i with (⟨id, rfl⟩ | ⟨j, a, b, rfl⟩ | ⟨j, a, n, rfl⟩) | h
  · exact transferCompletion_outside id s
  · exact hostCxlMemWrite_outside j a b s
  · exact hostCxlMemRead_outside j a n s
  · obtain ⟨t, ht⟩ := h s
    rw [ht]
    exact onlyOutside_next t

/-! A step. -/

theorem settled_outside {o : Out} (h : OnlyOutside o) : OnlyOutside (settled o) := by
  cases o with
  | next s => exact onlyOutside_next _
  | fault f => exact h
  | refused r => exact h

theorem runSlots_outside (ws : List (Nat × Instr)) (s : State) : OnlyOutside (runSlots ws s) := by
  induction ws generalizing s with
  | nil => exact onlyOutside_next s
  | cons w ws ih =>
    have h := exec_outside w.2 { s with issue := { s.issue with slot := w.1 } }
    unfold runSlots
    cases he : exec w.2 { s with issue := { s.issue with slot := w.1 } } with
    | next t => exact ih t
    | fault f => rwa [he] at h
    | refused r => rwa [he] at h

theorem staged_outside (s : State) (r : CtxRef) : OnlyOutside (s.staged r) := by
  unfold State.staged
  dsimp only
  split
  · exact onlyOutside_next _
  · exact runSlots_outside ..

theorem issueStaged_outside (s : State) : OnlyOutside s.issueStaged := by
  unfold State.issueStaged
  split
  · exact exec_outside ..
  · exact onlyOutside_next _

theorem secondary_outside (s : State) (c : CoreRef) (occ : List Nat) : OnlyOutside (s.secondary c occ) := by
  unfold State.secondary
  dsimp only
  generalize (if s.atEnd ⟨c, true⟩ then [] else occupied ((s.core c).words (s.ctx ⟨c, true⟩).pc.toNat)) = mine
  split
  · exact onlyOutside_next _
  have hq := staged_outside s ⟨c, true⟩
  split
  · next f h => rwa [h] at hq
  · next r h => rwa [h] at hq
  · next t _ =>
    split
    · exact onlyOutside_next _
    split
    · exact onlyOutside_next _
    have hi := issueStaged_outside t
    split
    · exact onlyOutside_next _
    · next f h => rwa [h] at hi
    · next r h => rwa [h] at hi

theorem coreCycle_outside (s : State) (c : CoreRef) : OnlyOutside (s.coreCycle c) := by
  unfold State.coreCycle
  dsimp only
  split
  · exact secondary_outside ..
  have hp := staged_outside s ⟨c, false⟩
  split
  · next f h => rwa [h] at hp
  · next r h => rwa [h] at hp
  · next t _ =>
    split
    · exact secondary_outside ..
    split
    · exact secondary_outside ..
    have hi := issueStaged_outside t
    split
    · exact secondary_outside ..
    · next f h => rwa [h] at hi
    · next r h => rwa [h] at hi

theorem move_outside (s : State) : OnlyOutside s.move := by
  unfold State.move
  split
  · split
    · exact settled_outside (exec_outside ..)
    · exact settled_outside (coreCycle_outside ..)
  · split
    · exact settled_outside (exec_outside ..)
    · exact onlyOutside_next _

theorem step_outside (s : State) : OnlyOutside (step s) := by
  unfold step State.advance
  split
  · split
    · exact settled_outside (exec_outside ..)
    · exact onlyOutside_next _
  split
  · exact settled_outside (exec_outside ..)
  split
  · exact move_outside s
  split
  · exact settled_outside (exec_outside ..)
  · exact move_outside _

/-- Settles O57. -/
theorem nothingStops : Obligations.NothingStops := by
  refine ⟨fun i s => (exec_outside i s).1, fun i s f h => ⟨(exec_outside i s).2 f h, ?_⟩, fun s => (step_outside s).1, fun s => (step_outside s).2⟩
  rcases reaches_or_completes i with hi | hi
  · exact hi
  · obtain ⟨t, ht⟩ := hi s
    rw [ht] at h
    cases h

end Sys2Proof.Machine
end

section
/-! A step leaves no bundle open (R28, R29). -/

namespace Sys2Proof.Machine

theorem settled_inv {o : Out} {t : State} (h : settled o = .next t) : t.Inv := by
  cases o with
  | next s =>
    obtain rfl := Host.Outcome.next.inj h
    rfl
  | fault f => cases h
  | refused r => cases h

theorem move_inv {s t : State} (hs : s.Inv) (h : s.move = .next t) : t.Inv := by
  unfold State.move at h
  split at h
  · split at h <;> exact settled_inv h
  · split at h
    · exact settled_inv h
    · obtain rfl := Host.Outcome.next.inj h
      exact hs

/-- Settles O55. -/
theorem stepKeepsInv : Obligations.StepKeepsInv := by
  intro s t hs h
  unfold step State.advance at h
  split at h
  · split at h
    · exact settled_inv h
    · obtain rfl := Host.Outcome.next.inj h
      exact hs
  split at h
  · exact settled_inv h
  split at h
  · exact move_inv hs h
  split at h
  · exact settled_inv h
  · exact move_inv (s := s.draw.2) hs h

end Sys2Proof.Machine
end

section
/-! Entering the handler (R64, R95, R100). -/

namespace Sys2Proof.Machine

/-- A context of a control core in its handler, with one result of the interrupted bundle in the snapshot buffer. -/
def handlerCtx : Ctx := { Ctx.blank with spec.status := 8, snap := [⟨.s 1 5, 0, 3, true, 0, []⟩] }

/-- Refutes O59: a control core that stops for a second trap lets the results of its snapshot buffer land all the same, so more than its
status changes. -/
theorem not_trapEntry : ¬ Obligations.TrapEntry := by
  intro h
  let r : CtxRef := ⟨512, false⟩
  let s : State := State.reset.setCtx r handlerCtx
  have hr : s.ctx r = handlerCtx := State.ctx_setCtx ..
  have hm : (s.ctx r).tmask = true := by rw [hr]; rfl
  have hsnap := congrArg (fun u : State => (u.ctx r).snap) (h.2 s r { code := 0x01 } hm rfl)
  have hstop : s.takeTrap r { code := 0x01 } = s.modCtx r fun x => x.halt s.cycle := by
    rw [State.takeTrap, if_pos hm]
    rfl
  rw [hstop] at hsnap
  simp only [State.ctx_modCtx, hr] at hsnap
  cases hsnap

end Sys2Proof.Machine
end

section
/-! What a register's result changes, and that nothing else changes (R18, R25). -/

namespace Sys2Proof.Machine

/-- Two states differ in one context at most. -/
def OnlyCtx (s t : State) (r : CtxRef) : Prop :=
  t = { s with cores := t.cores } ∧ (∀ c, t.core c = { s.core c with p := (t.core c).p, q := (t.core c).q }) ∧ ∀ q, q ≠ r → t.ctx q = s.ctx q

theorem OnlyCtx.modCtx (s : State) (r : CtxRef) (f : Ctx → Ctx) : OnlyCtx s (s.modCtx r f) r := by
  refine ⟨rfl, fun c => ?_, fun q hq => State.ctx_modCtx_ne s f hq⟩
  by_cases hc : c = r.core
  · subst hc
    simp only [State.modCtx, State.setCtx, State.core_setCore]
    cases r.q <;> rfl
  · simp only [State.modCtx, State.setCtx, State.core_setCore_ne _ _ hc]

section
variable (x : Ctx) (v : RVal)

theorem Ctx.s_write_other {i : BitVec 6} (h : v.reg ≠ .s i) : (x.write v).s i = x.s i := by
  cases v with
  | s j y => rw [Ctx.s_write, if_neg (fun e => h (congrArg Reg.s e.1.symm))]
  | v j y => rfl
  | p j y => simp only [Ctx.write]; split <;> rfl
  | k j y => simp only [Ctx.write]; split <;> rfl

theorem Ctx.v_write_other {i : BitVec 6} (h : v.reg ≠ .v i) : (x.write v).v i = x.v i := by
  cases v with
  | s j y => simp only [Ctx.write]; split <;> rfl
  | v j y => rw [Ctx.v_write, if_neg (fun e => h (congrArg Reg.v e.symm))]
  | p j y => simp only [Ctx.write]; split <;> rfl
  | k j y => simp only [Ctx.write]; split <;> rfl

theorem Ctx.p_write_other {i : BitVec 3} (h : v.reg ≠ .p i) : (x.write v).p i = x.p i := by
  cases v with
  | s j y => simp only [Ctx.write]; split <;> rfl
  | v j y => rfl
  | p j y => rw [Ctx.p_write, if_neg (fun e => h (congrArg Reg.p e.1.symm))]
  | k j y => simp only [Ctx.write]; split <;> rfl

theorem Ctx.k_write_other {i : BitVec 3} (h : v.reg ≠ .k i) : (x.write v).k i = x.k i := by
  cases v with
  | s j y => simp only [Ctx.write]; split <;> rfl
  | v j y => rfl
  | p j y => simp only [Ctx.write]; split <;> rfl
  | k j y => rw [Ctx.k_write, if_neg (fun e => h (congrArg Reg.k e.1.symm))]

end

/-- s0, p0 and k0 read 0, true and all ones, and are full. -/
theorem Ctx.zeros (x : Ctx) : x.s 0 = 0 ∧ x.p 0 = true ∧ x.k 0 = BitVec.allOnes 128 ∧ x.isFull (.s 0) = true ∧ x.isFull (.p 0) = true ∧
    x.isFull (.k 0) = true := by
  simp [Ctx.s, Ctx.p, Ctx.k, Ctx.isFull]

/-- A register reads what is written to it; s0, p0 and k0 keep theirs. -/
def Reads (x : Ctx) (v : RVal) : Prop := match v with
  | .s i y => x.s i = if i = 0 then 0 else y
  | .v i y => x.v i = y
  | .p i y => x.p i = if i = 0 then true else y
  | .k i y => x.k i = if i = 0 then BitVec.allOnes 128 else y

theorem Ctx.reads_write (x : Ctx) (v : RVal) : Reads (x.write v) v := by
  obtain ⟨hs, hp, hk, -⟩ := x.zeros
  cases v with
  | s i y =>
    refine (x.s_write i i y).trans ?_
    by_cases h : i = 0
    · rw [if_neg (fun e => e.2 h), if_pos h, h, hs]
    · rw [if_pos ⟨rfl, h⟩, if_neg h]
  | v i y => exact (x.v_write i i y).trans (if_pos rfl)
  | p i y =>
    refine (x.p_write i i y).trans ?_
    by_cases h : i = 0
    · rw [if_neg (fun e => e.2 h), if_pos h, h, hp]
    · rw [if_pos ⟨rfl, h⟩, if_neg h]
  | k i y =>
    refine (x.k_write i i y).trans ?_
    by_cases h : i = 0
    · rw [if_neg (fun e => e.2 h), if_pos h, h, hk]
    · rw [if_pos ⟨rfl, h⟩, if_neg h]

/-- What a context keeps when its bundle is over. -/
theorem State.onward_me {α : Type} (s : State) (draws : Nat) (φ : Ctx → α) (h : ∀ (x : Ctx) pc npc loops emul replayAt rngctr,
      φ { x with pc := pc, npc := npc, loops := loops, emul := emul, replayAt := replayAt, spec.rngctr := rngctr } = φ x) :
    φ (s.me.onward s.cycle draws) = φ s.me := Ctx.onward_own φ h ..

theorem Ctx.isFull_empty (x : Ctx) (r : Reg) : (x.mark r false).isFull r = r.zero := by
  rw [Ctx.isFull_mark]
  cases h : r.zero
  · simp
  · rw [if_neg (by simp)]
    cases r <;> simp_all [Reg.zero, Ctx.isFull]

theorem State.later_me (s : State) (lat : Nat) (v : RVal) (flags : BitVec 5) (draws : Nat) :
    (s.later lat v flags draws).me = (s.me.onward s.cycle draws).await v flags (s.cycle + lat) := by
  show ((s.onward draws).modCtx s.cur _).ctx s.cur = _
  rw [State.ctx_modCtx, State.onward_ctx]

theorem Ctx.onward_spec (x : Ctx) (cycle draws : Nat) :
    (x.onward cycle draws).spec = { x.spec with rngctr := x.spec.rngctr + BitVec.ofNat 64 draws } := by
  unfold Ctx.onward
  rw [Ctx.ahead_eq]

/-- Settles O60. -/
theorem resultFrame : Obligations.ResultFrame := by
  refine ⟨Ctx.zeros, fun s v lat fl draws => ?_⟩
  intro x now later
  have hnow : now = (s.me.onward s.cycle 0).write v := by
    show (s.now v).me = _
    rw [State.now_me]
    exact congrArg (fun y : Ctx => y.write v) (s.onward_ctx 0)
  have hlater : later = (s.me.onward s.cycle draws).await v fl (s.cycle + lat) := s.later_me ..
  have hfull (d : Nat) (r : Reg) : (s.me.onward s.cycle d).isFull r = x.isFull r := s.onward_me d (fun y => y.isFull r) fun _ _ _ _ _ _ _ => rfl
  rw [hnow, hlater]
  refine ⟨Ctx.reads_write .., Ctx.isFull_empty .., fun r hr => ?_, fun r => ?_, ?_, ?_, fun i => ⟨?_, fun h => ?_⟩, fun i => ⟨?_, fun h => ?_⟩,
    fun i => ⟨?_, fun h => ?_⟩, fun i => ⟨?_, fun h => ?_⟩, ?_, ?_, ?_, ?_, ?_, ?_, ?_⟩
  · exact (Ctx.isFull_mark ..).trans ((if_neg fun e => hr e.1).trans (hfull draws r))
  · rw [Ctx.isFull_write, hfull]
  · exact congrArg (· ++ [(⟨v, fl, some (s.cycle + lat), false, 0, []⟩ : InFlight)]) (s.onward_me draws Ctx.inflight fun _ _ _ _ _ _ _ => rfl)
  · rw [Ctx.write_inflight]
    exact s.onward_me 0 Ctx.inflight fun _ _ _ _ _ _ _ => rfl
  · exact (Ctx.s_mark ..).trans (s.onward_me draws (fun y => y.s i) fun _ _ _ _ _ _ _ => rfl)
  · rw [Ctx.s_write_other _ _ h]
    exact s.onward_me 0 (fun y => y.s i) fun _ _ _ _ _ _ _ => rfl
  · exact (Ctx.v_mark ..).trans (s.onward_me draws (fun y => y.v i) fun _ _ _ _ _ _ _ => rfl)
  · rw [Ctx.v_write_other _ _ h]
    exact s.onward_me 0 (fun y => y.v i) fun _ _ _ _ _ _ _ => rfl
  · exact (Ctx.p_mark ..).trans (s.onward_me draws (fun y => y.p i) fun _ _ _ _ _ _ _ => rfl)
  · rw [Ctx.p_write_other _ _ h]
    exact s.onward_me 0 (fun y => y.p i) fun _ _ _ _ _ _ _ => rfl
  · exact (Ctx.k_mark ..).trans (s.onward_me draws (fun y => y.k i) fun _ _ _ _ _ _ _ => rfl)
  · rw [Ctx.k_write_other _ _ h]
    exact s.onward_me 0 (fun y => y.k i) fun _ _ _ _ _ _ _ => rfl
  · rw [Ctx.write_spec, Ctx.onward_spec]
    exact congrArg (fun n => { s.me.spec with rngctr := n }) (BitVec.add_zero _)
  · exact (Ctx.mark_spec ..).trans (Ctx.onward_spec ..)
  · rw [Ctx.write_palette]
    exact s.onward_me 0 Ctx.palette fun _ _ _ _ _ _ _ => rfl
  · exact (Ctx.mark_palette ..).trans (s.onward_me draws Ctx.palette fun _ _ _ _ _ _ _ => rfl)
  · rw [Ctx.write_asyncQ]
    exact s.onward_me 0 Ctx.asyncQ fun _ _ _ _ _ _ _ => rfl
  · exact (Ctx.mark_asyncQ ..).trans (s.onward_me draws Ctx.asyncQ fun _ _ _ _ _ _ _ => rfl)
  · rintro t (rfl | rfl)
    · exact (congrArg (OnlyCtx s · s.cur) (State.modCtx_modCtx s s.cur _ _)).mpr (OnlyCtx.modCtx ..)
    · exact (congrArg (OnlyCtx s · s.cur) (State.modCtx_modCtx s s.cur _ _)).mpr (OnlyCtx.modCtx ..)

end Sys2Proof.Machine
end

section
/-! Words of the encoding tables, the state after power-good, and a core's step. -/

namespace Sys2Proof.Machine

/-- A word decodes to the well-formed instruction that it encodes. -/
theorem decodeWord_of {i : Instr} {m : SlotMap} {w : SlotWord} (he : encode i = (w, 0)) (hwf : i.wf = true) (hm : mapOf i = m)
    (ha : m ≠ .any) (hv : m ≠ .ev) : decodeWord m w 0 = i := by
  have h := decodeEncode.1 i hwf (hm ▸ ha) (hm ▸ hv)
  rwa [he, hm] at h

/-- Settles O51: each word is its instruction's encoding. -/
theorem decodedWords : Obligations.DecodedWords := by
  refine ⟨?_, ?_, ?_, ?_, ?_, ?_, ?_, ?_, ?_, ?_, ?_, ?_, ?_, ?_, ?_, ?_, ?_⟩ <;>
    exact decodeWord_of rfl rfl rfl nofun nofun

/-! The machine right after power-good. -/

theorem core_reset (c : CoreRef) : State.reset.core c = Core.blank := Vector.getElem_replicate ..

theorem ctx_reset (r : CtxRef) : State.reset.ctx r = Ctx.blank := by
  rw [State.ctx, core_reset]
  cases r.q <;> rfl

theorem getLsbD_ones {w j : Nat} (h : j < w) : (BitVec.allOnes w).getLsbD j = true := by
  rw [BitVec.getLsbD_allOnes, decide_eq_true h]

theorem isFull_blank (g : Reg) : Ctx.blank.isFull g = true := by
  cases g with
  | s i => exact Bool.or_eq_true_iff.mpr (.inr (getLsbD_ones i.isLt))
  | v i => exact getLsbD_ones i.isLt
  | p i => exact Bool.or_eq_true_iff.mpr (.inr (getLsbD_ones i.isLt))
  | k i => exact Bool.or_eq_true_iff.mpr (.inr (getLsbD_ones i.isLt))

theorem s_blank (i : BitVec 6) : Ctx.blank.s i = 0 := by
  simp [Ctx.s, Ctx.blank]

theorem v_blank (i : BitVec 6) : Ctx.blank.v i = 0 := by
  simp [Ctx.v, Ctx.blank]

theorem p_blank {i : BitVec 3} (h : i ≠ 0) : Ctx.blank.p i = false := by
  rw [Ctx.p, if_neg h]
  exact BitVec.getLsbD_zero

theorem k_blank {i : BitVec 3} (h : i ≠ 0) : Ctx.blank.k i = 0 := by
  rw [Ctx.k, if_neg h]
  exact Vector.getElem_replicate ..

theorem wf_reset : Memory.wf State.reset = true := by
  have hcores : State.reset.cores.toList.all (fun k => k.mem.wf && tabWf 0 k.imem) = true := by
    rw [List.all_eq_true]
    intro k hk
    rw [State.reset, Vector.toList_replicate] at hk
    rw [List.eq_of_mem_replicate hk]
    rfl
  rw [Memory.wf, hcores]
  rfl

/-- Settles O56. -/
theorem resetState : Obligations.ResetState := by
  refine ⟨rfl, wf_reset, rfl, rfl, fun r => ?_, fun c a => ?_, fun c i => ?_, rfl, rfl, rfl, fun t => ?_⟩
  · rw [ctx_reset]
    exact ⟨rfl, isFull_blank, rfl, rfl, rfl, s_blank, v_blank, fun _ => p_blank, fun _ => k_blank, rfl, rfl, rfl, rfl, rfl, rfl⟩
  · rw [core_reset]
    exact ⟨rfl, rfl, rfl⟩
  · rw [core_reset]
    cases i <;> rfl
  · cases t <;> exact ⟨rfl, rfl⟩

end Sys2Proof.Machine
end

section
/-! A core's step runs the decoded bundle at P's pc (R12, R28, R33). -/

namespace Sys2Proof.Machine

/-! Records of slots that do nothing change no bundle. -/

/-- Every record of a list is of a slot that does nothing. -/
def AllIdle (L : List SlotRec) : Prop := ∀ r ∈ L, ∃ k w, r = SlotRec.idle k w

theorem AllIdle.forall {L : List SlotRec} (hL : AllIdle L) {P : SlotRec → Prop} (h : ∀ k w, P (SlotRec.idle k w)) : ∀ r ∈ L, P r := by
  intro r hr
  obtain ⟨k, w, rfl⟩ := hL r hr
  exact h k w

section
variable {L M : List SlotRec} (hL : AllIdle L) (hM : AllIdle M) (a : SlotRec)
include hL hM

theorem filter_padded {f : SlotRec → Bool} (h : ∀ k w, f (SlotRec.idle k w) = false) : (L ++ a :: M).filter f = [a].filter f := by
  have h1 : L.filter f = [] := List.filter_eq_nil_iff.mpr (hL.forall fun k w => by simp [h])
  have h2 : M.filter f = [] := List.filter_eq_nil_iff.mpr (hM.forall fun k w => by simp [h])
  rw [List.filter_append, h1, List.nil_append, ← List.singleton_append, List.filter_append, h2, List.append_nil]

theorem filterMap_padded {β : Type} {f : SlotRec → Option β} (h : ∀ k w, f (SlotRec.idle k w) = none) :
    (L ++ a :: M).filterMap f = [a].filterMap f := by
  have h1 : L.filterMap f = [] := List.filterMap_eq_nil_iff.mpr (hL.forall h)
  have h2 : M.filterMap f = [] := List.filterMap_eq_nil_iff.mpr (hM.forall h)
  rw [List.filterMap_append, h1, List.nil_append, ← List.singleton_append, List.filterMap_append, h2, List.append_nil]

theorem any_padded {f : SlotRec → Bool} (h : ∀ k w, f (SlotRec.idle k w) = false) : (L ++ a :: M).any f = [a].any f := by
  have h1 : L.any f = false := List.any_eq_false.mpr (hL.forall fun k w => by simp [h])
  have h2 : M.any f = false := List.any_eq_false.mpr (hM.forall fun k w => by simp [h])
  rw [List.any_append, h1, Bool.false_or, ← List.singleton_append, List.any_append, h2, Bool.or_false]

theorem sum_padded {f : SlotRec → Nat} (h : ∀ k w, f (SlotRec.idle k w) = 0) : ((L ++ a :: M).map f).sum = ([a].map f).sum := by
  have hsum {N : List SlotRec} (hN : ∀ r ∈ N, f r = 0) : (N.map f).sum = 0 :=
    List.sum_eq_zero fun x hx => by
      obtain ⟨r, hr, rfl⟩ := List.mem_map.mp hx
      exact hN r hr
  simp [hsum (hL.forall h), hsum (hM.forall h)]

theorem effs_padded : ((L ++ a :: M).map (·.effs)).flatten = ([a].map (·.effs)).flatten := by
  have hnil {N : List SlotRec} (hN : ∀ r ∈ N, r.effs = []) : (N.map (·.effs)).flatten = [] :=
    List.flatten_eq_nil_iff.mpr fun x hx => by
      obtain ⟨r, hr, rfl⟩ := List.mem_map.mp hx
      exact hN r hr
  simp [hnil (hL.forall fun _ _ => rfl), hnil (hM.forall fun _ _ => rfl)]

/-- No slot that does nothing names a destination. -/
theorem clashing_padded : clashing (L ++ a :: M) = [] := by
  have hall : ∀ r ∈ L ++ a :: M, r.dests = [] ∨ r = a := by
    intro r hr
    rcases List.mem_append.mp hr with hr | hr
    · exact .inl (hL.forall (P := fun r => r.dests = []) (fun _ _ => rfl) r hr)
    rcases List.mem_cons.mp hr with rfl | hr
    · exact .inr rfl
    · exact .inl (hM.forall (P := fun r => r.dests = []) (fun _ _ => rfl) r hr)
  rw [clashing, List.filter_eq_nil_iff]
  intro r hr
  rw [List.any_eq_true]
  rintro ⟨b, hb, hboth⟩
  obtain ⟨hne, hd⟩ := Bool.and_eq_true_iff.mp hboth
  rcases hall r hr with h | rfl
  · simp [h] at hd
  · rcases hall b hb with h | rfl
    · simp [h] at hd
    · simp at hne

theorem faultsOf_padded : faultsOf (L ++ a :: M) = faultsOf [a] := by
  have hnone (N : List SlotRec) (hN : clashing N = []) : faultsOf N = N.filterMap fun r => r.fault.map (r, ·) := by
    simp [faultsOf, hN]
  rw [hnone _ (clashing_padded hL hM a), hnone _ (clashing_single a)]
  exact filterMap_padded hL hM a fun _ _ => rfl

theorem parks_padded : (L ++ a :: M).findSome? (·.parks) = [a].findSome? (·.parks) := by
  have h1 : L.findSome? (·.parks) = none := List.findSome?_eq_none_iff.mpr (hL.forall fun _ _ => rfl)
  have h2 : M.findSome? (·.parks) = none := List.findSome?_eq_none_iff.mpr (hM.forall fun _ _ => rfl)
  rw [List.findSome?_append, h1, Option.none_or, ← List.singleton_append, List.findSome?_append, h2, Option.or_none]

/-- Slots that do nothing change no verdict. -/
theorem verdictOf_padded (x : Ctx) : verdictOf x (L ++ a :: M) = verdictOf x [a] := by
  unfold verdictOf
  rw [filter_padded hL hM a fun _ _ => rfl, any_padded hL hM a fun _ _ => rfl, any_padded hL hM a fun _ _ => rfl,
    any_padded hL hM a fun _ _ => rfl, filterMap_padded hL hM a fun _ _ => rfl, sum_padded hL hM a fun _ _ => rfl,
    parks_padded hL hM a, faultsOf_padded hL hM a]

theorem carry_padded (s : State) (r : CtxRef) (v : Verdict) : s.carry r (L ++ a :: M) v = s.carry r [a] v := by
  cases v with
  | commit =>
    show s.commit r _ _ = s.commit r _ _
    rw [effs_padded hL hM a, sum_padded hL hM a fun _ _ => rfl]
  | wait | waitHeld | park p | trap fs => rfl

end

/-! Slots evaluated in order. -/

theorem runSlots_next {k : Nat} {i : Instr} {xs : List (Nat × Instr)} {s u : State}
    (h : exec i { s with issue := { s.issue with slot := k } } = .next u) : runSlots ((k, i) :: xs) s = runSlots xs u := by
  rw [runSlots, h]

theorem runSlots_append {xs ys : List (Nat × Instr)} {s t : State} (h : runSlots xs s = .next t) : runSlots (xs ++ ys) s = runSlots ys t := by
  induction xs generalizing s with
  | nil =>
    obtain rfl := Host.Outcome.next.inj h
    rfl
  | cons x xs ih =>
    cases he : exec x.2 { s with issue := { s.issue with slot := x.1 } } with
    | next u =>
      rw [List.cons_append, runSlots_next he]
      rw [runSlots_next he] at h
      exact ih h
    | fault f =>
      rw [runSlots, he] at h
      cases h
    | refused r =>
      rw [runSlots, he] at h
      cases h

/-- Slots of `nop` in an open bundle. -/
theorem runSlots_nops (ks : List Nat) (s : State) (k : Nat) (recs : List SlotRec) :
    ∃ k', runSlots (ks.map fun j => (j, .nop)) { s with issue := ⟨true, k, recs⟩ } =
      .next { s with issue := ⟨true, k', recs ++ ks.map fun j => SlotRec.idle j 0⟩ } := by
  induction ks generalizing k recs with
  | nil => exact ⟨k, by simp [runSlots]⟩
  | cons j ks ih =>
    obtain ⟨k', hk⟩ := ih j (recs ++ [SlotRec.idle j 0])
    refine ⟨k', ?_⟩
    rw [List.append_assoc] at hk
    exact hk

theorem allIdle_nops (ks : List Nat) : AllIdle (ks.map fun j => SlotRec.idle j 0) := by
  intro r hr
  obtain ⟨j, -, rfl⟩ := List.mem_map.mp hr
  exact ⟨j, 0, rfl⟩

/-- The bundle of one instruction, at its slot. -/
theorem bundleOf_split (i : Instr) : ∃ xs ys : List Nat,
    bundleOf i = (xs.map fun j => (j, .nop)) ++ ((mapOf i).slot, i) :: ys.map fun j => (j, .nop) := by
  refine ⟨List.range (mapOf i).slot, (List.range (7 - (mapOf i).slot)).map ((mapOf i).slot + 1 + ·), ?_⟩
  unfold bundleOf
  cases mapOf i <;> rfl

/-! The step. -/

/-- Where P of a core is next to issue, the step is its bundle, evaluated in order and closed, and then Q's part (R33). -/
theorem step_issues {c : CoreRef} {rest : List CoreRef} {s t : State} (h : CoreNext c rest s)
    (hrun : runSlots (s.bundleAt ⟨c, false⟩) { s with turn := rest, cur := ⟨c, false⟩, issue := ⟨true, 0, []⟩ } = .next t)
    (hin : t.atEnd t.cur = false) : ∃ taken, step s = thenSecondary c taken (.next t.closeBundle) := by
  obtain ⟨hagenda, hdue, hchoices, hturn, hboundary, hoffers, hinside, hheld⟩ := h
  have hstaged : ({ s with turn := rest } : State).staged ⟨c, false⟩ = .next t := by
    rw [State.staged]
    exact (if_neg (Bool.eq_false_iff.mp hinside)).trans hrun
  have hadvance : step s = s.move := by
    unfold step State.advance
    simp only [hagenda, hdue, hchoices, List.isEmpty_nil, if_true]
  have hmove : s.move = settled (({ s with turn := rest } : State).coreCycle c) := by
    unfold State.move
    simp only [hturn, hboundary]
  have hcycle : ∃ taken, ({ s with turn := rest } : State).coreCycle c = t.closeBundle.secondary c taken := by
    rw [State.coreCycle, if_neg (by rw [show (({ s with turn := rest } : State).ctx ⟨c, false⟩).offers s.cycle = true from hoffers]; decide), hstaged]
    dsimp only
    split
    · exact ⟨_, rfl⟩
    · have hroom : ¬63 ≤ (({ s with turn := rest } : State).core c).qWait := Nat.not_le.mpr hheld
      rw [if_neg hroom, State.issueStaged, if_neg (Bool.eq_false_iff.mp hin)]
      exact ⟨_, rfl⟩
  obtain ⟨taken, hcycle⟩ := hcycle
  exact ⟨taken, by rw [hadvance, hmove, hcycle]; rfl⟩

/-- The bundle of one instruction comes to what the instruction does alone. -/
theorem runSlots_bundleOf {i : Instr} (hm : mapOf i ≠ .ev) {s : State} (hp : mapOf i = .l → s.pieces = []) :
    ∃ t, runSlots (bundleOf i) { s with issue := ⟨true, 0, []⟩ } = .next t ∧ t = { s with issue := t.issue } ∧
      exec i { s with issue := Issue.closed } = .next t.closeBundle := by
  obtain ⟨a, -, ha⟩ := oneRecord i s (mapOf i).slot hm hp
  obtain ⟨xs, ys, hsplit⟩ := bundleOf_split i
  obtain ⟨k1, hbefore⟩ := runSlots_nops xs s 0 []
  have hdraws : ((xs.map fun j => SlotRec.idle j 0).map (·.draws)).sum = 0 :=
    List.sum_eq_zero fun x hx => by
      obtain ⟨r, hr, rfl⟩ := List.mem_map.mp hx
      exact (allIdle_nops xs).forall (P := fun r => r.draws = 0) (fun _ _ => rfl) r hr
  have hopen := ha ⟨true, (mapOf i).slot, xs.map fun j => SlotRec.idle j 0⟩ (.inr ⟨rfl, rfl, hdraws⟩)
  obtain ⟨k2, hafter⟩ := runSlots_nops ys s (mapOf i).slot ((xs.map fun j => SlotRec.idle j 0) ++ [a])
  have halone := ha Issue.closed (.inl ⟨rfl, rfl⟩)
  refine ⟨{ s with issue := ⟨true, k2, (xs.map fun j => SlotRec.idle j 0) ++ [a] ++ ys.map fun j => SlotRec.idle j 0⟩ }, ?_, rfl, halone.trans (congrArg Host.Outcome.next ?_)⟩
  · rw [hsplit, runSlots_append hbefore]
    exact (runSlots_next hopen).trans hafter
  · rw [List.append_assoc, List.singleton_append]
    show (({ s with issue := Issue.closed } : State).carry s.cur [a] (verdictOf (s.ctx s.cur) [a])) =
      ({ s with issue := Issue.closed } : State).carry s.cur _ (verdictOf (s.ctx s.cur) _)
    rw [verdictOf_padded (allIdle_nops xs) (allIdle_nops ys) a, carry_padded (allIdle_nops xs) (allIdle_nops ys) a]

/-- Settles O54. -/
theorem stepRunsDecodedInstruction : Obligations.StepRunsDecodedInstruction := by
  refine ⟨fun s c rest h => ?_, fun t c taken h => ?_⟩
  · intro u
    refine ⟨fun t hrun hin => step_issues h hrun hin, fun i hm hp hi => ?_⟩
    obtain ⟨t, hrun, ht, hexec⟩ := runSlots_bundleOf hm (s := u) hp
    have hin : t.atEnd t.cur = false := by
      rw [ht]
      exact h.inside
    obtain ⟨taken, hstep⟩ := step_issues h (by rw [hi]; exact hrun) hin
    exact ⟨taken, hstep.trans (congrArg (thenSecondary c taken) hexec.symm)⟩
  · rw [State.secondary]
    exact if_pos (by rw [h]; rfl)

end Sys2Proof.Machine
end

section
/-! Results landing (R25, R31). -/

namespace Sys2Proof.Machine

/-- A context that still waits for the answer of a slot 5 load issued in cycle 0, with the result that answers it in flight. -/
def answeredEarly : Ctx := { Ctx.blank with
  inflight := [⟨.s 1 5, 0, none, false, 1, []⟩]
  s5 := [{ seq := 0, issued := 0, kind := .load, dst := some (.s 1), target := 0, first := 0, size := 8, left := 0, got := [],
           vac := false, filled := false }] }

/-- Refutes O42: a result that answers a slot 5 operation has no cycle of its own, and yet does not land earlier than 60 cycles after
the operation's issue (R31). -/
theorem not_contextEvents : ¬ Obligations.ContextEvents := by
  rintro ⟨-, hland, -⟩
  let r : CtxRef := ⟨0, false⟩
  let s : State := State.reset.setCtx r answeredEarly
  have hr : s.ctx r = answeredEarly := State.ctx_setCtx ..
  have hcycle : s.cycle = 0 := rfl
  obtain ⟨t, hstep, -, hgone, -⟩ := hland s r 0 ⟨.s 1 5, 0, none, false, 1, []⟩ (by rw [hr]; rfl) (by rintro d ⟨⟩)
  have hstays : s.landResult r 0 = s := by
    rw [State.landResult, hr, hcycle]
    rfl
  rw [exec_resultLanding, execResultLanding, hstays] at hstep
  cases hstep
  rw [hr] at hgone
  cases hgone

end Sys2Proof.Machine
end

section
/-! Pieces performed, element steps and lock events (R6, R81, R127, R128, R351). -/

namespace Sys2Proof.Machine

/-! What keeps every context's node. -/

/-- Two states in which every context has the same node, or none. -/
structure State.SameNodes (s u : State) : Prop where
  alive_eq : ∀ r node, u.alive r node = s.alive r node

theorem State.SameNodes.refl (s : State) : s.SameNodes s := ⟨fun _ _ => rfl⟩

theorem State.SameNodes.trans {s u v : State} (h : s.SameNodes u) (h' : u.SameNodes v) : s.SameNodes v :=
  ⟨fun r node => (h'.alive_eq r node).trans (h.alive_eq r node)⟩

theorem State.SameNodes.foldl {α : Type} {f : State → α → State} (h : ∀ s a, State.SameNodes s (f s a)) (l : List α) (s : State) :
    s.SameNodes (l.foldl f s) := by
  induction l generalizing s with
  | nil => exact .refl _
  | cons a l ih => exact (h s a).trans (ih (f s a))

theorem State.SameNodes.of_cores {s u : State} (h : u.cores = s.cores) : s.SameNodes u := by
  refine ⟨fun r node => ?_⟩
  simp only [State.alive, State.ctx, State.core, h]

theorem State.SameNodes.modCore (s : State) (c : CoreRef) {f : Core → Core} (hp : ∀ k, (f k).p = k.p) (hq : ∀ k, (f k).q = k.q) :
    s.SameNodes (s.modCore c f) := by
  refine ⟨fun r node => ?_⟩
  simp only [State.alive, State.ctx_modCore s c hp hq]

theorem State.SameNodes.coreFound (s : State) (c : CoreRef) (cause code job tenant scope : Nat) (ws : List Nat) (pal : Option Nat) :
    s.SameNodes (s.coreFound c cause code job tenant scope ws pal) := by
  refine .foldl (fun a sec => ?_) _ s
  split
  · exact .refl _
  · exact (State.SameNodes.modCore a c (f := fun k => { k with mem := k.mem.mark sec }) (fun _ => rfl) fun _ => rfl).trans
      (.of_cores (State.report_cores ..))

theorem Core.powerUp_ctxs (k : Core) (off n : Nat) : (k.powerUp off n).p = k.p ∧ (k.powerUp off n).q = k.q := by
  unfold Core.powerUp
  split <;> exact ⟨rfl, rfl⟩

theorem State.SameNodes.readsWord (s : State) (c : CoreRef) (off cause job tenant scope : Nat) :
    s.SameNodes (s.readsWord c off cause job tenant scope) := by
  unfold State.readsWord
  split
  · exact .refl _
  · refine (State.SameNodes.coreFound ..).trans (.modCore _ _ (fun k => ?_) fun k => ?_)
    · dsimp only
      split
      · exact (Core.powerUp_ctxs ..).1
      · rfl
    · dsimp only
      split
      · exact (Core.powerUp_ctxs ..).2
      · rfl

/-- A parked context runs on at most: it keeps its node. -/
theorem State.SameNodes.tests (s : State) (r : CtxRef) : s.SameNodes (s.tests r) := by
  unfold State.tests
  split
  next p hp =>
    split
    · refine ⟨fun q node => ?_⟩
      by_cases h : q = r
      · subst h
        simp only [State.alive, State.ctx_modCtx, hp]
        rfl
      · simp only [State.alive, State.ctx_modCtx_ne _ _ h]
    · exact .refl _
  · exact .refl _

theorem State.SameNodes.retest (s : State) (r : CtxRef) : s.SameNodes (s.retest r) := by
  refine State.SameNodes.trans ?_ (.tests ..)
  unfold State.readsWait
  split
  · exact .readsWord ..
  · exact .refl _

theorem State.SameNodes.testColl (s : State) (c : CollCmd) : s.SameNodes (s.testColl c) := by
  have h : s.SameNodes (if c.rctr = 0 then s else s.readsWord c.core c.rctr 0x02 c.job c.tenant c.scope) := by
    split
    · exact .refl _
    · exact .readsWord ..
  unfold State.testColl
  split
  · exact .refl _
  · generalize (if c.rctr = 0 then s else s.readsWord c.core c.rctr 0x02 c.job c.tenant c.scope) = u at h
    dsimp only
    split
    · exact h.trans (.of_cores rfl)
    · exact h

theorem State.SameNodes.retestCore (s : State) (c : CoreRef) : s.SameNodes (s.retestCore c) := by
  refine ((State.SameNodes.retest ..).trans (.retest ..)).trans (.foldl (fun a d => ?_) _ _)
  split
  · exact .testColl ..
  · exact .refl _

/-- What a piece does at its target leaves every context with its node. -/
theorem State.SameNodes.pieceEffect (s : State) (p : Piece) : s.SameNodes (s.pieceEffect p) := by
  unfold State.pieceEffect
  split
  · exact .refl _
  · exact .modCore _ _ (fun _ => rfl) fun _ => rfl
  · exact .modCore _ _ (fun _ => rfl) fun _ => rfl
  · dsimp only
    split
    next v _ =>
      exact (State.SameNodes.modCore s p.target (f := fun k => { k with mem := k.mem.put p.off (leBytes 8 v.toNat) })
        (fun _ => rfl) fun _ => rfl).trans (.retestCore ..)
    · exact (State.SameNodes.modCore s p.target (f := fun k => { k with mem := k.mem.correct p.off 8 })
        (fun _ => rfl) fun _ => rfl).trans (.retestCore ..)

/-- A piece that may be performed, which finds no uncorrectable word and whose context still runs its node: refused it has no effect at
its target, else its effect comes and the context gets its answer (R127, R128). -/
theorem State.performPiece_alive {s : State} {n : Nat} {p : Piece} (hn : s.pieces[n]? = some p) (hready : s.pieceReady n p = true)
    (halive : s.alive p.issuer p.node = true) (hfound : ({ s with pieces := s.pieces.eraseIdx n } : State).pieceFound p =
      { s with pieces := s.pieces.eraseIdx n }) :
    (∀ c, (s.core p.target).pieceCause p = some c → s.performPiece n = ({ s with pieces := s.pieces.eraseIdx n } : State).modCtx p.issuer
      fun x => (x.answer p ((s.core p.target).pieceBytes p true) false (s.pieceKind p != 2)).refuse c p.atl p.seq) ∧
    ((s.core p.target).pieceCause p = none → s.performPiece n =
      (({ s with pieces := s.pieces.eraseIdx n } : State).pieceEffect p).modCtx p.issuer fun x =>
        x.answer p ((s.core p.target).pieceBytes p false)
          (p.kind == .load && (List.range p.len).any fun i => !(s.core p.target).mem.has (p.off + i)) (s.pieceKind p != 2)) := by
  have hcore : ({ s with pieces := s.pieces.eraseIdx n } : State).core p.target = s.core p.target := rfl
  have hnow : ({ s with pieces := s.pieces.eraseIdx n } : State).alive p.issuer p.node = true := halive
  have hdo : s.performPiece n = s.performAt n p := by rw [State.performPiece, hn]; exact if_pos hready
  constructor
  · intro c hc
    rw [hdo, State.performAt]
    simp [hfound, hcore, hc, hnow]
  · intro hc
    rw [hdo, State.performAt]
    simp [hfound, hcore, hc, (State.SameNodes.pieceEffect _ p).alive_eq, hnow]

/-! A stream operation's steps. -/

/-- A value that lands in a scalar register (R25). -/
theorem Ctx.holds_land (x : Ctx) (i : BitVec 6) (v : W64) : Holds (x.land (.s i v)) (.s i v) := by
  refine ⟨?_, ?_⟩
  · rw [Ctx.land, Ctx.isFull_mark]
    by_cases hi : i = 0
    · subst hi; simp [RVal.reg, Reg.zero, Ctx.isFull]
    · exact if_pos ⟨rfl, beq_eq_false_iff_ne.mpr hi⟩
  · dsimp only
    rw [Ctx.land, Ctx.s_mark, Ctx.s_write]
    by_cases hi : i = 0
    · subst hi; simp [Ctx.s]
    · rw [if_neg hi, if_pos ⟨rfl, hi⟩]

/-- A change of a core that leaves its scratchpad alone. -/
theorem State.core_mem_modCore (s : State) (c : CoreRef) {f : Core → Core} (h : ∀ k, (f k).mem = k.mem) (d : CoreRef) :
    ((s.modCore c f).core d).mem = (s.core d).mem := by
  by_cases hd : d = c
  · subst hd; rw [State.core_modCore, h]
  · rw [State.core_modCore_ne _ _ hd]

/-- The end of a stream operation: its record is gone, its count is in its register and no byte has changed (R6, R83). -/
theorem State.endStream_laws (s : State) (r : CtxRef) (st : Stream) (n : Nat) :
    ((s.endStream r st n).ctx r).stream = none ∧ Holds ((s.endStream r st n).ctx r) (.s st.dreg (BitVec.ofNat 64 n)) ∧
      ∀ c, ((s.endStream r st n).core c).mem = (s.core c).mem := by
  unfold State.endStream State.unlock
  refine ⟨?_, ?_, fun c => ?_⟩
  · rw [State.ctx_modCtx, Ctx.land]
    simp
  · rw [State.ctx_modCtx]
    exact Ctx.holds_land ..
  · rw [State.core_modCtx_mem]
    exact (State.core_mem_modCore _ _ (fun _ => by rfl) c).trans (State.core_mem_modCore _ _ (fun _ => by rfl) c)

/-- A step of a stream operation that is due and has no element left ends it (R6, R7). -/
theorem State.streamStep_end {s : State} {r : CtxRef} {st : Stream} (hst : (s.ctx r).stream = some st) (hdue : st.due s.cycle = true)
    (hall : st.n ≤ st.moved) : s.streamStep r = s.endStream r st st.n := by
  simp only [State.streamStep, hst, hdue, if_pos hall, Bool.not_true, Bool.false_eq_true, if_false]

/-- The state in which the core's stream engine has made a context's turn, and the other context's next step comes later (R82). -/
def State.streamTurned (s : State) (r : CtxRef) (cycle : Nat) : State :=
  (s.modCore r.core fun k => { k with streamTurn := !r.q }).modCtx ⟨r.core, !r.q⟩ fun y =>
    { y with stream := y.stream.map fun z => if z.moved < z.n then { z with next := max z.next (cycle + 1) } else z }

theorem State.streamTurned_mem (s : State) (r : CtxRef) (cycle : Nat) (c : CoreRef) :
    ((s.streamTurned r cycle).core c).mem = (s.core c).mem := by
  rw [State.streamTurned, State.core_modCtx_mem]
  exact State.core_mem_modCore _ _ (fun _ => by rfl) c

/-- One element of a stream operation as its step moves it, after the pieces that come before it (R82). -/
def State.elemMoved (s : State) (r : CtxRef) (st : Stream) : State :=
  (s.before r { ranges := [(st.srcCore, st.src + st.moved * st.esize, st.esize),
    (st.dstCore, st.dst + st.moved * st.esize, st.esize)], writes := true }).moveElem r st

/-- The stream record after one element (R6). -/
def Stream.advanced (st : Stream) (cycle : Nat) : Stream := { st with moved := st.moved + 1, next := cycle + 1, resumed := false }

/-- A step of a stream operation that is due, has an element left and meets no bank in use moves it; the last one ends the
operation (R6, R82). -/
theorem State.streamStep_moves {s : State} {r : CtxRef} {st : Stream} (hst : (s.ctx r).stream = some st) (hdue : st.due s.cycle = true)
    (hleft : st.moved < st.n)
    (hsrc : st.srcCore = r.core → (s.core r.core).bankBusy s.cycle (st.src + st.moved * st.esize) = false)
    (hdst : st.dstCore = r.core → (s.core r.core).bankBusy s.cycle (st.dst + st.moved * st.esize) = false) :
    s.streamStep r = if st.moved + 1 < st.n
      then ((s.elemMoved r st).streamTurned r s.cycle).modCtx r fun x => { x with stream := some (st.advanced s.cycle) }
      else ((s.elemMoved r st).streamTurned r s.cycle).endStream r (st.advanced s.cycle) st.n := by
  have hfree : ¬((st.srcCore == r.core && (s.core r.core).bankBusy s.cycle (st.src + st.moved * st.esize)) ||
      (st.dstCore == r.core && (s.core r.core).bankBusy s.cycle (st.dst + st.moved * st.esize))) = true := by
    simp only [Bool.or_eq_true, Bool.and_eq_true, beq_iff_eq, not_or, not_and]
    exact ⟨fun h => by simp [hsrc h], fun h => by simp [hdst h]⟩
  simp only [State.streamStep, hst, hdue, if_neg (Nat.not_le.mpr hleft), if_neg hfree, Bool.not_true, Bool.false_eq_true, if_false]
  rfl

/-! Lock events. -/

/-- A lock event of an `rmv.h` of two members, whose other one is still to come (R351). -/
theorem State.lockEvent_src {s : State} {r : CtxRef} {st : Stream} (hst : (s.ctx r).stream = some st) (hrun : st.stopped = false)
    (hk : st.kind = .rmv) (hne : st.srcCore ≠ st.dstCore) (hsrc : st.srcLock = .requested) (hdst : st.dstLock = .requested) :
    s.lockEvent r false = ((if ((s.core st.srcCore).lockFailure st.src st.n false).isNone
      then s.modCore st.srcCore fun k => k.lock (s.ctx r).node st.src (2 * st.n) else s).modCtx r fun x =>
        { x with stream := some { st with srcLock := lockStateOf ((s.core st.srcCore).lockFailure st.src st.n false) } }) := by
  simp [State.lockEvent, hst, hrun, hk, hne, hsrc, hdst, LockState.open_]

theorem State.lockEvent_dst {s : State} {r : CtxRef} {st : Stream} (hst : (s.ctx r).stream = some st) (hrun : st.stopped = false)
    (hk : st.kind = .rmv) (hne : st.srcCore ≠ st.dstCore) (hsrc : st.srcLock = .requested) (hdst : st.dstLock = .requested) :
    s.lockEvent r true = ((if ((s.core st.dstCore).lockFailure st.dst st.n true).isNone
      then s.modCore st.dstCore fun k => k.lock (s.ctx r).node st.dst (2 * st.n) else s).modCtx r fun x =>
        { x with stream := some { st with dstLock := lockStateOf ((s.core st.dstCore).lockFailure st.dst st.n true) } }) := by
  simp [State.lockEvent, hst, hrun, hk, hne, hsrc, hdst, LockState.open_]

/-- Settles O43: a piece performed, the steps of a stream operation and the lock events. -/
theorem pieceEvents : Obligations.PieceEvents := by
  refine ⟨fun s n p hn hready halive => ?_, fun s r st hst hrun hready hall hnext => ?_,
    fun s r st hst hrun hready hleft hnext hsrc hdst => ?_, fun s r st hst hrun hk hne hsrc hdst => ?_⟩
  · intro s1 hfound
    obtain ⟨hrefused, hdone⟩ := State.performPiece_alive hn hready halive hfound
    rw [exec_piecePerformed, execPiecePerformed]
    dsimp only
    split
    next c hc => rw [hrefused c hc]
    next hc => rw [hdone hc]
  · have hdue : st.due s.cycle = true := by simp [Stream.due, hrun, hready, Nat.not_lt.mpr hall, hnext]
    obtain ⟨hgone, hheld, -⟩ := State.endStream_laws s r st st.n
    exact ⟨_, by rw [exec_streamElementStep, execStreamElementStep, State.streamStep_end hst hdue hall], hgone, hheld⟩
  · have hdue : st.due s.cycle = true := by simp [Stream.due, hrun, hready, hleft, hnext]
    refine ⟨_, by rw [exec_streamElementStep, execStreamElementStep, State.streamStep_moves hst hdue hleft hsrc hdst], ?_⟩
    split
    · refine ⟨by rw [State.ctx_modCtx]; rfl, fun c => ?_⟩
      rw [State.core_modCtx_mem, State.streamTurned_mem]
      rfl
    · obtain ⟨hgone, hheld, hmem⟩ := State.endStream_laws ((s.elemMoved r st).streamTurned r s.cycle) r (st.advanced s.cycle) st.n
      refine ⟨⟨hgone, hheld⟩, fun c => ?_⟩
      rw [hmem, State.streamTurned_mem]
      rfl
  · dsimp only
    rw [exec_lockEvent, exec_lockEvent, execLockEvent, execLockEvent, State.lockEvent_src hst hrun hk hne hsrc hdst,
      State.lockEvent_dst hst hrun hk hne hsrc hdst]
    constructor
    · cases (s.core st.srcCore).lockFailure st.src st.n false <;> rfl
    · cases (s.core st.dstCore).lockFailure st.dst st.n true <;> rfl

end Sys2Proof.Machine
end

section
/-! Events of the matrix engine (R193 to R209). -/

namespace Sys2Proof.Machine

/-! What makes a start wait. -/

/-- A reading without uncorrectable words waits for no trap queue (R96). -/
theorem State.findsFull_clean {s : State} {c : CoreRef} {rd : Reading} (h : (s.core c).finds rd = false) (r : CtxRef) (node : Nat) :
    s.findsFull c r node rd = false := by
  rw [State.findsFull, h, Bool.false_and]

/-- No command starts where the engine's owner is to be pre-empted (R198). -/
theorem State.mxStart_halted {s : State} {c : CoreRef} (h : s.mxHalted c = true) : s.mxStart c = s := by
  unfold State.mxStart
  split
  · rfl
  · simp only [h, Bool.or_true, Bool.true_or, if_true]

section Start

variable {s : State} {c : CoreRef} {q : MxCmd} {qs : List MxCmd} (hq : (s.core c).mx.queue = q :: qs)
  (hstart : (s.core c).mx.startable s.cycle q = true) (hrun : s.mxHalted c = false)

include hq hstart hrun

/-- An `mzero` that starts clears its accumulator (R199). -/
theorem State.mxStart_mzero (hop : q.op = .mzero) : s.mxStart c = s.modCore c fun k =>
    { k with mx := ({ k.mx with queue := { q with started := some s.cycle } :: qs } : Matrix).setAcc q.acc Acc.zero } := by
  have hreads : q.reads s.mx6 = [] := by rw [MxCmd.reads, hop]
  have hfull := State.findsFull_clean (s := s) (c := c) (rd := []) rfl (s.mxCtx c) (s.ctx (s.mxCtx c)).node
  rw [State.mxStart, hq]
  simp only [hstart, hrun, hreads, hfull, hop, Bool.not_true, Bool.or_false, Bool.false_eq_true, if_false]

end Start

/-- A command that starts in a cycle, with the operands it reads from its core (R193, R198). -/
def MxCmd.begun (q : MxCmd) (k : Core) (mx6 : Bool) (cycle : Nat) : MxCmd := { q with
  started := some cycle
  firstStep := q.step
  opA := if q.consumed then q.opA else k.viewBytes mx6 q.a
  opB := if q.consumed then q.opB else k.viewBytes mx6 q.b }

section Start

variable {s : State} {c : CoreRef} {q : MxCmd} {qs : List MxCmd} (hq : (s.core c).mx.queue = q :: qs)
  (hstart : (s.core c).mx.startable s.cycle q = true) (hrun : s.mxHalted c = false)

include hq hstart hrun

/-- An `mmq` that starts reads its operands; those it has consumed it keeps (R193, R196). -/
theorem State.mxStart_mmq {z rc ta tb : Bool} (hop : q.op = .mmq z rc ta tb)
    (hfull : s.findsFull c (s.mxCtx c) (s.ctx (s.mxCtx c)).node (q.reads s.mx6) = false) :
    s.mxStart c = (s.computeFound c (s.mxCtx c) (s.ctx (s.mxCtx c)).node (s.ctx (s.mxCtx c)).job (s.ctx (s.mxCtx c)).spec.tenant.toNat
        (s.ctx (s.mxCtx c)).spec.scope.toNat q.seq (q.reads s.mx6)).modCore c fun k =>
      { k with
        mx := ({ k.mx with queue := q.begun k s.mx6 s.cycle :: qs } : Matrix).setAcc q.acc
          { (if z && q.step == 0 then Acc.zero else k.mx.acc q.acc) with
            pois := (if z && q.step == 0 then Acc.zero else k.mx.acc q.acc).pois ||
              (!q.consumed && (q.sectors s.mx6).any fun sec => setHas k.mem.pois sec) } } := by
  rw [State.mxStart, hq]
  simp only [hstart, hrun, hfull, hop, MxCmd.begun, Bool.not_true, Bool.or_false, Bool.false_eq_true,
    if_false]

end Start

/-! Steps. -/

/-- A command's step that is due (R193, R196, R207). -/
theorem State.mxStep_due {s : State} {c : CoreRef} {q : MxCmd} {qs : List MxCmd} {at0 : Nat} (hq : (s.core c).mx.queue = q :: qs)
    (hstarted : q.started = some at0) (hdue : q.stepAt at0 ≤ s.cycle) :
    (q.op = .mzero → s.mxStep c = s.modCore c fun k => { k with mx := { k.mx with queue := qs, readyAt := s.cycle } }) ∧
    ∀ z rc ta tb, q.op = .mmq z rc ta tb →
      (q.step + 1 ≠ q.steps → s.mxStep c = s.modCore c fun k =>
        { k with
          mx := ({ k.mx with queue := { q with
              step := q.step + 1, started := if s.mxHalted c && !q.consumed then none else q.started } :: qs } : Matrix).setAcc q.acc
            (mmqStep s.mx6 q rc ta tb (k.mx.acc q.acc) q.step) }) ∧
      (q.step + 1 = q.steps → q.consumed = true → s.mxStep c = s.modCore c fun k =>
        { k with
          mx := ({ k.mx with queue := qs, readyAt := s.cycle } : Matrix).setAcc q.acc
            (checksum s.mx6 q rc ta tb (mmqStep s.mx6 q rc ta tb (k.mx.acc q.acc) q.step)) }) := by
  have hnow := Nat.not_lt.mpr hdue
  refine ⟨fun hop => ?_, fun z rc ta tb hop => ⟨fun hmore => ?_, fun hlast hcons => ?_⟩⟩
  · rw [State.mxStep, hq]
    simp only [hstarted, if_neg hnow, hop]
  · have hmore' : (q.step + 1 == q.steps) = false := beq_eq_false_iff_ne.mpr hmore
    rw [State.mxStep, hq]
    simp only [hstarted, if_neg hnow, hop, hmore', Bool.false_and, Bool.false_eq_true, if_false]
  · have hlast' : (q.step + 1 == q.steps) = true := beq_iff_eq.mpr hlast
    rw [State.mxStep, hq]
    simp only [hstarted, if_neg hnow, hop, hlast', hcons, Bool.not_true, Bool.and_false, Bool.false_eq_true, if_false, if_true]

/-- A command's operands are consumed (R197). -/
theorem State.mxConsume_due {s : State} {c : CoreRef} {q : MxCmd} {qs : List MxCmd} {z rc ta tb : Bool} {at0 : Nat}
    (hq : (s.core c).mx.queue = q :: qs) (hop : q.op = .mmq z rc ta tb) (hstarted : q.started = some at0) (hcons : q.consumed = false)
    (hdue : q.consumedAt at0 ≤ s.cycle) :
    s.mxConsume c = (s.modCore c fun k => { k with
        mx := { k.mx with queue := { q with consumed := true } :: qs }, holds := k.holds.filter fun h => h.2 != q.id }).ask
          (addOf c (some (s.mxCtx c)) q.ctr 1 (s.ctx (s.mxCtx c)).node (s.ctx (s.mxCtx c)).job (s.ctx (s.mxCtx c)).spec.scope.toNat
            (s.ctx (s.mxCtx c)).spec.tenant.toNat) := by
  rw [State.mxConsume, hq]
  simp only [hop, hstarted, hcons, Bool.false_or, decide_eq_true_eq, if_neg (Nat.not_lt.mpr hdue)]

/-! The drain. -/

/-- The values of a bias row as a drain's start reads them. -/
theorem Core.biasRow_get (k : Core) (v : Rec64) (j : Nat) :
    ((Array.range 128).map fun j => k.biasOf v j)[j]? = if j < 128 then some (k.biasOf v j) else none := by
  by_cases h : j < 128 <;> simp [h]

/-- A drain that starts, having found no uncorrectable word, reads its accumulator and its bias (R205 to R208). -/
theorem State.drainStart_due {s : State} {c : CoreRef} {d : Drain} {ds : List Drain} (hd : (s.core c).mx.drains = d :: ds)
    (hfresh : d.started = none) (hclean : (s.core c).finds d.reads = false) (hafter : ∀ q ∈ (s.core c).mx.queue, q.id ∉ d.after)
    (hheld : ∀ sec ∈ runSectors (viewRuns s.mx6 d.dst), ∀ h ∈ (s.core c).holds, h.1 = sec → h.2 = d.id) :
    s.drainStart c = s.modCore c fun k0 =>
      let k := k0.readIn d.reads
      let a := k.mx.acc d.acc
      let pois : Bool := a.pois || (runSectors d.biasRuns).any fun sec => setHas k.mem.pois sec
      { k with
        mx := { k.mx with drains := { d with
          started := some s.cycle, outPois := pois, failCol := if pois then none else a.failing
          out := (d.rows (coreIdReg c) a fun j => d.bias.bind fun v => if j < 128 then some (k.biasOf v j) else none).flatMap
            fun r => r.2.zipIdx.map fun b => (r.1 + b.2, b.1) } :: ds }
        holds := k.holds.filter fun h => h.2 != d.id } := by
  have hwait : ((s.core c).mx.queue.any fun q => d.after.contains q.id) = false := by
    simpa [List.any_eq_false] using hafter
  have hhold : ((runSectors (viewRuns s.mx6 d.dst)).any fun sec => (s.core c).holds.any fun h => h.1 == sec && h.2 != d.id) = false := by
    simp only [List.any_eq_false, Bool.and_eq_true, beq_iff_eq, bne_iff_ne, Bool.not_eq_true, not_and, not_not]
    exact hheld
  have hfull := State.findsFull_clean hclean d.ctx d.node
  rw [State.drainStart, hd]
  simp only [hfresh, hwait, hhold, hfull, State.computeFound_clean hclean, Option.isSome_none, Bool.or_false, Bool.false_eq_true, if_false,
    State.modCore_modCore, List.flatMap_def, Drain.biasRuns]
  obtain hb | ⟨v, hb⟩ := Option.eq_none_or_eq_some d.bias
  · simp only [hb]
    rfl
  · simp only [hb, Core.biasRow_get]
    rfl

/-- The end of a drain (R153, R206 to R209). -/
theorem State.drainPublish_due {s : State} {c : CoreRef} {d : Drain} {ds : List Drain} {at0 : Nat} (hd : (s.core c).mx.drains = d :: ds)
    (hstarted : d.started = some at0) (hdue : at0 + 150 ≤ s.cycle) :
    (d.discard = true → s.drainPublish c = s.modCore c fun k => k.endDrain d ds) ∧
    (∀ j, d.discard = false → d.failCol = some j → s.drainPublish c = s.drainFail c d ds j) ∧
    (d.discard = false → d.failCol = none → at0 + 152 ≤ s.cycle → s.drainPublish c =
      let s1 := s.modCore c fun k => k.publishDrain s.mx6 d ds
      let s2 := if d.outPois then s1 else s1.setChkf c d false
      (s2.cmdBump (some d.ctx) d.node d.dstId).ask (addOf c (some d.ctx) d.ctr 1 d.node d.job d.scope d.tenant)) := by
  have hnow := Nat.not_lt.mpr hdue
  refine ⟨fun hdis => ?_, fun j hdis hfail => ?_, fun hdis hfail hlate => ?_⟩
  · rw [State.drainPublish, hd]
    simp only [hstarted, if_neg hnow, hdis, if_true]
  · rw [State.drainPublish, hd]
    simp only [hstarted, if_neg hnow, hdis, hfail, Bool.false_eq_true, if_false]
  · rw [State.drainPublish, hd]
    simp only [hstarted, if_neg hnow, hdis, hfail, if_neg (Nat.not_lt.mpr hlate), Bool.false_eq_true, if_false]

/-- Settles O44: the events of the matrix engine. -/
theorem matrixEvents : Obligations.MatrixEvents := by
  refine ⟨fun s c hhalt => ?_, fun s c q qs hq hstart hrun hop => ?_, fun s c q qs z rc ta tb hq hstart hrun hop hclean => ?_,
    fun s c q qs z rc ta tb hq hstart hrun hop hfull => ?_, fun s c q qs at0 hq hstarted hdue => ?_,
    fun s c q qs z rc ta tb at0 hq hop hstarted hcons hdue => ?_, fun s c d ds hd hfresh hclean hafter hheld => ?_,
    fun s c d ds at0 hd hstarted => ?_, fun k mx6 d ds hwf => k.publishDrain_laws hwf mx6 d ds⟩
  · rw [exec_matrixCommandStart, execMatrixCommandStart, State.mxStart_halted hhalt]
  · rw [exec_matrixCommandStart, execMatrixCommandStart, State.mxStart_mzero hq hstart hrun hop]
  · rw [exec_matrixCommandStart, execMatrixCommandStart, State.mxStart_mmq hq hstart hrun hop (State.findsFull_clean hclean ..),
      State.computeFound_clean hclean, State.modCore_modCore]
    rfl
  · rw [exec_matrixCommandStart, execMatrixCommandStart, State.mxStart_mmq hq hstart hrun hop hfull]
    set u := s.computeFound c (s.mxCtx c) (s.ctx (s.mxCtx c)).node (s.ctx (s.mxCtx c)).job (s.ctx (s.mxCtx c)).spec.tenant.toNat
        (s.ctx (s.mxCtx c)).spec.scope.toNat q.seq (q.reads s.mx6) with hu
    refine ⟨_, q.begun (u.core c) s.mx6 s.cycle, rfl, ?_, rfl, rfl, ?_⟩
    · rw [State.core_modCore]
      exact Matrix.setAcc_queue ..
    · rw [State.core_modCore]
      dsimp only
      rw [Matrix.acc_setAcc, hu, State.computeFound_mx]
      dsimp only
      split <;> rfl
  · obtain ⟨hzero, hmul⟩ := State.mxStep_due hq hstarted hdue
    rw [exec_matrixStep, execMatrixStep]
    refine ⟨fun hop => by rw [hzero hop], fun z rc ta tb hop => ?_⟩
    obtain ⟨hmore, hlast⟩ := hmul z rc ta tb hop
    exact ⟨fun h => by rw [hmore h]; simp only [State.modCore], fun h hc => by rw [hlast h hc]; simp only [State.modCore]⟩
  · rw [exec_operandsConsumed, execOperandsConsumed, State.mxConsume_due hq hop hstarted hcons hdue]
    rfl
  · rw [exec_drainStart, execDrainStart, State.drainStart_due hd hfresh hclean hafter hheld]
    dsimp only
    rw [Drain.biasRuns]
    obtain hb | ⟨v, hb⟩ := Option.eq_none_or_eq_some d.bias
    · simp only [hb, show runSectors [] = [] from rfl, List.any_nil, Bool.or_false, Option.bind_none]
    · simp only [hb]
      rfl
  · rw [exec_drainPublish, execDrainPublish]
    refine ⟨fun hdue hdis => ?_, fun j t hdue hdis hfail hgo => ?_, fun hlate hdis hfail => ?_⟩
    · rw [(State.drainPublish_due hd hstarted hdue).1 hdis]
    · rw [(State.drainPublish_due hd hstarted hdue).2.1 j hdis hfail, State.drainFail]
      dsimp only
      rw [hgo]
    · rw [(State.drainPublish_due hd hstarted (by omega)).2.2 hdis hfail hlate]
      rfl

end Sys2Proof.Machine
end

section
/-! Events of the copy engines, of their counters and of completions (R216 to R228, R239, R293, R348). -/

namespace Sys2Proof.Machine

/-! Starts. -/

/-- A command that is the next of its continuation to start, on an engine with room, starts as its kind says (R219). -/
theorem State.startCmd_first {s : State} {c : Cmd} (hc : s.cmd c.id = some c) (hqueued : c.state = .queued) (horder : s.inOrder c = true)
    (hroom : ((s.engineOf c.core).filter Cmd.running).length < 16) :
    (c.op.transfers = true → s.unreachable c.core = false → s.underHold c = false →
      s.startCmd c.id = (s.setCmd { c with state := .running }).markSectors c) ∧
    (∀ v, c.op = .ctradd v → s.ctraddReady c.ctx c.node c.id c.core = true → s.unreachable c.core = false →
      s.startCmd c.id = (s.setCmd { c with state := .running }).ask
        (addOf c.core c.ctx c.ctr v c.node c.job c.scope c.tenant (some c.id) true)) := by
  have hrun : s.runRoom c.core = true := decide_eq_true hroom
  have hwait : (c.state == .waiting) = false := by rw [hqueued]; rfl
  have hfirst : (c.state != .queued || !s.inOrder c) = false := by rw [hqueued, horder]; rfl
  rw [State.startCmd, hc]
  simp only [hrun, hwait, hfirst, Bool.not_true, Bool.false_eq_true, if_false]
  constructor
  · intro htransfers hreach hfree
    cases hop : c.op <;> rw [hop] at htransfers
    case cpy | mov | movNp | cpyNp | fill v => simp only [hreach, hfree, Bool.false_eq_true, if_false]
    all_goals cases htransfers
  · intro v hop hready hreach
    simp only [hop, hready, hreach, Bool.false_eq_true, if_false, if_true]

/-! Transfers at work. -/

/-- A running transfer that no cancel has reached is at its elements (R221). -/
theorem State.completeCmd_running {s : State} {c : Cmd} (hc : s.cmd c.id = some c) (hrun : c.state = .running) (halive : c.killed = false)
    (htransfers : c.op.transfers = true) : s.completeCmd c.id = s.runCmd c := by
  have hskip : (c.state == .skipped) = false := by rw [hrun]; rfl
  have hrunning : c.running = true := by rw [Cmd.running, hrun]
  rw [State.completeCmd, hc]
  simp only [hskip, hrunning, halive, Bool.not_true, Bool.false_eq_true, if_false]
  cases hop : c.op <;> rw [hop] at htransfers
  case cpy | mov | movNp | cpyNp | fill v => rfl
  all_goals cases htransfers

/-- A transfer within the device's memories does not fault as it completes (R231; log 48). -/
theorem exec_transferCompletion_inside {s : State} {c : Cmd} (hc : s.cmd c.id = some c) (hin : s.outside c = false) :
    exec (.transferCompletion c.id) s = .next (s.completeCmd c.id) := by
  rw [exec_transferCompletion, execTransferCompletion, hc]
  simp only [hin, Bool.and_false, Bool.false_eq_true, if_false]

/-- A transfer that gets through its elements without an uncorrectable word ends as completed (R98, R221). -/
theorem State.runCmd_ends {s : State} {c c1 : Cmd} {s1 : State} (hreach : s.unreachable c.core = false)
    (hloop : s.elemLoop c ((c.elems s.mx6).drop c.pos) = (none, c1, s1)) (hclean : c1.found = none) :
    s.runCmd c = (if c1.op.np then s1.setCmd { c1 with state := .complete } else s1.publishCmd c1).cmdAdd c1 := by
  have hdevue : s1.devue c1 = .done s1 := by rw [State.devue, hclean]
  simp only [State.runCmd, hreach, hloop, State.finishCmd, hdevue, Bool.false_eq_true, if_false, Option.getD_some]

/-- A transfer whose element fails, for no want of a frame, is held there, its trap delivered (R96, R227). -/
theorem State.runCmd_held {s : State} {c c1 : Cmd} {s1 s2 : State} {f : ElemFail} {e : Elem} {r : CtxRef}
    (hreach : s.unreachable c.core = false) (hloop : s.elemLoop c ((c.elems s.mx6).drop c.pos) = (some (f, e), c1, s1))
    (hframe : f.code ≠ 0x21 ∨ f.cause ≠ 0x05) (hctx : c1.ctx = some r)
    (hdone : s1.deliver r c1.node ⟨f.code, (c1.record f e).1, (c1.record f e).2⟩ = .done s2) :
    s.runCmd c = s2.setCmd { c1 with state := .held f.code (c1.record f e).1 (c1.record f e).2 } := by
  have hwant : ¬(f.code = 0x21 ∧ f.cause = 0x05) := fun h => hframe.elim (· h.1) (· h.2)
  have hevict : ¬(f.code = 0x21 ∧ f.cause = 0x05 ∧ s1.evictable c1 f.addr = true) := fun h => hwant ⟨h.1, h.2.1⟩
  simp only [State.runCmd, hreach, hloop, if_neg hevict, State.holdCmd, hctx, hdone, if_neg hwant, Bool.false_eq_true, if_false]

/-- A running transfer that meets a failing element is at work (R227). -/
theorem State.holdAt_failing {s : State} {c c1 : Cmd} {s1 : State} {p : ElemFail × Elem} (hc : s.cmd c.id = some c)
    (hrun : c.state = .running) (halive : c.killed = false) (htransfers : c.op.transfers = true)
    (hloop : s.elemLoop c ((c.elems s.mx6).drop c.pos) = (some p, c1, s1)) : s.holdAt c.id = s.runCmd c := by
  have hrunning : c.running = true := by rw [Cmd.running, hrun]
  rw [State.holdAt, hc]
  simp only [hrunning, halive, htransfers, hloop, Bool.not_true, Bool.or_false, Bool.false_eq_true, if_false]

/-! `pub`, `dsc` and names. -/

/-- A `pub` that is next and whose transfers are complete publishes them (R216). -/
theorem State.pubCmd_first {s : State} {c : Cmd} (hc : s.cmd c.id = some c) (hqueued : c.state = .queued) (horder : s.inOrder c = true)
    (hop : c.op = .pub) (hcomplete : ∀ d ∈ s.npInto c.ctx c.node c.id c.dstId, d.state = .complete) :
    s.pubCmd c.id = ((if (s.npInto c.ctx c.node c.id c.dstId).isEmpty
        then (s.npInto c.ctx c.node c.id c.dstId).foldl (fun (a : State) d => a.publishData ((a.cmd d.id).getD d)) s
        else ((s.npInto c.ctx c.node c.id c.dstId).foldl (fun (a : State) d => a.publishData ((a.cmd d.id).getD d)) s).cmdBump
          c.ctx c.node c.dstId).endCmd c.id).cmdAdd c := by
  have hall : ((s.npInto c.ctx c.node c.id c.dstId).any fun d => d.state != .complete) = false := by
    simpa [List.any_eq_false] using hcomplete
  have hnow : (c.op != .pub || c.state != .queued || !s.inOrder c) = false := by rw [hop, hqueued, horder]; rfl
  rw [State.pubCmd, hc]
  simp only [hnow, hall, Bool.or_false, Bool.false_eq_true, if_false]

/-- A `dsc` that is next and whose transfers are complete or held discards them (R228). -/
theorem State.dscCmd_first {s : State} {c : Cmd} (hc : s.cmd c.id = some c) (hqueued : c.state = .queued) (horder : s.inOrder c = true)
    (hop : c.op = .dsc) (hsettled : ∀ d ∈ s.npInto c.ctx c.node c.id c.dstId, d.settled = true) :
    s.dscCmd c.id = (((s.npInto c.ctx c.node c.id c.dstId).foldl State.discardCmd s).endCmd c.id).cmdAdd c := by
  have hall : ((s.npInto c.ctx c.node c.id c.dstId).any fun d => !d.settled) = false := by
    simpa [List.any_eq_false] using hsettled
  have hnow : (c.op != .dsc || c.state != .queued || !s.inOrder c) = false := by rw [hop, hqueued, horder]; rfl
  rw [State.dscCmd, hc]
  simp only [hnow, hall, Bool.or_false, Bool.false_eq_true, if_false]

/-- A `kvshare` that may gives a block its further name (R239). -/
theorem State.nameCmd_share {s : State} {c : Cmd} {a b : W64} {n : Nat} (hc : s.cmd c.id = some c) (hrun : c.state = .running)
    (hwait : s.namesWait c = false) (hop : c.op = .kvshare a b) (ha : (s.tower (towerOf c.core)).block c.tenant a.toNat = some n)
    (hb : (s.tower (towerOf c.core)).block c.tenant b.toNat = none) (hnames : (s.tower (towerOf c.core)).namesOf n < 255)
    (hroom : (s.tower (towerOf c.core)).canvNames.length < 131072) :
    s.nameCmd c.id = (s.modTower (towerOf c.core) fun w => { w with canvNames := w.canvNames ++ [(c.tenant, b.toNat, n)] }).endCmd c.id := by
  have hrunning : c.running = true := by rw [Cmd.running, hrun]
  have hfits : ¬(255 ≤ (s.tower (towerOf c.core)).namesOf n ∨ 131072 ≤ (s.tower (towerOf c.core)).canvNames.length) := by omega
  rw [State.nameCmd, hc]
  simp only [hrunning, hwait, hop, ha, hb, if_neg hfits, Bool.not_true, Bool.or_false, Bool.false_eq_true, if_false]

/-! Counter adds. -/

/-- A last add to a doubleword whose words are sound (R348). -/
theorem State.addNow_clean {s : State} {a : AddReq} {off : Nat} (hctr : a.ctr = .mem off)
    (hfound : (s.core a.core).mem.foundRead off 8 = []) (hpois : (s.core a.core).mem.poisoned off = false) :
    s.addNow a = ((s.modCore a.core fun k => { k.powerUp off 8 with mem := k.mem.correct off 8 }).modCore a.core fun k =>
      { k with mem := k.mem.put off (leBytes 8 (k.added off a.amount).toNat) }).retestCore a.core := by
  have hsound : (((s.modCore a.core fun k => { k.powerUp off 8 with mem := k.mem.correct off 8 }).core a.core).mem.poisoned off) = false := by
    rw [State.core_modCore]
    exact (Scratch.poisoned_correct ..).trans hpois
  rw [State.addNow, hctr]
  simp only [hfound, State.coreFound_nil, hsound, Bool.false_eq_true, if_false]
  rfl

/-- A last add, with what waited for it (R212, R214, R348). -/
theorem State.makeAdd_last {s : State} {a : AddReq} (hlast : a.andThen = .none) :
    s.makeAdd a = if a.ends = false then s.addNow a
      else ({ s.addNow a with cmds := (s.addNow a).cmds.filter fun c => some c.id != a.src } : State).testColls a.core := by
  have hask : s.ask { a with ctr := .none, amount := 1, andThen := .none } = s := if_pos rfl
  rw [State.makeAdd, hlast, hask]
  cases a.ends <;> rfl

/-! Completions. -/

/-- The place of the entry that a tower writes next is that of the first entry that is not held (R293, R304). -/
theorem Tower.nextEntry_iff {w : Tower} {n : Nat} {c : Completion} (hc : w.completions[n]? = some c) :
    w.nextEntry = some n ↔ c.held = false ∧ ∀ d ∈ w.completions.take n, d.held = true := by
  obtain ⟨hn, rfl⟩ := List.getElem?_eq_some_iff.mp hc
  rw [Tower.nextEntry, List.findIdx?_eq_some_iff_getElem]
  constructor
  · rintro ⟨_, hfree, hbefore⟩
    refine ⟨by simpa using hfree, fun d hd => ?_⟩
    obtain ⟨i, hi, rfl⟩ := List.mem_take_iff_getElem.mp hd
    simpa using hbefore i (by omega)
  · rintro ⟨hfree, hbefore⟩
    refine ⟨hn, by simpa using hfree, fun i hi => ?_⟩
    simpa using hbefore _ (List.mem_take_iff_getElem.mpr ⟨i, by omega, rfl⟩)

/-- The next entry of a tower goes into its ring where that has room (R293). -/
theorem exec_completionWrite_next {s : State} {t : Bool} {n : Nat} {c : Completion} {u : Queue}
    (hc : (s.tower t).completions[n]? = some c) (hheld : c.held = false) (hu : s.queue c.queue = some u) (hen : u.en = true)
    (hbefore : ∀ d ∈ (s.tower t).completions.take n, d.held = true) (hroom : u.full = false) (hctx : c.ctx = none) :
    exec (.completionWrite t n) s = .next (({ s.modTower t fun w => { w with completions := w.completions.eraseIdx n } with
      hostmem := putBytes s.hostmem (u.cqbase + 64 * (u.cqwrite.toNat % 2 ^ u.cqn))
        (leBytes 64 (c.entry ||| at_ 512 63 (if phaseOf u.cqn u.cqwrite then 1 else 0)).toNat) } : State).modQueue c.queue fun u =>
          { u with cqwrite := u.cqwrite + 1 }) := by
  have hnext : (s.tower t).nextEntry = some n := (Tower.nextEntry_iff hc).mpr ⟨hheld, hbefore⟩
  have hgoes : s.entryGoes c = true := by simp [State.entryGoes, hu, hen, hroom]
  rw [exec_completionWrite, execCompletionWrite, hc]
  simp only [hnext, hgoes, hu, hen, hctx, bne_self_eq_false, Bool.not_true, Bool.or_false, Bool.false_eq_true, if_false]
  split
  next h => cases h
  next => rfl

/-- Settles O45: the events of the copy engines, counters and completions. -/
theorem engineEvents : Obligations.EngineEvents := by
  refine ⟨fun s c hfirst hroom htransfers hreach hfree => ?_, fun s c v hfirst hroom hop hready hctr hreach => ?_,
    fun s c hc hrun halive hin htransfers hreach => ?_, fun s c hc hrun halive hin htransfers hreach c1 s1 hloop hclean => ?_,
    fun s c hc hrun halive htransfers hreach f e c1 s1 r s2 hloop hframe hctx hdone => ?_, fun s c hfirst hop hcomplete => ?_,
    fun s c hfirst hop hsettled => ?_, fun s c a b n hc hrun hwait hop ha hb hnames hroom => ?_,
    fun s n a off hn hctr hmake hfound hpois hlast => ?_, fun s t n c u hc hheld hu hen hbefore hroom hctx => ?_, fun s t n hbefore => ?_⟩
  · obtain ⟨hc, hqueued, horder⟩ := hfirst
    rw [exec_commandStart, execCommandStart, (State.startCmd_first hc hqueued horder hroom).1 htransfers hreach hfree]
  · obtain ⟨hc, hqueued, horder⟩ := hfirst
    rw [exec_commandStart, execCommandStart, (State.startCmd_first hc hqueued horder hroom).2 v hop hready hreach, State.ask]
    exact congrArg Host.Outcome.next (if_neg hctr)
  · rw [exec_transferCompletion_inside hc hin, State.completeCmd_running hc hrun halive htransfers, State.runCmd, if_pos hreach]
  · rw [exec_transferCompletion_inside hc hin, State.completeCmd_running hc hrun halive htransfers, State.runCmd_ends hreach hloop hclean]
  · rw [exec_commandHeld, execCommandHeld, State.holdAt_failing hc hrun halive htransfers hloop,
      State.runCmd_held hreach hloop hframe hctx hdone]
  · obtain ⟨hc, hqueued, horder⟩ := hfirst
    rw [exec_publish, execPublish, State.pubCmd_first hc hqueued horder hop hcomplete]
    simp only [List.isEmpty_iff]
  · obtain ⟨hc, hqueued, horder⟩ := hfirst
    rw [exec_discard, execDiscard, State.dscCmd_first hc hqueued horder hop hsettled]
  · rw [exec_canvasNameUpdate, execCanvasNameUpdate, State.nameCmd_share hc hrun hwait hop ha hb hnames hroom]
  · have hadd := State.addNow_clean (s := { s with adds := s.adds.eraseIdx n }) hctr hfound hpois
    rw [exec_engineCounterAdd, execEngineCounterAdd, hn]
    dsimp only
    rw [if_pos hmake, State.makeAdd_last hlast, hadd]
    rfl
  · have hfull : u.full = false := by simpa [Queue.full] using hroom
    rw [exec_completionWrite_next hc hheld hu hen hbefore hfull hctx, phaseOf]
    cases u.cqwrite.getLsbD u.cqn <;> rfl
  · obtain ⟨d, hd, hfree⟩ := hbefore
    rw [exec_completionWrite, execCompletionWrite]
    cases hc : (s.tower t).completions[n]? with
    | none => rfl
    | some c =>
      have hnext : (s.tower t).nextEntry ≠ some n := fun h => by
        have := ((Tower.nextEntry_iff hc).mp h).2 d hd
        rw [hfree] at this
        cases this
      exact if_pos (by simp [hnext])

end Sys2Proof.Machine
end

section
/-! Events of collectives, links and the clock (R212, R277 to R288, R294, R296, R330). -/

namespace Sys2Proof.Machine

/-! Collectives on a ring of one. -/

/-- A collective on a ring of one that may start: its bucket is read and in transit (R212, R277). -/
theorem State.startColl_alone {s : State} {c : CollCmd} {e : Nat} (hc : s.coll c.id = some c) (hfresh : c.started = false)
    (halive : c.killed = false) (hready : c.ready ≠ 0) (hfirst : s.firstReady c = true) (he : s.freeEngine (towerOf c.core) = some e)
    (hadd : s.collAdding c = false) (hreach : s.unreachable c.core = false) (hwait : s.collWaits c = false) (hP : c.P = 1) :
    s.startColl c.id = ((s.bucketFound c).modCore c.core fun k =>
        { k with transit := k.transit ++ (runSectors (viewRuns (s.bucketFound c).mx6 c.bucket)).map fun sec => (sec, c.id) }).setColl
          { c with started := true, engine := e, work := (s.bucketFound c).bucketElems c, workPois := (s.bucketFound c).bucketPois c } := by
  have hnow : (c.started || c.killed || c.ready == 0 || !s.firstReady c || s.collAdding c) = false := by
    simp [hfresh, halive, hready, hfirst, hadd]
  rw [State.startColl, hc]
  dsimp only
  rw [he]
  simp only [hnow, hreach, hwait, hP, List.map_id', if_true, Bool.false_eq_true, if_false]

/-- A collective on a ring of one that has done its steps publishes (R212, R277). -/
theorem State.publishColl_alone {s : State} {c : CollCmd} (hc : s.coll c.id = some c) (hdone : c.finished = true) (hP : c.P = 1)
    (hreach : s.unreachable c.core = false) :
    s.publishColl c.id = (
      let s1 := (((s.endColl c).mergeFoundAt c.core c.cause c.job c.tenant c.scope c.bucketId
        ((c.written ++ c.vacated).map c.bytesOf)).modCore c.core fun k => { k with mem := k.mem.publishColl c }).cmdBump c.ctx c.node c.bucketId
      (s1.collCounters c (if clKind c.desc = 4 then 0 else s1.countNonFinite c)).testColls c.core) := by
  have hring : ¬(clKind c.desc = 5 ∧ c.P ≠ 1) := fun h => h.2 hP
  rw [State.publishColl, hc]
  simp only [hdone, hreach, Bool.not_true, Bool.and_false, Bool.false_and, Bool.false_eq_true, if_false, State.recordColl, hP,
    decide_true, Bool.or_true, if_true, ne_eq, not_true_eq_false, and_false]

/-! Messages. -/

/-- A message whose earlier commands are over is posted (R296). -/
theorem exec_qpushPost_ready {s : State} {m : QMsg} {j : Job} (hm : s.msgs.find? (fun x => x.id == m.id) = some m)
    (hj : s.job m.job = some j) (hnew : m.posted = false) (hready : s.qpushReady m = true) :
    exec (.qpushPost m.id) s = .next (({ s with msgs := s.msgs.map fun x => if x.id == m.id then { x with posted := true } else x } :
      State).modTower (queueTower j.cq) fun w => w.accept
        ⟨j.cq, ({ type := 0x03, job := m.job, tenant := m.tenant, scope := m.scope, pay := m.data } : Answer).entry j.cq s.time, false,
          m.ctr, some m.ctx, m.id⟩) := by
  have hwait : (m.posted || !s.qpushReady m) = false := by rw [hnew, hready]; rfl
  rw [exec_qpushPost, execQpushPost, hm]
  dsimp only
  rw [hj]
  exact if_neg (by rw [hwait]; exact Bool.false_ne_true)

/-! Flits. -/

/-- A data flit with a good tag on a link that takes flits (R286, R287). -/
theorem State.dataFlit_takes {s : State} {port : Nat} (htakes : (s.link port).takes = true) (dw0 dw1 : W64) (bytes : List Byte) :
    let f : Flit := ⟨dw0, dw1, bytes⟩
    (f.seq ≠ (s.link port).rxSeq → s.dataFlit port dw0 dw1 bytes true = s.modLink port fun l =>
      if (f.seq - l.rxSeq).toNat < 2048 then l.control 3 l.rxSeq
      else if s.withheld port then l else l.control 2 (l.rxSeq - 1)) ∧
    (f.seq = (s.link port).rxSeq → s.collOf port f.stream = none → s.dataFlit port dw0 dw1 bytes true = s.take port) ∧
    (∀ c, f.seq = (s.link port).rxSeq → s.collOf port f.stream = some c → c.killed = false → dw1.toNat = c.rx.length →
      bytes.length = fld dw0 28 20 → c.rx.length + bytes.length ≤ c.due c.step * c.wire c.step →
      s.dataFlit port dw0 dw1 bytes true = s.takeData port c (fld dw0 35 29) bytes) := by
  dsimp only
  refine ⟨fun hseq => ?_, fun hseq hnone => ?_, fun c hseq hc halive hoff hlen hfits => ?_⟩
  · have hne : ((⟨dw0, dw1, bytes⟩ : Flit).seq != (s.link port).rxSeq) = true := bne_iff_ne.mpr hseq
    simp only [State.dataFlit, htakes, hne, Bool.not_true, Bool.false_eq_true, if_false, if_true]
  · have heq : ((⟨dw0, dw1, bytes⟩ : Flit).seq != (s.link port).rxSeq) = false := bne_eq_false_iff_eq.mpr hseq
    simp only [State.dataFlit, htakes, heq, hnone, Bool.not_true, Bool.false_eq_true, if_false]
  · have heq : ((⟨dw0, dw1, bytes⟩ : Flit).seq != (s.link port).rxSeq) = false := bne_eq_false_iff_eq.mpr hseq
    have hgood : (dw1.toNat != c.rx.length || bytes.length != fld dw0 28 20 ||
        decide (c.due c.step * c.wire c.step < c.rx.length + bytes.length)) = false := by
      simp [hoff, hlen ▸ hfits, hlen]
    simp only [State.dataFlit, htakes, heq, hc, halive, hgood, Bool.not_true, Bool.false_eq_true, if_false]

/-- Entering a step leaves a collective its number (R284). -/
theorem CollCmd.enter_id (fuel : Nat) (c : CollCmd) : (c.enter fuel).1.id = c.id := by
  induction fuel generalizing c with
  | zero => rfl
  | succ n ih =>
    unfold CollCmd.enter
    split
    · rfl
    · cases c.tx c.step
      all_goals
        dsimp only
        split
        · rfl
        · exact ih _

/-- A replaced collective keeps its number's place. -/
theorem State.setColl_ids (s : State) (c : CollCmd) : (s.setColl c).colls.map (·.id) = s.colls.map (·.id) := by
  rw [State.setColl, List.map_map]
  refine List.map_congr_left fun d _ => ?_
  by_cases h : d.id = c.id <;> simp [h]

/-- An acknowledgement ends or begins no collective (R287). -/
theorem State.ackFlit_ids (s : State) (port : Nat) (seq : BitVec 12) : (s.ackFlit port seq).colls.map (·.id) = s.colls.map (·.id) := by
  unfold State.ackFlit
  dsimp only
  refine List.foldlRecOn _ _ (motive := fun a : State => a.colls.map (·.id) = s.colls.map (·.id)) rfl fun a ha c _ => ?_
  split
  · exact (State.setColl_ids ..).trans ha
  · exact ha

/-- An acknowledgement after which no collective's step is over only frees the link's flits (R287). -/
theorem State.ackFlit_waiting {s : State} {port : Nat} {seq : BitVec 12}
    (h : ∀ c ∈ s.colls, ringTx c.ring = port → c.sentOut ((s.modLink port fun l => l.ack seq).link port) = false) :
    s.ackFlit port seq = s.modLink port fun l => l.ack seq := by
  unfold State.ackFlit
  dsimp only
  refine List.foldlRecOn _ _ (motive := fun a : State => a = s.modLink port fun l => l.ack seq) rfl fun a ha c hc => ?_
  obtain ⟨hmem, hring⟩ := List.mem_filter.mp hc
  rw [ha, h c hmem (beq_iff_eq.mp hring)]
  rfl

/-- An abort for a collective whose last step is not done ends it (R284, R285). -/
theorem State.abortFlit_running {s : State} {port : Nat} {c : CollCmd} (htakes : (s.link port).takes = true) (hc : s.coll c.id = some c)
    (hstarted : c.started = true) (hmore : c.finished = false) (hport : port ∈ c.ports) :
    s.abortFlit port c.id = (s.take port).failColl { c with aborted := true } 0x1B := by
  have hhere : (c.started && c.ports.contains port) = true := by simp [hstarted, hport]
  simp only [State.abortFlit, hc, hmore, htakes, hhere, Bool.not_true, Bool.false_eq_true, if_false, if_true]

/-! Hellos. -/

/-- The hello of the member before one that waits for it (R278, R280). -/
theorem State.helloFlit_awaited {s : State} {port : Nat} {c : CollCmd} (hc : s.coll c.id = some c) (htakes : (s.link port).takes = true)
    (hstarted : c.started = true) (halive : c.killed = false) (hmore : c.finished = false) (hsound : c.failing = none)
    (hkind : clKind c.desc ≠ 4) (hport : ringRx c.ring = port) (hpeer : c.peer = none) (stream : BitVec 8) (device ringid : W64) (ok : Bool) :
    let named := (s.vread c.job (ringList c.ring + 8 * ((c.pos + c.P - 1) % c.P)) 8).map fun b => BitVec.ofNat 64 (leNat b)
    (named = some device → ringid = ringId c.ring → ok = true → s.helloFlit port c.id stream device ringid ok =
      ((s.take port).setColl ({ c with peer := some stream }.enter (c.steps + 1)).1).modLink (ringTx c.ring) fun l =>
        l.push ({ c with peer := some stream }.enter (c.steps + 1)).2) ∧
    ((named ≠ some device ∨ ringid ≠ ringId c.ring ∨ ok = false) →
      s.helloFlit port c.id stream device ringid ok = (s.take port).failColl c 0x1A) := by
  have hexpects : c.expects = true := by simp [CollCmd.expects, hkind]
  have huses : c.uses.contains port = true := by
    rw [CollCmd.uses, if_neg hkind]
    split <;> simp [CollCmd.ports, hport]
  have hbefore : c.pos + (c.P - 1) = c.pos + c.P - 1 := by
    have : 1 ≤ c.P := Nat.le_add_left 1 _
    omega
  have hthere : (!c.started || !c.uses.contains port) = false := by rw [hstarted, huses]; rfl
  have hopen : (c.killed || c.finished || c.failing.isSome) = false := by rw [halive, hmore, hsound]; rfl
  have hawaits : (c.peer.isSome || ringRx c.ring != port) = false := by simp [hpeer, hport]
  dsimp only
  constructor
  · rintro hnamed rfl rfl
    simp only [State.helloFlit, htakes, hc, hthere, hopen, hawaits, hexpects, hbefore, hnamed, bne_self_eq_false, Bool.or_false,
      Bool.not_true, Bool.false_eq_true, if_false, if_true]
  · intro hbad
    have hmiss : ((s.vread c.job (ringList c.ring + 8 * ((c.pos + c.P - 1) % c.P)) 8).map (fun b => BitVec.ofNat 64 (leNat b)) != some device ||
        ringid != ringId c.ring || !ok) = true := by
      simpa [or_assoc] using hbad
    simp only [State.helloFlit, htakes, hc, hthere, hopen, hawaits, hexpects, hbefore, hmiss, Bool.not_true, Bool.false_eq_true,
      if_false, if_true]

/-! Keys. -/

/-- Both public keys in the order of their numbers. -/
theorem orderedKeys (a b : BitVec 456) : (if decide (a.toNat ≤ b.toNat) = true then leBytes 57 a.toNat ++ leBytes 57 b.toNat
    else leBytes 57 b.toNat ++ leBytes 57 a.toNat) = leBytes 57 (min a.toNat b.toNat) ++ leBytes 57 (max a.toNat b.toNat) := by
  by_cases h : a.toNat ≤ b.toNat
  · rw [if_pos (decide_eq_true h), min_eq_left h, max_eq_right h]
  · rw [if_neg (by simpa using h), min_eq_right (by omega), max_eq_left (by omega)]

/-- Settles O46: the events of collectives, links and the clock. -/
theorem linkEvents : Obligations.LinkEvents := by
  refine ⟨fun s c e hc hfresh halive hready hfirst he hadd hreach hwait hP => ?_, fun s c hc hdone hP hreach => ?_, fun s c hc => ?_,
    fun s m j hm hj hnew hready => exec_qpushPost_ready hm hj hnew hready, fun w c => ?_, fun s port dw0 dw1 bytes htakes => ?_,
    fun s port seq => ?_, fun s port seq => rfl, fun s port c htakes hc hstarted hmore hport => ?_,
    fun s port from_ stamp htakes hfrom => ?_, fun s port hq hsend hroom => ?_, fun s ns hhost => ?_,
    fun s port c stream device ringid hc htakes hstarted halive hmore hsound hkind hport hpeer => ?_, fun s port since hsince hlate => ?_,
    fun s port peer secret signed hup hbad => ?_, fun s port peer secret hup hpeer => ?_⟩
  · rw [exec_collectiveStart, execCollectiveStart, State.startColl_alone hc hfresh halive hready hfirst he hadd hreach hwait hP]
  · rw [exec_collectivePublish, execCollectivePublish, State.publishColl_alone hc hdone hP hreach]
  · rw [exec_rctrRetest, execRctrRetest, hc]
  · simp only [Tower.accept, Tower.holdFull, Bool.and_eq_true, decide_eq_true_eq]
  · obtain ⟨hother, hdrop, hdata⟩ := State.dataFlit_takes htakes dw0 dw1 bytes
    simp only [exec_dataFlit, execDataFlit]
    refine ⟨fun hseq hnone => by rw [hdrop hseq hnone], fun c hseq hc halive hoff hlen hfits => ?_, fun hseq => by rw [hother hseq]⟩
    rw [hdata c hseq hc halive hoff hlen hfits]
    rfl
  · simp only [exec_ackFlit, execAckFlit]
    exact ⟨⟨_, rfl, State.ackFlit_ids ..⟩, fun h => by rw [State.ackFlit_waiting h]⟩
  · rw [exec_abortFlit, execAbortFlit, State.abortFlit_running htakes hc hstarted hmore hport]
  · simp only [exec_timeFlit, execTimeFlit, htakes, Bool.not_true, Bool.false_eq_true, if_false]
    have hself : (from_ != BitVec.allOnes 64) = true := bne_iff_ne.mpr hfrom
    exact ⟨fun h => if_pos (by rw [hself, h, beq_self_eq_true]; rfl), fun h => if_neg (by simp [h])⟩
  · have htakes : (s.link port).takes = true := by
      simp only [Link.canSend, Bool.and_eq_true] at hsend
      simp [Link.takes, hsend]
    simp only [exec_timeFlit, execTimeFlit, htakes, Bool.not_true, Bool.false_eq_true, if_false]
    exact if_pos (by simp [hq, hsend, hroom])
  · rw [exec_precisionTimeMeasurement, execPrecisionTimeMeasurement]
    exact if_pos (by simp [hhost])
  · simp only [exec_helloFlit, execHelloFlit]
    have hhello := State.helloFlit_awaited hc htakes hstarted halive hmore hsound hkind hport hpeer stream device ringid
    exact ⟨fun hnamed hring => by rw [(hhello true).1 hnamed hring rfl], fun ok hbad => by rw [(hhello ok).2 hbad]⟩
  · rw [exec_linkLoss, execLinkLoss, State.linkLoss, hsince]
    exact congrArg Host.Outcome.next (if_neg (by omega))
  · have hout : (!signed || !s.peers.contains peer) = true := by simpa using hbad
    simp only [exec_linkRekey, execLinkRekey, hup, hout, Bool.not_true, Bool.false_eq_true, if_false, if_true]
  · have hin : (false || !s.peers.contains peer) = false := by simpa using hpeer
    simp only [exec_linkRekey, execLinkRekey, hup, hin, orderedKeys, Bool.not_true, Bool.false_eq_true, if_false, List.append_assoc]

end Sys2Proof.Machine
end

section
/-! Dispatch, pre-emption, cancels, ticks, slices and segments (R94, R248 to R275, R314 to R321). -/

namespace Sys2Proof.Machine

/-- A compute node that is its tower's next and fits the context takes it (R248, R249). -/
theorem State.dispatch_single {s : State} {t : Bool} {n : Node} {j : Job} {r : CtxRef} (hn : s.node n.id = some n)
    (hj : s.job n.job = some j) (hnext : s.nextNode t = some n.id) (ht : n.tower = t) (hkind : recKind n.nrec = 0)
    (hsingle : s.isAtelierNode n = false) (hfits : s.matchesCore n r.core = true) (hfree : s.freeFor n r.core = some r) :
    s.dispatch t [(n.id, r)] = (s.modTower t fun w => { w with dispatches := w.dispatches + 1 }).place n j r none := by
  have hchosen : ¬(s.nextNode t != some n.id || n.tower != t) = true := by simp [hnext, ht]
  have hgo : (List.isEmpty ([] : List (Nat × CtxRef)) && s.matchesCore n r.core && s.freeFor n r.core == some r) = true := by
    simp [hfits, hfree]
  have hcompute : ¬recKind n.nrec ≠ 0 := not_not.mpr hkind
  rw [State.dispatch]
  simp only [hn, hj, if_neg hchosen, if_neg hcompute, hsingle, hgo, Bool.false_eq_true, if_false, if_true]

/-- A context that a pre-emption finds ready leaves its core, its job in its slice and no PREEMPT entry waiting (R314). -/
theorem State.preemptCtx_ready {s : State} {r : CtxRef} (hasked : (s.ctx r).preempt = true) (hbound : (s.ctx r).status ≠ .free)
    (hready : s.preemptWaits r = false) (hslice : s.inSlice (towerOf r.core) (s.ctx r).job = true) (htag : (s.ctx r).ptag = 0) :
    s.preemptCtx r = (((s.takeCmds r (s.imageOf r)).modNode (s.ctx r).node fun n =>
      { n with image := some (s.imageOf r), state := .ready }).freeCtx r).requeue (s.ctx r).node := by
  have hgo : ¬(!(s.ctx r).preempt || (s.ctx r).status == .free || s.preemptWaits r) = true := by simp [hasked, hbound, hready]
  simp only [State.preemptCtx, if_neg hgo, hslice, htag, if_true]

/-- A quiet subtree that no check node waits for and no counter is to be told of (R275). -/
theorem State.quietNow_plain {s : State} {k : Cancel} (hctr : k.ctr = 0) (hcheck : ∀ n ∈ s.nodes, n.state ≠ .checking) :
    s.quietNow k = { s with
      scopes := s.scopes.map fun c => if c.home == k.home && k.scopes.contains c.id && c.job == k.job then { c with state := .dead } else c
      cancels := s.cancels.filter (·.id != k.id) } := by
  have hnone : (s.nodes.filter fun n => n.job == k.job && n.state == .checking && fld (recArg n.nrec 2) 11 0 == k.scope) = [] := by
    rw [List.filter_eq_nil_iff]
    intro n hn
    simp [hcheck n hn]
  simp only [State.quietNow, hctr, if_true, hnone, List.foldl_nil]

/-- A tick at which no framed node slips (R262, R263). -/
theorem exec_frameTick_plain {s : State} {j : Job} (hj : s.job j.num = some j) (hdue : j.start + (j.ticks + 1) * j.interval ≤ s.time)
    (hnone : ∀ n ∈ s.nodes, n.job = j.num → n.deadline ≠ some (j.ticks + 1)) :
    exec (.frameTick j.num) s = .next (if j.slipping = [] then (s.modJob j.num fun j => { j with ticks := j.ticks + 1 }).frameUp j.num
      else s.modJob j.num fun j => { j with ticks := j.ticks + 1 }) := by
  have hlate : (s.nodes.filter fun n => n.job == j.num && n.deadline == some (j.ticks + 1)) = [] := by
    rw [List.filter_eq_nil_iff]
    intro n hn
    by_cases hjob : n.job = j.num
    · simp [hjob, hnone n hn hjob]
    · simp [hjob]
  rw [exec_frameTick, execFrameTick, hj]
  simp only [if_neg (Nat.not_lt.mpr hdue), hlate, List.map_nil, List.append_nil, List.foldl_nil, List.isEmpty_nil, Bool.and_true,
    List.isEmpty_iff]

/-! Slices. -/

/-- A node that re-enters its ready queue leaves every tower in its slice. -/
theorem State.requeue_slice (s : State) (id : Nat) (t : Bool) : ((s.requeue id).tower t).slice = (s.tower t).slice := by
  unfold State.requeue
  split
  · rfl
  · rw [State.tower_modTower_eq]
    split <;> rfl

theorem State.rejoin_slice (s : State) (t u : Bool) : ((s.rejoin t).tower u).slice = (s.tower u).slice := by
  unfold State.rejoin
  exact List.foldlRecOn _ _ (motive := fun a : State => (a.tower u).slice = (s.tower u).slice) rfl
    fun a ha n _ => (State.requeue_slice ..).trans ha

/-- The slice that a boundary begins is the tower's (R320). -/
theorem State.sliceTo_slice {s : State} {t : Bool} {i : Nat} (hi : i < (s.tower t).slices.length) :
    ((s.sliceTo t i).tower t).slice = some i := by
  unfold State.sliceTo
  rw [if_neg (Nat.not_le.mpr hi), State.rejoin_slice, State.tower_modTower]

/-- A segment that is to be saved and that no other job has is cleared (R321). -/
theorem State.saveSeg_unowned {s : State} {c : CoreRef} {seg : Nat} (hsave : (c.val, seg) ∈ (s.tower (towerOf c)).saving)
    (hidle : s.segEngaged c seg = false) (hslices : (s.tower (towerOf c)).slices ≠ [])
    (hnone : ∀ j ∈ s.jobs, j.num ≠ (s.tower (towerOf c)).sliceJob (s.tower (towerOf c)).slice → s.jobOwns j.num c seg = false)
    (hback : ∀ x ∈ (s.tower (towerOf c)).savedSegs, x.core = c → x.seg = seg →
      x.job ≠ (s.tower (towerOf c)).sliceJob (s.tower (towerOf c)).slice) :
    ((s.saveSeg c seg).core c).mem = (s.core c).mem.clearSeg seg ∧ (c.val, seg) ∉ ((s.saveSeg c seg).tower (towerOf c)).saving := by
  have hjob : (s.tower (towerOf c)).slices.isEmpty = false := by simpa using hslices
  have howner : ((s.jobs.map (·.num)).find? fun j => j != (s.tower (towerOf c)).sliceJob (s.tower (towerOf c)).slice &&
      s.jobOwns j c seg) = none := by
    rw [List.find?_eq_none]
    rintro _ hj
    obtain ⟨j, hjs, rfl⟩ := List.mem_map.mp hj
    by_cases h : j.num = (s.tower (towerOf c)).sliceJob (s.tower (towerOf c)).slice
    · simp [h]
    · simp [hnone j hjs h]
  have hsaved : ((s.tower (towerOf c)).savedSegs.find? fun x => x.core == c && x.seg == seg &&
      x.job == (s.tower (towerOf c)).sliceJob (s.tower (towerOf c)).slice) = none := by
    rw [List.find?_eq_none]
    intro x hx h
    simp only [Bool.and_eq_true, beq_iff_eq] at h
    exact hback x hx h.1.1 h.1.2 h.2
  have hhere : (s.tower (towerOf c)).saving.contains (c.val, seg) = true := by simpa using hsave
  unfold State.saveSeg
  simp only [hjob, howner, hsaved, hidle, hhere, Option.isSome_none, Bool.not_true, Bool.false_and, Bool.or_false, Bool.false_eq_true, if_false]
  constructor
  · rw [State.core_modCore]
    dsimp only
    rw [State.core_modTower]
    rfl
  · rw [State.tower_modCore, State.tower_modTower]
    simp

/-- A segment that no context owns, vacant and with no sector pending, is powered down (R94). -/
theorem State.powerDown_unowned {s : State} {c : CoreRef} {seg : Nat} (hc : isCtl c = false) (hseg : seg < 32)
    (hp : (s.ctx ⟨c, false⟩).owns seg = false) (hq : (s.ctx ⟨c, true⟩).owns seg = false)
    (him : ∀ n ∈ s.nodes, ∀ im, n.image = some im → im.core = c → im.ctx.owns seg = false)
    (hvacant : ∀ h ∈ (s.core c).mem.pres, h / 0x20000 ≠ seg) (hpend : ∀ p ∈ (s.core c).pend, p.1 / 0x2000 ≠ seg) :
    s.powerDown c seg = s.modCore c fun k => { k with segDown := setBit k.segDown seg true, mem := k.mem.clearSeg seg } := by
  have himages : (s.nodes.any fun n => n.image.any fun im => im.core == c && im.ctx.owns seg) = false := by
    rw [List.any_eq_false]
    intro n hn
    cases hi : n.image with
    | none => simp
    | some im =>
      by_cases hcore : im.core = c
      · simp [him n hn im hi hcore]
      · simp [hcore]
  have hpending : ((s.core c).pend.any fun p => p.1 / 0x2000 == seg) = false := by simpa [List.any_eq_false] using hpend
  have hpresent : ((s.core c).mem.pres.any fun h => h / 0x20000 == seg) = false := by simpa [List.any_eq_false] using hvacant
  simp only [State.powerDown, hc, hp, hq, himages, hpending, hpresent, Nat.not_le.mpr hseg, decide_false, Bool.or_false, Bool.false_eq_true,
    if_false]

/-- Settles O47: dispatch, pre-emption, cancels, ticks, slices and segments. -/
theorem suspensionEvents : Obligations.SuspensionEvents := by
  refine ⟨fun s t n j r hn hj hnext ht hkind hsingle hfits hfree => ?_, fun s r hasked hbound hready hslice htag => ?_,
    fun s k core hk hleft hcore => ?_, fun s k hk hquiet hctr hcheck => ?_,
    fun s j hj hdue hnone => exec_frameTick_plain hj hdue hnone, fun s t i hi => ⟨rfl, State.sliceTo_slice hi⟩,
    fun s c seg hsave _ hidle hslices hnone hback => ⟨_, rfl, State.saveSeg_unowned hsave hidle hslices hnone hback⟩,
    fun s c seg hc hseg hp hq him hvacant hpend => ?_⟩
  · rw [exec_dispatch, execDispatch, State.dispatch_single hn hj hnext ht hkind hsingle hfits hfree]
  · rw [exec_preemption, execPreemption, State.preemptCtx_ready hasked hbound hready hslice htag]
  · rw [exec_cancelArrival, execCancelArrival, hk]
    exact congrArg Host.Outcome.next (if_pos (by simp [hleft, hcore]))
  · rw [exec_subtreeQuiet, execSubtreeQuiet, hk]
    dsimp only
    rw [if_pos hquiet, State.quietNow_plain hctr hcheck]
  · rw [exec_segmentPowerDown, execSegmentPowerDown, State.powerDown_unowned hc hseg hp hq him hvacant hpend]

end Sys2Proof.Machine
end

section
/-! The host's submission entries (R289 to R295, R314, R327, R347, R350). -/

namespace Sys2Proof.Machine

/-! What Easel makes of the entry it takes. -/

/-- A claim as the statements give it. -/
theorem State.withClaim_eq {s : State} {q : Nat} {u : Queue} (hu : s.queue q = some u) (t : State) :
    s.withClaim q u t = afterClaim s q t := by
  have hclaims : s.claims q u = true ↔ newer u.claim (u.lastseq + 1) = false ∧ q % 2048 ∈ (s.tower (queueTower q)).kick := by
    rw [State.claims, Bool.and_eq_true, Bool.not_eq_true', List.contains_iff_mem]
  rw [State.withClaim, afterClaim, hu]
  dsimp only
  by_cases h : newer u.claim (u.lastseq + 1) = false ∧ q % 2048 ∈ (s.tower (queueTower q)).kick
  · rw [if_pos h, if_neg (by rw [hclaims.mpr h]; exact Bool.false_ne_true)]
  · rw [if_neg h, if_pos (by rw [Bool.not_eq_true', Bool.eq_false_iff]; exact fun hc => h (hclaims.mp hc))]

section Taking

variable {s t : State} {q : Nat} {e : Rec64} {opc : Nat} {is : Nat → Bool} {a : Ans}

/-- An entry that Easel takes is answered as its action says (R291, R292). -/
theorem entry_taken (ht : Taken s q e opc) (his : is opc = true) {act : BitVec 32 → Option (Ans × State)}
    (hact : act (subSeq e) = some (a, t)) : s.entry q e is act = .next (afterClaim s q (t.answer q (subSeq e) e a)) := by
  obtain ⟨⟨u, hu, hen, hbusy, hoffers, hseq⟩, hop, hroom⟩ := ht
  have hgo : (!u.en || u.busy.isSome || !is (subOpc e) || !s.offers q u e || (s.tower (queueTower q)).holdFull) = false := by
    rw [hen, hbusy, hop, his, hoffers, hroom]
    rfl
  rw [State.entry, hu]
  simp only [hgo, ← hseq, hact, Bool.false_eq_true, if_false, ne_eq, not_true_eq_false, State.withClaim_eq hu]

/-- The doublewords of a record from one on are 0. -/
theorem zeroFrom_of {i : Nat} (h : ∀ k < 8, i ≤ k → dw e k = 0) : zeroFrom e i = true := by
  rw [zeroFrom, List.all_eq_true]
  intro k hk
  by_cases hki : k < i
  · simp [hki]
  · simp [h k (List.mem_range.mp hk) (Nat.le_of_not_lt hki)]

/-- An entry of a running job in its layout is answered as its action says (R276, R292). -/
theorem jobEntry_taken {j : Job} {i : Nat} (ho : OfJob s q e opc j i) (his : is opc = true) {layout : Bool} (hlayout : layout = true)
    {act : Job → BitVec 32 → Option (Ans × State)} (hact : act j (subSeq e) = some (a, t)) :
    s.jobEntry q e is layout act = .next (afterClaim s q (t.answer q (subSeq e) e a)) := by
  refine entry_taken ho.toTaken his ?_
  simp only [ho.ok, hlayout, ho.job, hact, Bool.not_true, Bool.or_false, Bool.false_eq_true, if_false]

/-- A CONFIG entry of a running job with a selector that an action knows (R294). -/
theorem config_taken {j : Job} {i n : Nat} (ho : OfJob s q e 0x0B j i) (hi : i ≤ 5) (hlow : (dw e 2).toNat < 512)
    (hn : (dw e 2).toNat % 256 = n) {sel : Nat → Bool} (hsel : sel n = true) {act : Job → Option (Ans × State)}
    (hact : act j = some (a, t)) : s.config q e sel act = .next (afterClaim s q (t.answer q (subSeq e) e a)) := by
  rw [State.config, fld_low, hn, hsel]
  refine jobEntry_taken ho rfl ?_ hact
  rw [decide_eq_true hlow, zeroFrom_of fun k hk h => ho.zero k hk (hi.trans h)]
  rfl

end Taking

/-! The entries. -/

/-- LAYER of a LAYERPWR entry. -/
theorem fld_layer (v : W64) : fld v 1 0 = v.toNat % 4 := by simp [fld, nfld]

/-- A job that a number names has that number. -/
theorem State.job_own {s : State} {n : Nat} {j : Job} (h : s.job n = some j) : s.job j.num = some j := by
  have hn : j.num = n := by simpa using List.find?_some h
  rw [hn, h]

/-- A range of one half of the address space is taken up for invalidation (R233). -/
theorem State.requestInval_ok {s : State} {job : Nat} {j : Job} (hj : s.job job = some j) {first len : W64}
    (hcanon : canonical first.toNat = true) (hend : first.toNat + len.toNat ≤ if first.toNat < 2 ^ 48 then 2 ^ 48 else 2 ^ 64)
    (ctx : Option CtxRef) (d : BitVec 6) (queue : Option (Nat × BitVec 32)) :
    s.requestInval job first len false ctx d queue = (0, { s with
      invals := s.invals ++ [⟨s.nextId, job, first.toNat, len.toNat, 3, ctx, d, queue⟩], nextId := s.nextId + 1 }) := by
  have hgood : (!State.requestInval.canonicalW first || decide ((if first.toNat < 2 ^ 48 then 2 ^ 48 else 2 ^ 64) < first.toNat + len.toNat)) =
      false := by
    rw [State.requestInval.canonicalW, hcanon, decide_eq_false (Nat.not_lt.mpr hend)]
    rfl
  simp only [State.requestInval, hj, hgood, Bool.false_eq_true, if_false]

/-- Settles O48: the host's submission entries. -/
theorem hostEntries : Obligations.HostEntries := by
  unfold Obligations.HostEntries
  dsimp only
  refine ⟨fun s q e ht => ⟨fun n t hl => ?_, fun t hl => ?_⟩, fun s q e job r ht hn hroom => ?_,
    fun s q e j bs ho hlow hread hok hfree => ?_, fun s q e j ho hcanon hend => ?_, fun s q e j ps ho hunpin hcanon hend hps => ?_,
    fun s q e j c ho hlow hc => ?_, fun s q e j ho hcore hctx hbrk hjob => ?_, fun s q e j c ho hlow hmin hmax hc => ?_,
    fun s q e ht hdone => ?_, fun s q e ht hdone => ?_, fun s q e ht hok hjob hcore hctx hzero hbound htag => ?_,
    fun s q e ht hok hjob hlow hzero => ⟨fun hoff hused hpower => ?_, fun hon hwas => ?_⟩, fun s q e j ho hlow hsel hmin hmax => ?_,
    fun s q e j ho hlow hsel hlim => ?_, fun s q e j ho hlow hsel => ?_, fun s q e j c ho hlow hc => ?_,
    fun s q e j t ho hok hplaced => ?_, fun s q e ht hbad => ?_⟩
  · rw [exec_launch, execLaunch]
    exact entry_taken ht (by rfl) (by simp only [hl])
  · rw [exec_launch, execLaunch]
    exact entry_taken ht (by rfl) (by simp only [hl])
  · rw [exec_node, execNode]
    exact entry_taken ht (by rfl) (by simp only [hn, hroom, if_true])
  · rw [exec_group, execGroup]
    refine jobEntry_taken ho (by rfl) ?_ ?_
    · rw [decide_eq_true hlow, zeroFrom_of ho.zero]
      rfl
    · simp only [fld_low, hread, hok, hfree, Bool.not_true, Bool.or_false, Bool.false_eq_true, if_false]
  · rw [exec_inval, execInval]
    refine jobEntry_taken ho (by rfl) (zeroFrom_of ho.zero) ?_
    rw [State.requestInval_ok (State.job_own ho.job) hcanon hend]
    rfl
  · rw [exec_pin, execPin]
    refine jobEntry_taken ho (by rfl) ?_ ?_
    · rw [hunpin, zeroFrom_of ho.zero]
      rfl
    · have hbit : bit (dw e 4) 0 = false := by
        rw [BitVec.eq_of_toNat_eq (y := 0) hunpin]
        rfl
      have hrange : (!canonical (dw e 2).toNat || decide (halfEnd (dw e 2).toNat < (dw e 2).toNat + (dw e 3).toNat)) = false := by
        rw [hcanon, decide_eq_false (Nat.not_lt.mpr hend)]
        rfl
      simp only [hrange, hps, hbit, Bool.false_and, Bool.false_eq_true, if_false, Nat.add_zero]
  · rw [exec_hostCancel, execHostCancel]
    refine jobEntry_taken ho (by rfl) ?_ ?_
    · rw [decide_eq_true hlow, zeroFrom_of ho.zero]
      rfl
    · rw [hc]
  · rw [exec_release, execRelease]
    refine jobEntry_taken ho (by rfl) ?_ (if_pos (by simp [hbrk, hjob]))
    rw [decide_eq_true ⟨hcore, hctx⟩, zeroFrom_of ho.zero]
    rfl
  · rw [exec_scopering, execScopering]
    refine jobEntry_taken ho (by rfl) ?_ ?_
    · rw [decide_eq_true ⟨hlow, hmin, hmax⟩, zeroFrom_of ho.zero]
      rfl
    · rw [hc]
  · rw [exec_preempt, execPreempt]
    exact entry_taken ht (by rfl) (if_pos (by simp [hdone]))
  · rw [exec_layerpwr, execLayerpwr]
    exact entry_taken ht (by rfl) (if_pos (by simp [hdone]))
  · rw [exec_preempt, execPreempt]
    refine entry_taken ht (by rfl) ?_
    have hgood : (!subOk e || s.namesDone e || !decide ((dw e 2).toNat < 512 ∧ (dw e 3).toNat < 2) || !zeroFrom e 4 ||
        (s.ctx (entryCtx e)).status == .free) = false := by
      rw [hok, hjob, decide_eq_true ⟨hcore, hctx⟩, zeroFrom_of hzero, beq_eq_false_iff_ne.mpr hbound]
      rfl
    simp only [hgood, htag, Bool.false_eq_true, if_false, ne_eq, not_true_eq_false]
  · rw [exec_layerpwr, execLayerpwr]
    refine entry_taken ht (by rfl) ?_
    have hgood : (!subOk e || s.namesDone e || !decide ((dw e 2).toNat < 8 ∧ (dw e 3).toNat < 2) || !zeroFrom e 4) = false := by
      rw [hok, hjob, hoff, decide_eq_true ⟨hlow, by decide⟩, zeroFrom_of hzero]
      rfl
    have hbit : bit (dw e 3) 0 = false := by
      rw [BitVec.eq_of_toNat_eq (y := 0) hoff]
      rfl
    have hcoming : ((s.tower (bit (dw e 2) 2)).powering.any fun p => p.2.2 == (dw e 2).toNat % 4) = false := by
      simpa [List.any_eq_false] using hpower
    simp only [hgood, hbit, fld_layer, hcoming, hused, Bool.not_false, Bool.false_eq_true, if_false, if_true]
  · rw [exec_layerpwr, execLayerpwr]
    refine entry_taken ht (by rfl) ?_
    have hgood : (!subOk e || s.namesDone e || !decide ((dw e 2).toNat < 8 ∧ (dw e 3).toNat < 2) || !zeroFrom e 4) = false := by
      rw [hok, hjob, hon, decide_eq_true ⟨hlow, by decide⟩, zeroFrom_of hzero]
      rfl
    have hbit : bit (dw e 3) 0 = true := by
      rw [BitVec.eq_of_toNat_eq (y := 1) hon]
      rfl
    simp only [hgood, hbit, fld_layer, hwas, Bool.not_true, Bool.false_eq_true, if_false, if_true]
  · rw [exec_sliplog, execSliplog]
    refine config_taken ho le_rfl hlow hsel (by rfl) ?_
    rw [fld_low, if_neg (by rw [hsel]; omega)]
  · rw [exec_arbw, execArbw]
    refine config_taken ho (by omega) hlow hsel (by rfl) ?_
    exact if_neg (not_or.mpr ⟨Nat.not_le.mpr hlim, not_not.mpr (ho.zero 4 (by omega) le_rfl)⟩)
  · rw [exec_clock, execClock]
    refine config_taken ho (by omega) hlow hsel (by rfl) ?_
    exact if_neg (not_not.mpr (ho.zero 4 (by omega) le_rfl))
  · rw [exec_seal, execSeal]
    refine jobEntry_taken ho (by rfl) ?_ ?_
    · rw [decide_eq_true hlow, zeroFrom_of ho.zero]
      rfl
    · rw [hc]
  · rw [exec_inject, execInject]
    refine jobEntry_taken ho (by rfl) hok ?_
    rw [hplaced]
  · rw [exec_badOpcode, execBadOpcode]
    refine entry_taken ht ?_ rfl
    simpa using hbad

end Sys2Proof.Machine
end

section
/-! The host's registers and memory accesses (R235, R289 to R293, R320, R327, R329). -/

namespace Sys2Proof.Machine

/-! Queues. -/

/-- A queue as its QCFG value has it (R290). -/
theorem queueOf_eq (q : Nat) (cfg : BitVec 256) (hen : bit cfg 63 = true) : queueOf q cfg = {
    index := q % 2048, en := true, sqm := cfg.toNat / 2 ^ 32 % 16, sqbase := cfg.toNat % 2 ^ 32, cqbase := cfg.toNat / 2 ^ 64 % 2 ^ 64
    cqn := cfg.toNat / 2 ^ 128 % 32, sqtail := 0, cqhead := 0, cqwrite := 0, claim := 0, lastseq := 0xFFFFFFFF, busy := none, busyJob := 0 } := by
  have hsq : fld cfg 31 0 = cfg.toNat % 2 ^ 32 := by simp [fld, nfld]
  have hcq : (dw cfg 1).toNat = cfg.toNat / 2 ^ 64 % 2 ^ 64 := by simp [dw, BitVec.extractLsb'_toNat, Nat.shiftRight_eq_div_pow]
  rw [queueOf, hen, hsq, hcq]
  rfl

/-- No queue is enabled under a number whose queue is not. -/
theorem State.queue_disabled {s : State} {q : Nat} (h : ∀ u, s.queue q = some u → u.en = false) : (s.queue q).any (·.en) = false := by
  cases hu : s.queue q with
  | none => rfl
  | some u => exact h u hu

/-! The key window. -/

/-- A part of a number replaced leaves the digits below it and above it. -/
theorem nat_replace (x v : Nat) {P M : Nat} (hP : 0 < P) (hv : v < M) :
    (x - x / P % M * P + v * P) % P = x % P ∧ (x - x / P % M * P + v * P) / P % M = v ∧
      (x - x / P % M * P + v * P) / P / M = x / P / M := by
  have hM : 0 < M := Nat.lt_of_le_of_lt (Nat.zero_le v) hv
  have hx : x = P * (M * (x / P / M) + x / P % M) + x % P := by rw [Nat.div_add_mod, Nat.div_add_mod]
  have hy : x - x / P % M * P + v * P = P * (M * (x / P / M) + v) + x % P := by
    have hsplit : P * (M * (x / P / M) + x / P % M) = P * (M * (x / P / M)) + x / P % M * P := by ring
    have hjoin : P * (M * (x / P / M) + v) = P * (M * (x / P / M)) + v * P := by ring
    omega
  have hdiv : (x - x / P % M * P + v * P) / P = M * (x / P / M) + v := by
    rw [hy, Nat.mul_add_div hP, Nat.div_eq_of_lt (Nat.mod_lt x hP), Nat.add_zero]
  refine ⟨?_, ?_, ?_⟩
  · rw [hy, Nat.mul_add_mod, Nat.mod_mod]
  · rw [hdiv, Nat.mul_add_mod, Nat.mod_eq_of_lt hv]
  · rw [hdiv, Nat.mul_add_div hM, Nat.div_eq_of_lt hv, Nat.add_zero]

/-- A doubleword set in a record. -/
theorem getLsbD_setDw (x : BitVec 512) {n : Nat} (v : W64) {b : Nat} (hb : b < 512) :
    (setDw x n v).getLsbD b = if b / 64 = n then v.getLsbD (b % 64) else x.getLsbD b := by
  have hdw : (dw x n).toNat = x.toNat / 2 ^ (64 * n) % 2 ^ 64 := by simp [dw, BitVec.extractLsb'_toNat, Nat.shiftRight_eq_div_pow]
  obtain ⟨hlow, hmid, hhigh⟩ := nat_replace x.toNat v.toNat (P := 2 ^ (64 * n)) (M := 2 ^ 64) (Nat.two_pow_pos _) v.isLt
  rw [← hdw] at hlow hmid hhigh
  rw [setDw, BitVec.getLsbD_ofNat, decide_eq_true hb, Bool.true_and]
  generalize x.toNat - (dw x n).toNat * 2 ^ (64 * n) + v.toNat * 2 ^ (64 * n) = y at hlow hmid hhigh
  split
  next h =>
    have hbit : b % 64 + 64 * n = b := by omega
    have hsame := congrArg (fun z => z.testBit (b % 64)) hmid
    simp only [Nat.testBit_mod_two_pow, Nat.testBit_div_two_pow, Nat.mod_lt b (show 64 > 0 by decide), decide_true, Bool.true_and, hbit,
      BitVec.testBit_toNat] at hsame
    exact hsame
  next h =>
    by_cases hlt : b < 64 * n
    · have hsame := congrArg (fun z => z.testBit b) hlow
      simp only [Nat.testBit_mod_two_pow, hlt, decide_true, Bool.true_and, BitVec.testBit_toNat] at hsame
      exact hsame
    · have hbit : b - 64 * n - 64 + 64 + 64 * n = b := by omega
      have hsame := congrArg (fun z => z.testBit (b - 64 * n - 64)) hhigh
      simp only [Nat.testBit_div_two_pow, hbit, BitVec.testBit_toNat] at hsame
      exact hsame

/-- The doublewords of a record in which one is set. -/
theorem dw_setDw (x : BitVec 512) {n i : Nat} (hi : i < 8) (v : W64) : dw (setDw x n v) i = if i = n then v else dw x i := by
  refine BitVec.eq_of_getLsbD_eq fun b hb => ?_
  have hdiv : (64 * i + b) / 64 = i := by omega
  have hmod : (64 * i + b) % 64 = b := by omega
  rw [dw, BitVec.getLsbD_extractLsb', decide_eq_true hb, Bool.true_and, getLsbD_setDw x v (by omega), hdiv, hmod]
  split
  · rfl
  · rw [dw, BitVec.getLsbD_extractLsb', decide_eq_true hb, Bool.true_and]

/-- A doubleword of the key window written (R329). -/
theorem exec_registerWrite_key (s : State) (x : W64) {k i : Nat} (hk : k < 64) (hi : i < 8) :
    exec (.registerWrite false (0xD0000 + 64 * k + 8 * i) x) s =
      .next { s with keys := s.keys.set k (setDw (s.key k) i x) hk } := by
  have hslice : 0xD0000 + 64 * k + 8 * i ≠ 0xC0100 := by omega
  have hring : 0xD0000 + 64 * k + 8 * i ≠ 0xC0110 := by omega
  have hm : 0xD0000 + 64 * k + 8 * i ≠ 0xC0118 := by omega
  have hkey : (!false && decide (0xD0000 ≤ 0xD0000 + 64 * k + 8 * i ∧ 0xD0000 + 64 * k + 8 * i < 0xD1000) &&
      (0xD0000 + 64 * k + 8 * i) % 8 == 0) = true := by
    simp only [Bool.not_false, Bool.true_and, Bool.and_eq_true, decide_eq_true_eq, beq_iff_eq]
    omega
  have hat : (0xD0000 + 64 * k + 8 * i - 0xD0000) / 64 = k := by omega
  have hdw : (0xD0000 + 64 * k + 8 * i - 0xD0000) % 64 / 8 = i := by omega
  rw [exec_registerWrite, execRegisterWrite, if_neg hslice, if_neg hring, if_neg hm, if_pos hkey]
  simp only [hat, hdw, Nat.mod_eq_of_lt hk]

/-- Settles O49: the host's registers and memory accesses. -/
theorem hostAccesses : Obligations.HostAccesses := by
  refine ⟨fun s q cfg hen hok hoff => ?_, fun s q cfg hoff hbad => ?_, fun s q => rfl, fun s q tail => rfl, fun s q head => rfl,
    fun s t x => ⟨rfl, fun htable => ?_, rfl, rfl, fun k i hk hi => ?_⟩, fun s job addr bytes => ⟨fun hin => ?_, fun hout => ?_⟩,
    fun s job addr len => ⟨fun hin => ?_, fun hout => ?_⟩, fun s q seq t layer hmem => ?_⟩
  · rw [exec_queueCreate, execQueueCreate, State.queue_disabled hoff, hen, hok, queueOf_eq q cfg hen]
    rfl
  · have hno : (!bit cfg 63 || !queueOk cfg) = true := by simpa using hbad
    rw [exec_queueCreate, execQueueCreate, State.queue_disabled hoff, if_neg Bool.false_ne_true, if_pos hno]
  · have hsome : ((s.modTower t fun w => { w with slicetab := x, slices := slicesAt w.qmem x.toNat, slice := none }).tower t).slices.isEmpty =
        false := by
      rw [State.tower_modTower]
      simpa using htable
    rw [State.setSlices, hsome]
    rfl
  · refine ⟨_, exec_registerWrite_key s x hk hi, fun i' hi' => ?_, fun k' hk' hne => ?_⟩
    · simp only [State.key, Nat.mod_eq_of_lt hk, Vector.getElem_set_self]
      exact dw_setDw _ hi' x
    · simp only [State.key, Nat.mod_eq_of_lt hk']
      exact Vector.getElem_set_ne _ _ hne.symm
  · rw [exec_hostCxlMemWrite, execHostCxlMemWrite, hin]
    rfl
  · rw [exec_hostCxlMemWrite, execHostCxlMemWrite, hout]
    rfl
  · rw [exec_hostCxlMemRead, execHostCxlMemRead, hin]
    rfl
  · rw [exec_hostCxlMemRead, execHostCxlMemRead, hout]
    rfl
  · have hhere : (s.tower t).powering.contains (q, seq, layer.toNat) = true := List.contains_iff_mem.mpr hmem
    rw [exec_layerPowerOn, execLayerPowerOn, hhere]
    rfl

end Sys2Proof.Machine
end

section
/-! What removing a killed subtree's nodes and reporting them leaves alone (R265 to R274, R325). -/

namespace Sys2Proof.Machine

/-! What keeps the towers' Easel, the jobs and the stopped contexts. -/

/-- What a launch gave a job and Easel answers it by. -/
def Job.ident (j : Job) : Nat × Nat × BitVec 6 × Bool × Nat := (j.num, j.cq, j.tenant, j.home, j.root)

/-- A tower's hold, journal position, heartbeat timer and doorbells. -/
def Tower.easel (w : Tower) : Bool × W64 × Option Nat × List Nat := (w.hold, w.japp, w.beat, w.kick)

/-- Whether Easel has got a completion entry, to be written or waiting at its source (R305, R308). -/
def Tower.Accepted (w : Tower) (c : Completion) : Prop := c ∈ w.completions ∨ c ∈ w.postWait

/-- A tower whose Easel stands as it did, with every completion entry it had. -/
structure Tower.Extends (w v : Tower) : Prop where
  easel_eq : v.easel = w.easel
  accepted : ∀ c, w.Accepted c → v.Accepted c

theorem Tower.Extends.refl (w : Tower) : w.Extends w := ⟨rfl, fun _ h => h⟩

theorem Tower.Extends.trans {w v x : Tower} (h : w.Extends v) (h' : v.Extends x) : w.Extends x :=
  ⟨h'.easel_eq.trans h.easel_eq, fun c hc => h'.accepted c (h.accepted c hc)⟩

theorem Tower.Extends.setPool (w : Tower) (e : W64) (p : List (Nat × Nat)) : w.Extends (w.setPool e p) := by
  unfold Tower.setPool
  split <;> exact ⟨rfl, fun _ h => h⟩

/-- Easel keeps an entry that it accepts. -/
theorem Tower.Extends.accept (w : Tower) (c : Completion) : w.Extends (w.accept c) := by
  unfold Tower.accept
  split
  · exact ⟨rfl, fun d hd => hd.imp id fun h => List.mem_append_left _ h⟩
  · exact ⟨rfl, fun d hd => hd.imp (fun h => List.mem_append_left _ h) id⟩

/-- A scope that is being or has been killed. -/
def Scope.Ending (c : Scope) : Prop := c.state = .dying ∨ c.state = .dead

/-- What a device-level error's kills leave alone: the time, the towers' Easel, what every job was launched with, the boot, and which contexts
are stopped; no completion entry, cancel or scope is lost, and a scope that is ending stays so. -/
structure State.Kills (s u : State) : Prop where
  time_eq : u.time19 = s.time19
  faulted_eq : u.faulted = s.faulted
  boot_eq : (u.bootNo, u.bootJournal) = (s.bootNo, s.bootJournal)
  jobs_eq : u.jobs.map Job.ident = s.jobs.map Job.ident
  extends_tower : ∀ t, (s.tower t).Extends (u.tower t)
  scope_ending : ∀ home id d, s.scope home id = some d → ∃ d', u.scope home id = some d' ∧ (d.Ending → d'.Ending)
  cancels_sub : ∀ k ∈ s.cancels, k ∈ u.cancels
  stopped_iff : ∀ r, (u.ctx r).status = .stopped ↔ (s.ctx r).status = .stopped

namespace State.Kills

theorem of_rest {s u : State} (htime : u.time19 = s.time19) (hfault : u.faulted = s.faulted)
    (hboot : (u.bootNo, u.bootJournal) = (s.bootNo, s.bootJournal)) (hjobs : u.jobs.map Job.ident = s.jobs.map Job.ident)
    (hscopes : u.scopes = s.scopes) (hcancels : u.cancels = s.cancels) (htower : ∀ t, (s.tower t).Extends (u.tower t))
    (hctx : ∀ r, (u.ctx r).status = .stopped ↔ (s.ctx r).status = .stopped) : s.Kills u where
  time_eq := htime
  faulted_eq := hfault
  boot_eq := hboot
  jobs_eq := hjobs
  extends_tower := htower
  scope_ending home id d hd := ⟨d, by rw [State.scope, hscopes]; exact hd, fun h => h⟩
  cancels_sub k hk := hcancels ▸ hk
  stopped_iff := hctx

theorem refl (s : State) : s.Kills s := of_rest rfl rfl rfl rfl rfl rfl (fun _ => .refl _) fun _ => .rfl

theorem trans {s u v : State} (h : s.Kills u) (h' : u.Kills v) : s.Kills v where
  time_eq := h'.time_eq.trans h.time_eq
  faulted_eq := h'.faulted_eq.trans h.faulted_eq
  boot_eq := h'.boot_eq.trans h.boot_eq
  jobs_eq := h'.jobs_eq.trans h.jobs_eq
  extends_tower t := (h.extends_tower t).trans (h'.extends_tower t)
  scope_ending home id d hd := by
    obtain ⟨d', hd', hend⟩ := h.scope_ending home id d hd
    obtain ⟨d'', hd'', hend'⟩ := h'.scope_ending home id d' hd'
    exact ⟨d'', hd'', fun hx => hend' (hend hx)⟩
  cancels_sub k hk := h'.cancels_sub k (h.cancels_sub k hk)
  stopped_iff r := (h'.stopped_iff r).trans (h.stopped_iff r)

theorem ite {c : Prop} [Decidable c] {s u v : State} (hu : s.Kills u) (hv : s.Kills v) : s.Kills (if c then u else v) := by
  split
  · exact hu
  · exact hv

theorem foldl {α : Type} {f : State → α → State} (h : ∀ s a, State.Kills s (f s a)) (l : List α) (s : State) : s.Kills (l.foldl f s) := by
  induction l generalizing s with
  | nil => exact .refl _
  | cons a l ih => exact (h s a).trans (ih (f s a))

/-! The state's operations. -/

theorem modTower (s : State) (t : Bool) {f : Tower → Tower} (hf : (s.tower t).Extends (f (s.tower t))) : s.Kills (s.modTower t f) := by
  refine of_rest (by simp) (by simp) (by simp) (by simp) (by simp) (by simp) (fun u => ?_) fun r => by rw [State.ctx_modTower]
  by_cases hu : u = t
  · subst hu
    rw [State.tower_modTower]
    exact hf
  · rw [State.tower_modTower_ne _ _ hu]
    exact .refl _

theorem editTower (s : State) (t : Bool) {f : Tower → Tower} (hf : ∀ w : Tower, w.Extends (f w) := by exact fun _ => ⟨rfl, fun _ h => h⟩) :
    s.Kills (s.modTower t f) := .modTower s t (hf _)

theorem modCore (s : State) (c : CoreRef) {f : Core → Core} (hp : ∀ k, (f k).p = k.p := by exact fun _ => rfl)
    (hq : ∀ k, (f k).q = k.q := by exact fun _ => rfl) : s.Kills (s.modCore c f) :=
  of_rest rfl rfl rfl rfl rfl rfl (fun _ => .refl _) fun r => by rw [State.ctx_modCore s c hp hq]

theorem modCtx (s : State) (r : CtxRef) {f : Ctx → Ctx} (hf : (f (s.ctx r)).status = .stopped ↔ (s.ctx r).status = .stopped) :
    s.Kills (s.modCtx r f) := by
  refine of_rest rfl rfl rfl rfl rfl rfl (fun _ => .refl _) fun q => ?_
  by_cases hq : q = r
  · subst hq
    rw [State.ctx_modCtx]
    exact hf
  · rw [State.ctx_modCtx_ne _ _ hq]

theorem modJob (s : State) (n : Nat) {f : Job → Job} (hf : ∀ j, (f j).ident = j.ident := by exact fun _ => rfl) : s.Kills (s.modJob n f) := by
  refine of_rest rfl rfl rfl ?_ rfl rfl (fun _ => .refl _) fun _ => .rfl
  rw [State.modJob, List.map_map]
  refine List.map_congr_left fun j _ => ?_
  dsimp only [Function.comp]
  split
  · exact hf j
  · rfl

theorem nodes (s : State) (l : List Node) : s.Kills { s with nodes := l } := of_rest rfl rfl rfl rfl rfl rfl (fun _ => .refl _) fun _ => .rfl

theorem modNode (s : State) (id : Nat) (f : Node → Node) : s.Kills (s.modNode id f) := .nodes ..

theorem hostmem (s : State) (l : List Host.Cell) : s.Kills { s with hostmem := l } :=
  of_rest rfl rfl rfl rfl rfl rfl (fun _ => .refl _) fun _ => .rfl

theorem modDmem (s : State) (sp : DevSpace) (f : DevMem → DevMem) : s.Kills (s.modDmem sp f) := by
  unfold State.modDmem
  split
  · exact of_rest rfl rfl rfl rfl rfl rfl (fun _ => .refl _) fun _ => .rfl
  · exact .editTower ..
  · exact .editTower ..

/-! Writes, reports and answers. -/

theorem modPte (s : State) (a : Nat) (f : W64 → W64) : s.Kills (s.modPte a f) := by
  refine of_rest rfl rfl rfl rfl rfl rfl (fun t => ?_) fun _ => .rfl
  cases t <;> exact ⟨rfl, fun _ h => h⟩

theorem wipeFrame (s : State) (l : Leaf) (f : Nat) : s.Kills (s.wipeFrame l f) := by
  unfold State.wipeFrame
  split
  · exact .modDmem ..
  · exact .refl _

theorem takeFrame {s u : State} {l : Leaf} {t : Bool} {f : Nat} (h : s.takeFrame l t = some (f, u)) : s.Kills u := by
  unfold State.takeFrame at h
  split at h
  · cases h
  · cases h
    exact .modTower _ _ (.setPool ..)

theorem backPage {s u : State} {t : Bool} {l l' : Leaf} (h : s.backPage t l = some (l', u)) : s.Kills u := by
  unfold State.backPage at h
  split at h
  · cases h; exact .refl _
  · split at h
    · cases h
      exact (State.Kills.modPte s l.at_ _).trans (.hostmem ..)
    · split at h
      · cases h
      · next htake =>
        cases h
        exact ((State.Kills.takeFrame htake).trans (.wipeFrame ..)).trans (.modPte ..)

theorem vwriteRun (s : State) (t : Bool) (job va : Nat) (bs : List Byte) : s.Kills (s.vwriteRun t job va bs) := by
  unfold State.vwriteRun
  split
  · exact .refl _
  · split
    · exact .refl _
    · split
      · exact .refl _
      next hback =>
        split
        · exact (State.Kills.backPage hback).trans (.modDmem ..)
        · exact (State.Kills.backPage hback).trans (.hostmem ..)

theorem vwrite (s : State) (t : Bool) (job va : Nat) (bs : List Byte) : s.Kills (s.vwrite t job va bs) := .foldl (fun _ _ => .vwriteRun ..) _ s

theorem ringWrite (s : State) (t : Bool) (job addr m : Nat) (rec : List Byte) : s.Kills (s.ringWrite t job addr m rec).2 := by
  unfold State.ringWrite
  dsimp only
  split
  · exact .vwrite ..
  · exact (State.Kills.vwrite ..).trans (.vwrite ..)

theorem post (s : State) (q : Nat) (a : Answer) : s.Kills (s.post q a) := .modTower _ _ (.accept ..)

theorem postJob (s : State) (job : Nat) (a : Answer) : s.Kills (s.postJob job a) := by
  unfold State.postJob
  split
  · exact .post ..
  · exact .refl _

theorem report (s : State) (job : Nat) (r : Report) : s.Kills (s.report job r) := by
  unfold State.report
  have h : s.Kills (if isLoss r.cause then s.modJob job fun j => { j with counts.losses := j.counts.losses + 1 } else s) := by
    split
    · exact .modJob ..
    · exact .refl _
  generalize (if isLoss r.cause then s.modJob job fun j => { j with counts.losses := j.counts.losses + 1 } else s) = u at h
  refine h.trans ?_
  dsimp only
  split
  · split
    · exact (State.Kills.ringWrite ..).trans (.modJob ..)
    · split
      · exact (State.Kills.ringWrite ..).trans (.vwrite ..)
      · exact .ringWrite ..
  · exact .postJob ..

/-! Nodes that are removed. -/

theorem tryReady (s : State) (id : Nat) : s.Kills (s.tryReady id) := by
  unfold State.tryReady
  split
  · exact .refl _
  next n hn =>
    dsimp only
    exact .ite (.refl _) ((State.Kills.modNode ..).trans (.editTower ..))

theorem resolve (s : State) (id : Nat) (cancelled : Bool) : s.Kills (s.resolve id cancelled) := by
  unfold State.resolve
  split
  · exact .refl _
  · split
    · exact .refl _
    · exact (State.Kills.modNode ..).trans (.tryReady ..)

theorem resolveList (s : State) (n : Node) (cancelled : Bool) (skip : List Nat) (va fuel : Nat) :
    s.Kills (s.resolveList n cancelled skip va fuel) := by
  induction fuel generalizing s va with
  | zero => exact .refl _
  | succ fuel ih =>
    unfold State.resolveList
    split
    · refine State.Kills.trans ?_ (.report ..)
      split
      · exact .modDmem ..
      · exact .refl _
    next bs _ =>
      have h : s.Kills (if skip.contains (leNat bs % 2 ^ 32) then s else s.resolve (leNat bs % 2 ^ 32) cancelled) := by
        split
        · exact .refl _
        · exact .resolve ..
      dsimp only
      split
      · exact h
      · exact h.trans (ih _ _)

theorem unslip (s : State) (job id : Nat) : s.Kills (s.unslip job id) := by
  unfold State.unslip
  split
  · exact .refl _
  · split
    · exact .refl _
    · dsimp only
      split
      · exact (State.Kills.modJob ..).trans (.foldl (fun _ _ => .tryReady ..) _ _)
      · exact .modJob ..

theorem completeNode (s : State) (id : Nat) (cancelled : Bool) (skip : List Nat) : s.Kills (s.completeNode id cancelled skip) := by
  unfold State.completeNode
  split
  · exact .refl _
  next n _ =>
    have hout (a : State) : a.Kills (a.resolveSuccs n cancelled skip) := by
      unfold State.resolveSuccs
      split
      · exact .refl _
      · exact .resolveList ..
    exact ((((State.Kills.nodes s _).trans (.editTower ..)).trans (.modJob ..)).trans (hout _)).trans
      (.unslip ..)

/-- A barrier's release runs contexts that wait, never one that is stopped. -/
theorem releaseWaiter (s : State) (w : Waiter) (broken calling : Bool) (hw : ∀ r, w.ctx = some r → (s.ctx r).status ≠ .stopped) :
    s.Kills (s.releaseWaiter w broken calling) := by
  unfold State.releaseWaiter
  dsimp only
  split
  next r hr => exact .modCtx _ _ ⟨fun h => CtxStatus.noConfusion h, fun h => absurd h (hw r hr)⟩
  · exact .modNode ..

theorem releaseAll (broken calling : Bool) (l : List Waiter) (s : State)
    (hl : ∀ w ∈ l, ∀ r, w.ctx = some r → (s.ctx r).status ≠ .stopped) :
    s.Kills (l.foldl (fun a w => a.releaseWaiter w broken calling) s) := by
  induction l generalizing s with
  | nil => exact .refl _
  | cons w l ih =>
    have h := State.Kills.releaseWaiter s w broken calling (hl w List.mem_cons_self)
    exact h.trans (ih _ fun v hv r hr hstop => hl v (List.mem_cons_of_mem _ hv) r hr ((h.stopped_iff r).mp hstop))

theorem breakBar (s : State) (ws : List Waiter) (core : CoreRef) (node : Nat) (calling : Bool)
    (hws : ∀ w ∈ ws, ∀ r, w.ctx = some r → (s.ctx r).status ≠ .stopped) : s.Kills (s.breakBar ws core node calling) :=
  .releaseAll _ _ _ _ fun w hw => hws w (List.mem_of_mem_filter hw)

end State.Kills

/-- A context that waits at a group's barrier is not stopped. -/
theorem gbarAt_stopped {g : Nat} {x : Ctx} (h : x.status = .stopped) : gbarAt g x = none := by rw [gbarAt, h]

/-- A context that waits at an atelier's barrier is not stopped. -/
theorem cbarAt_stopped {g : Nat} {x : Ctx} (h : x.status = .stopped) : cbarAt g x = none := by rw [cbarAt, h]

/-- No waiter of a barrier is stopped. -/
theorem State.waiters_running {s : State} {t : Bool} {sel : Ctx → Option (Nat × BitVec 3)} (hsel : ∀ x, x.status = .stopped → sel x = none) :
    ∀ w ∈ s.waiters t sel, ∀ r, w.ctx = some r → (s.ctx r).status ≠ .stopped := by
  intro w hw r hr hstop
  rcases List.mem_append.mp hw with hrun | hsaved
  · obtain ⟨q, _, hq⟩ := List.mem_filterMap.mp hrun
    split at hq
    · cases hq
    · obtain ⟨v, hv, rfl⟩ := Option.map_eq_some_iff.mp hq
      obtain rfl : q = r := Option.some.inj hr
      rw [hsel _ hstop] at hv
      cases hv
  · obtain ⟨n, _, hn⟩ := List.mem_filterMap.mp hsaved
    obtain ⟨im, _, him⟩ := Option.bind_eq_some_iff.mp hn
    split at him
    · cases him
    · obtain ⟨v, _, rfl⟩ := Option.map_eq_some_iff.mp him
      cases hr

namespace State.Kills

theorem breakBars (s : State) (core : CoreRef) (node : Nat) (x : Ctx) : s.Kills (s.breakBars core node x) := by
  have h : s.Kills (x.groups.foldl (fun a g => a.breakBar (a.waiters (towerOf core) (gbarAt g)) core node false) s) :=
    .foldl (fun a g => .breakBar _ _ _ _ _ (a.waiters_running fun _ => gbarAt_stopped)) _ s
  unfold State.breakBars
  dsimp only
  split
  · exact h
  · exact h.trans (.breakBar _ _ _ _ _ (State.waiters_running fun _ => cbarAt_stopped))

theorem killStream (s : State) (core : CoreRef) (job node tenant scope : Nat) (st : Option Stream) :
    s.Kills (s.killStream core job node tenant scope st) := by
  unfold State.killStream
  split
  · exact .refl _
  · exact ((State.Kills.modCore ..).trans (.modCore ..)).trans (.report ..)

theorem freeHolds (s : State) (c : CoreRef) (gone : List Nat) : s.Kills (s.freeHolds c gone) := by
  unfold State.freeHolds
  exact (State.Kills.modCore ..).trans (.editTower ..)

theorem dropImage (s : State) (n : Node) (im : Image) : s.Kills (s.dropImage n im) :=
  (((State.Kills.breakBars ..).trans (.killStream ..)).trans (.modCore ..)).trans (.freeHolds ..)

theorem removeNode (s : State) (n : Node) (inside : List Nat) : s.Kills (s.removeNode n inside) := by
  refine State.Kills.trans ?_ (.completeNode ..)
  split
  · exact .dropImage ..
  · exact .refl _

end State.Kills

/-! A subtree is killed. -/

/-- A scope as the kill of a set of scopes of a tower leaves it (R268). -/
def Scope.killed (home : Bool) (sub : List Nat) (c : Scope) : Scope :=
  if c.home == home && sub.contains c.id && (c.state == .opened || c.state == .sealed) then { c with state := .dying } else c

theorem Scope.killed_name (home : Bool) (sub : List Nat) (c : Scope) :
    (c.killed home sub).home = c.home ∧ (c.killed home sub).id = c.id := by
  unfold Scope.killed
  split <;> exact ⟨rfl, rfl⟩

theorem Scope.Ending.killed {c : Scope} (h : c.Ending) (home : Bool) (sub : List Nat) : (c.killed home sub).Ending := by
  unfold Scope.killed
  split
  · exact .inl rfl
  · exact h

/-- A scope of the set is dying after the kill, or has ended before. -/
theorem Scope.killed_ending {home : Bool} {sub : List Nat} {c : Scope} (hhome : c.home = home) (hsub : c.id ∈ sub) :
    (c.killed home sub).Ending := by
  unfold Scope.killed
  split
  · exact .inl rfl
  next hnot =>
    have hopen : ¬(c.state = .opened ∨ c.state = .sealed) := by simpa [hhome, hsub] using hnot
    cases hstate : c.state with
    | opened => exact absurd (.inl hstate) hopen
    | sealed => exact absurd (.inr hstate) hopen
    | dying => exact .inl hstate
    | dead => exact .inr hstate

/-- The scopes of a tower's table after a change that leaves their names. -/
theorem State.scope_map {s u : State} {f : Scope → Scope} (hu : u.scopes = s.scopes.map f) (hf : ∀ c, (f c).home = c.home ∧ (f c).id = c.id)
    (home : Bool) (id : Nat) : u.scope home id = (s.scope home id).map f := by
  rw [State.scope, hu, List.find?_map, State.scope]
  congr 2
  funext c
  simp only [Function.comp, (hf c).1, (hf c).2]

/-- The state in which a subtree is about to lose its nodes: its scopes are dying and the job's cancel is counted (R268). -/
def State.killBegun (s : State) (home : Bool) (job : Nat) (sub : List Nat) : State :=
  ({ s with scopes := s.scopes.map (Scope.killed home sub) } : State).modJob job fun j => { j with counts.cancels := j.counts.cancels + 1 }

theorem State.killBegun_kills (s : State) (home : Bool) (job : Nat) (sub : List Nat) : s.Kills (s.killBegun home job sub) := by
  refine State.Kills.trans ?_ (.modJob ..)
  exact {
    time_eq := rfl, faulted_eq := rfl, boot_eq := rfl, jobs_eq := rfl, extends_tower := fun _ => .refl _, cancels_sub := fun _ h => h
    stopped_iff := fun _ => .rfl
    scope_ending := fun h id d hd =>
      ⟨d.killed home sub, by rw [State.scope_map (s := s) rfl (Scope.killed_name home sub), hd]; rfl, fun hend => hend.killed ..⟩ }

/-- The cancel that a kill sets out (R268, R272). -/
def State.killCancel (s : State) (nextId : Nat) (home : Bool) (job scope : Nat) (core : CoreRef) (ctr tenant issuer : Nat) : Cancel :=
  ⟨nextId, home, job, s.subtree home scope, List.range 512, core, ctr, scope, issuer, tenant⟩

/-- A kill begins, removes nodes, and sets its cancel out. -/
theorem State.killScope_after (s : State) (home : Bool) (job scope : Nat) (core : CoreRef) (ctr tenant issuer : Nat) :
    ∃ v, (s.killBegun home job (s.subtree home scope)).Kills v ∧ v.Kills (s.killScope home job scope core ctr tenant issuer) ∧
      s.killCancel v.nextId home job scope core ctr tenant issuer ∈ (s.killScope home job scope core ctr tenant issuer).cancels := by
  refine ⟨_, State.Kills.foldl (fun a n => State.Kills.removeNode a n _) _ _, ?_, List.mem_append_right _ List.mem_cons_self⟩
  exact {
    time_eq := rfl, faulted_eq := rfl, boot_eq := rfl, jobs_eq := rfl, extends_tower := fun _ => .refl _
    cancels_sub := fun _ h => List.mem_append_left _ h, stopped_iff := fun _ => .rfl, scope_ending := fun _ _ d hd => ⟨d, hd, fun h => h⟩ }

theorem State.Kills.killScope (s : State) (home : Bool) (job scope : Nat) (core : CoreRef) (ctr tenant issuer : Nat) :
    s.Kills (s.killScope home job scope core ctr tenant issuer) := by
  obtain ⟨v, hv, hend, _⟩ := s.killScope_after home job scope core ctr tenant issuer
  exact ((s.killBegun_kills ..).trans hv).trans hend

/-- A scope lies in its own subtree (R267). -/
theorem State.mem_subtree {s : State} {home : Bool} {id : Nat} {d : Scope} (hd : s.scope home id = some d) : id ∈ s.subtree home id := by
  have hname : d.home = home ∧ d.id = id := by
    have h := List.find?_some hd
    simpa using h
  refine List.mem_map.mpr ⟨d, List.mem_filter.mpr ⟨List.mem_of_find?_eq_some hd, ?_⟩, hname.2⟩
  simp [hname, State.inSubtree, State.under]

/-- A scope that is killed is dying, or has ended before. -/
theorem State.killScope_ending {s : State} {home : Bool} {scope : Nat} {d : Scope} (hd : s.scope home scope = some d) (job : Nat)
    (core : CoreRef) (ctr tenant issuer : Nat) :
    ∃ d', (s.killScope home job scope core ctr tenant issuer).scope home scope = some d' ∧ d'.Ending := by
  have hname : d.home = home ∧ d.id = scope := by
    have h := List.find?_some hd
    simpa using h
  obtain ⟨v, hv, hend, _⟩ := s.killScope_after home job scope core ctr tenant issuer
  have hbegun : (s.killBegun home job (s.subtree home scope)).scope home scope = some (d.killed home (s.subtree home scope)) := by
    rw [State.scope_map (s := s) rfl (Scope.killed_name home _), hd]
    rfl
  obtain ⟨d', hd', hkeep⟩ := (hv.trans hend).scope_ending _ _ _ hbegun
  exact ⟨d', hd', hkeep (Scope.killed_ending hname.1 (by rw [hname.2]; exact State.mem_subtree hd))⟩

end Sys2Proof.Machine
end

section
/-! Failures, scrubbing, clocks, bring-up and resets (R70, R108, R207, R233, R297, R305, R309, R313, R322 to R335). -/

namespace Sys2Proof.Machine

/-! Device-level errors (R325). -/

/-- A job that is running keeps what its launch gave it. -/
theorem State.Kills.job {s u : State} (h : s.Kills u) {n : Nat} {j : Job} (hj : s.job n = some j) :
    ∃ j', u.job n = some j' ∧ j'.ident = j.ident := by
  have hfind (a : State) : (a.job n).map Job.ident = (a.jobs.map Job.ident).find? fun i => i.1 == n := by
    rw [List.find?_map]
    rfl
  have hsame : (u.job n).map Job.ident = (s.job n).map Job.ident := by rw [hfind, hfind, h.jobs_eq]
  rw [hj] at hsame
  exact Option.map_eq_some_iff.mp hsame

/-- The kept parts of a tower's Easel. -/
theorem Tower.Extends.parts {w v : Tower} (h : w.Extends v) : v.hold = w.hold ∧ v.japp = w.japp ∧ v.beat = w.beat ∧ v.kick = w.kick := by
  have he := h.easel_eq
  simpa only [Tower.easel, Prod.mk.injEq] using he

/-- The payload of the entry that tells of a device-level error. -/
def faultPay (cause : Nat) (t : Bool) (column : Nat) : BitVec 256 :=
  ofDws 256 [BitVec.ofNat 64 cause, BitVec.ofNat 64 (256 * towerNat t + column % 64), 0, 0]

/-- The entry that a job's queue gets of a device-level error (R325). -/
def Job.faultEntry (j : Job) (cause : Nat) (t : Bool) (column time : Nat) : Rec64 :=
  ({ type := 0x08, job := j.num, tenant := j.tenant.toNat, scope := j.root, pay := faultPay cause t column } : Answer).entry j.cq time

theorem at_tower_column (t : Bool) (column : Nat) :
    at_ 64 8 (towerNat t) ||| at_ 64 0 (column % 64) = BitVec.ofNat 64 (256 * towerNat t + column % 64) := by
  have hlow : column % 64 < 2 ^ 8 := by omega
  rw [at_, at_, ← BitVec.ofNat_or, pow_zero, Nat.mul_one, Nat.mul_comm, ← Nat.two_pow_add_eq_or_of_lt hlow]

/-- A device-level error's report and kill of one job (R325). -/
def State.failJob (cause : Nat) (t : Bool) (column time : Nat) (s : State) (j : Job) : State :=
  ((s.postJob j.num { type := 0x08, scope := j.root, pay := faultPay cause t column }).killScope j.home j.num j.root 0 0 j.tenant.toNat).modJob
    j.num fun k => { k with endAt := some time }

/-- A device-level error posts and kills job by job (R325). -/
theorem State.deviceError_eq {s : State} (h : s.faulted = false) (cause : Nat) (t : Bool) (column : Nat) :
    s.deviceError cause t column = s.jobs.foldl (State.failJob cause t column s.time) { s with faulted := true } := by
  rw [State.deviceError, h, at_tower_column]
  rfl

theorem State.deviceError_faulted {s : State} (h : s.faulted = true) (cause : Nat) (t : Bool) (column : Nat) :
    s.deviceError cause t column = s := by
  rw [State.deviceError, if_pos h]

theorem State.Kills.failJob (cause : Nat) (t : Bool) (column time : Nat) (s : State) (j : Job) :
    s.Kills (State.failJob cause t column time s j) := ((State.Kills.postJob ..).trans (.killScope ..)).trans (.modJob ..)

/-- What a device-level error leaves alone. -/
theorem State.Kills.deviceError (s : State) (cause : Nat) (t : Bool) (column : Nat) :
    ({ s with faulted := true } : State).Kills (s.deviceError cause t column) := by
  cases h : s.faulted with
  | true =>
    rw [State.deviceError_faulted h, ← h]
    exact .refl _
  | false =>
    rw [State.deviceError_eq h]
    exact .foldl (fun a j => .failJob ..) _ _

/-- The queue that a job's launch named has the entry that is posted for the job. -/
theorem State.postJob_accepted {s : State} {n : Nat} {j : Job} (hj : s.job n = some j) (a : Answer) :
    ∃ c, ((s.postJob n a).tower (queueTower j.cq)).Accepted c ∧ c.queue = j.cq ∧
      c.entry = ({ a with job := n, tenant := j.tenant.toNat } : Answer).entry j.cq s.time := by
  simp only [State.postJob, hj, State.post, State.tower_modTower, Tower.accept]
  split
  · exact ⟨_, .inr (List.mem_append_right _ List.mem_cons_self), rfl, rfl⟩
  · exact ⟨_, .inl (List.mem_append_right _ List.mem_cons_self), rfl, rfl⟩

/-- What a device-level error that is told and handled at some time leaves of a job (R325). -/
structure Job.Failed (j : Job) (cause : Nat) (t : Bool) (column time : Nat) (rooted : Bool) (u : State) : Prop where
  posted : ∃ c, (u.tower (queueTower j.cq)).Accepted c ∧ c.queue = j.cq ∧ c.entry = j.faultEntry cause t column time
  ending : rooted = true → ∃ d, u.scope j.home j.root = some d ∧ d.Ending
  cancelled : rooted = true → ∃ k ∈ u.cancels, k.job = j.num ∧ k.home = j.home ∧ j.root ∈ k.scopes ∧ k.left = List.range 512

theorem Job.Failed.later {j : Job} {cause : Nat} {t : Bool} {column time : Nat} {rooted : Bool} {u v : State}
    (h : j.Failed cause t column time rooted u) (huv : u.Kills v) : j.Failed cause t column time rooted v where
  posted := by
    obtain ⟨c, hc, heq⟩ := h.posted
    exact ⟨c, (huv.extends_tower _).accepted c hc, heq⟩
  ending hr := by
    obtain ⟨d, hd, hend⟩ := h.ending hr
    obtain ⟨d', hd', hkeep⟩ := huv.scope_ending _ _ _ hd
    exact ⟨d', hd', hkeep hend⟩
  cancelled hr := by
    obtain ⟨k, hk, heq⟩ := h.cancelled hr
    exact ⟨k, huv.cancels_sub k hk, heq⟩

/-- A running job's turn in a device-level error. -/
theorem State.failJob_failed {s : State} {j j' : Job} (hj : s.job j.num = some j') (hsame : j'.ident = j.ident) (cause : Nat) (t : Bool)
    (column time : Nat) : j.Failed cause t column s.time (s.scope j.home j.root).isSome (State.failJob cause t column time s j) := by
  have hpost := s.postJob_accepted hj { type := 0x08, scope := j.root, pay := faultPay cause t column }
  simp only [Job.ident, Prod.mk.injEq] at hsame
  obtain ⟨_, hcq, htenant, _, _⟩ := hsame
  rw [hcq, htenant] at hpost
  have hkept := State.Kills.postJob s j.num { type := 0x08, scope := j.root, pay := faultPay cause t column }
  generalize hu : s.postJob j.num { type := 0x08, scope := j.root, pay := faultPay cause t column } = u at hpost hkept
  rw [State.failJob, hu]
  refine Job.Failed.later (u := u.killScope j.home j.num j.root 0 0 j.tenant.toNat) ⟨?_, fun hr => ?_, fun hr => ?_⟩ (.modJob ..)
  · obtain ⟨c, hc, heq⟩ := hpost
    exact ⟨c, ((State.Kills.killScope ..).extends_tower _).accepted c hc, heq⟩
  · obtain ⟨d, hd⟩ := Option.isSome_iff_exists.mp hr
    obtain ⟨d', hd', _⟩ := hkept.scope_ending _ _ _ hd
    exact State.killScope_ending hd' ..
  · obtain ⟨d, hd⟩ := Option.isSome_iff_exists.mp hr
    obtain ⟨d', hd', _⟩ := hkept.scope_ending _ _ _ hd
    obtain ⟨v, _, _, hmem⟩ := u.killScope_after j.home j.num j.root 0 0 j.tenant.toNat 0
    refine ⟨_, hmem, ?_⟩
    simpa only [State.killCancel, true_and, and_true] using State.mem_subtree hd'

/-- A device-level error that begins is told to every running job, whose scopes it kills (R325). -/
theorem State.deviceError_follows {s : State} (h : s.faulted = false) (cause : Nat) (t : Bool) (column : Nat) :
    FaultFollows s (s.deviceError cause t column) cause t column := by
  refine ⟨(State.Kills.deviceError ..).faulted_eq, fun j hj => ?_⟩
  have hfailed : j.Failed cause t column s.time (s.scope j.home j.root).isSome (s.deviceError cause t column) := by
    obtain ⟨before, after, hjobs⟩ := List.append_of_mem (List.mem_of_find?_eq_some hj)
    have hturn (a : State) : s.jobs.foldl (State.failJob cause t column s.time) a = after.foldl (State.failJob cause t column s.time)
        (State.failJob cause t column s.time (before.foldl (State.failJob cause t column s.time) a) j) := by
      rw [hjobs, List.foldl_append, List.foldl_cons]
    rw [State.deviceError_eq h, hturn]
    have hbefore := State.Kills.foldl (State.Kills.failJob cause t column s.time) before { s with faulted := true }
    generalize before.foldl (State.failJob cause t column s.time) { s with faulted := true } = u at hbefore
    obtain ⟨j', hj', hsame⟩ := hbefore.job (n := j.num) hj
    refine Job.Failed.later ?_ (.foldl (State.Kills.failJob cause t column s.time) after _)
    have hnow := State.failJob_failed hj' hsame cause t column s.time
    have htime : u.time = s.time := congrArg (· / 19) hbefore.time_eq
    rw [htime] at hnow
    have hroot (hr : (s.scope j.home j.root).isSome = true) : (u.scope j.home j.root).isSome = true := by
      obtain ⟨d, hd⟩ := Option.isSome_iff_exists.mp hr
      obtain ⟨d', hd', _⟩ := hbefore.scope_ending _ _ _ hd
      exact Option.isSome_iff_exists.mpr ⟨d', hd'⟩
    exact ⟨hnow.posted, fun hr => hnow.ending (hroot hr), fun hr => hnow.cancelled (hroot hr)⟩
  exact ⟨hfailed.posted, fun hr => ⟨hfailed.ending hr, hfailed.cancelled hr⟩⟩

/-! Take-over (R305, R313). -/

/-- A tower's two control cores. -/
theorem State.controlCore_ne (s : State) (t : Bool) : s.controlCore t true ≠ s.controlCore t false := by
  unfold State.controlCore
  cases (s.tower t).primary <;> cases t <;> decide

theorem mem_foldl_setAdd {l : List Queue} {m : List Nat} {i : Nat} (h : i ∈ m ∨ ∃ v ∈ l, v.index = i) :
    i ∈ l.foldl (fun k v => setAdd k v.index) m := by
  induction l generalizing m with
  | nil => simpa using h
  | cons v l ih =>
    refine ih ?_
    rcases h with h | ⟨u, hu, rfl⟩
    · exact .inl ((setAdd_mem ..).mpr (.inr h))
    · rcases List.mem_cons.mp hu with rfl | hu
      · exact .inl ((setAdd_mem ..).mpr (.inl rfl))
      · exact .inr ⟨u, hu, rfl⟩

/-- A take-over rings every enabled queue's doorbell (R305). -/
theorem Tower.seized_kick (w : Tower) : ∀ v ∈ w.queues, v.en = true → v.index ∈ w.seized.kick :=
  fun v hv hen => mem_foldl_setAdd (.inr ⟨v, List.mem_filter.mpr ⟨hv, hen⟩, rfl⟩)

/-- A tower whose heartbeat timer has run out, its failed core stopped and steps 2 to 5 of the take-over made (R305). -/
def State.seized (s : State) (t : Bool) : State :=
  (s.modCtx ⟨s.controlCore t true, false⟩ fun x => x.halt s.cycle).modTower t Tower.seized

theorem State.seized_tower (s : State) (t : Bool) : (s.seized t).tower t = (s.tower t).seized := State.tower_modTower ..

theorem State.seized_stopped (s : State) (t : Bool) : ((s.seized t).ctx ⟨s.controlCore t true, false⟩).status = .stopped := by
  rw [State.seized, State.ctx_modTower, State.ctx_modCtx]
  rfl

/-- A take-over by the standby (R305). -/
theorem State.takeOver_standby {s : State} {t : Bool} (h : (s.tower t).standbyOk = true) : s.takeOver t =
    ((s.seized t).modTower t fun w => { w with standbyOk := false, takeover := true }).setCtx ⟨s.controlCore t false, false⟩
      (ctlStart ((s.firmware t).getD FwImage.empty).standby s.cycle) := by
  rw [State.takeOver, h]
  rfl

/-- A take-over without a standby (R313). -/
theorem State.takeOver_lost {s : State} {t : Bool} (h : (s.tower t).standbyOk = false) : s.takeOver t = (s.seized t).easelLost t := by
  rw [State.takeOver, h]
  rfl

theorem execTakeOver_out {s : State} {t : Bool} (h : s.beatOut t = true) : exec (.takeOver t) s = .next (s.takeOver t) := by
  rw [exec_takeOver, execTakeOver, if_pos h]

/-- A device-level error of a state that has the jobs, scopes and time of an earlier one follows on that one too. -/
theorem FaultFollows.of_same {s s' u : State} {cause : Nat} {t : Bool} {column : Nat} (h : FaultFollows s' u cause t column)
    (hjobs : s'.jobs = s.jobs) (hscopes : s'.scopes = s.scopes) (htime : s'.time = s.time) : FaultFollows s u cause t column := by
  simpa only [FaultFollows, State.job, State.scope, hjobs, hscopes, htime] using h

/-- A tower whose control core fails without a standby: its hold ends, and a device-level error begins (R313). -/
theorem State.easelLost_laws (s : State) (t : Bool) : (s.easelLost t).faulted = true ∧ ((s.easelLost t).tower t).hold = false ∧
    ((s.easelLost t).tower t).japp = (s.tower t).japp ∧ ((s.easelLost t).tower t).beat = (s.tower t).beat ∧
    ((s.easelLost t).tower t).kick = (s.tower t).kick ∧
    (∀ r, ((s.easelLost t).ctx r).status = .stopped ↔ (s.ctx r).status = .stopped) ∧
    (s.faulted = false → FaultFollows s (s.easelLost t) 5 t 0) := by
  have hkept := State.Kills.deviceError (s.modTower t Tower.release) 5 t 0
  obtain ⟨hhold, hjapp, hbeat, hkick⟩ := (hkept.extends_tower t).parts
  have htower : ({ s.modTower t Tower.release with faulted := true } : State).tower t = (s.tower t).release := State.tower_modTower ..
  rw [htower] at hhold hjapp hbeat hkick
  refine ⟨hkept.faulted_eq, hhold, hjapp, hbeat, hkick, fun r => (hkept.stopped_iff r).trans ?_, fun h => ?_⟩
  · exact iff_of_eq (congrArg (fun x : Ctx => x.status = .stopped) (State.ctx_modTower ..))
  · exact FaultFollows.of_same (State.deviceError_follows (by rw [State.modTower_faulted]; exact h) 5 t 0) (by simp) (by simp)
      (by simp [State.time])

/-! Invalidations (R233). -/

/-- What an acknowledged invalidation does to its queue, register and frames leaves the translation buffers alone. -/
structure State.SameTlb (s u : State) : Prop where
  tlb_eq : ∀ t, (u.tower t).tlb = (s.tower t).tlb

namespace State.SameTlb

theorem refl (s : State) : s.SameTlb s := ⟨fun _ => rfl⟩

theorem trans {s u v : State} (h : s.SameTlb u) (h' : u.SameTlb v) : s.SameTlb v := ⟨fun t => (h'.tlb_eq t).trans (h.tlb_eq t)⟩

theorem foldl {α : Type} {f : State → α → State} (h : ∀ s a, State.SameTlb s (f s a)) (l : List α) (s : State) :
    s.SameTlb (l.foldl f s) := by
  induction l generalizing s with
  | nil => exact .refl _
  | cons a l ih => exact (h s a).trans (ih (f s a))

theorem modTower (s : State) (t : Bool) {f : Tower → Tower} (hf : (f (s.tower t)).tlb = (s.tower t).tlb) : s.SameTlb (s.modTower t f) := by
  refine ⟨fun u => ?_⟩
  by_cases hu : u = t
  · subst hu
    rw [State.tower_modTower]
    exact hf
  · rw [State.tower_modTower_ne _ _ hu]

theorem takeEvicted (s : State) (v : Inval) : s.SameTlb (s.takeEvicted v) := by
  refine .foldl (fun a l => ?_) _ s
  split
  · exact .refl _
  · refine .modTower _ _ ?_
    unfold Tower.setPool
    split <;> rfl

theorem retryEngineNodes (s : State) (v : Inval) : s.SameTlb (s.retryEngineNodes v) := by
  refine .foldl (fun a c => ?_) _ s
  split
  · split
    · exact ⟨fun _ => rfl⟩
    · exact .refl _
  · exact .refl _

theorem answerBusy (s : State) (q : Nat) (seq : BitVec 32) (type status : Nat) : s.SameTlb (s.answerBusy q seq type status) := by
  have hdrawn (job : Nat) : s.SameTlb (s.identDrawn job) := by
    unfold State.identDrawn
    split
    · exact .refl _
    · exact ⟨fun _ => rfl⟩
  have haccept (w : Tower) (c : Completion) : (w.accept c).tlb = w.tlb := by
    unfold Tower.accept
    split <;> rfl
  unfold State.answerBusy
  split
  · exact .refl _
  next u _ =>
    refine (hdrawn u.busyJob).trans ?_
    dsimp only
    unfold State.answerLater
    split
    · exact .refl _
    · split
      · exact .refl _
      · exact .trans (.modTower _ _ (by rfl)) (.modTower _ _ (haccept ..))

theorem invalDone (s : State) (v : Inval) : s.SameTlb (s.invalDone v) := by
  have hdone : s.SameTlb { s with invals := s.invals.filter (·.id != v.id) } := ⟨fun _ => rfl⟩
  unfold State.invalDone
  dsimp only
  split
  · exact hdone.trans (.answerBusy ..)
  · split
    · exact hdone
    · exact ⟨fun _ => rfl⟩
  · exact hdone

end State.SameTlb

/-- A tower's acknowledgement leaves its translation buffers without the pages of the range (R233). -/
theorem exec_invalidationAck_done {s : State} {v : Inval} {t : Bool} (hv : s.invals.find? (fun w => w.id == v.id) = some v)
    (hleft : v.left.getLsbD (towerNat t) = true) (hnew : s.usesOld v t = false) : ∃ u, exec (.invalidationAck v.id t) s = .next u ∧
      (u.tower t).tlb = (s.tower t).tlb.filter fun e => !(e.root == s.rootOf v.job && v.coversPage e) := by
  have hgo : (!v.left.getLsbD (towerNat t) || s.usesOld v t) = false := by rw [hleft, hnew]; rfl
  rw [exec_invalidationAck, execInvalidationAck, hv]
  dsimp only
  rw [hgo, if_neg Bool.false_ne_true]
  refine ⟨_, rfl, ?_⟩
  split
  · rw [(((State.SameTlb.takeEvicted ..).trans (.retryEngineNodes ..)).trans (.invalDone ..)).tlb_eq, State.tower_modTower]
    rfl
  · rw [State.tower_modTower]
    rfl

/-! The scrubber (R323). -/

theorem State.passBegins_dev (s : State) (canvas t : Bool) : (s.passBegins canvas t).dev = s.dev := by
  unfold State.passBegins
  dsimp only
  split <;> simp

/-- A device memory line without altered symbols, of which nothing has been told (R323). -/
def DevMem.cleanLine (m : DevMem) (line : Nat) : DevMem :=
  { m with syms := m.syms.filter fun y => y / 72 != line, told := setDel m.told line }

theorem DevMem.cleanLine_symsIn (m : DevMem) (line : Nat) : (m.cleanLine line).symsIn line = [] := by
  simp [DevMem.symsIn, DevMem.cleanLine]

theorem DevMem.cleanLine_wf (m : DevMem) (h : m.wf = true) (line : Nat) : (m.cleanLine line).wf = true := by
  obtain ⟨hdata, hpres, hpois, hsyms, hkeys, hsilent, htold⟩ := (DevMem.wf_iff m).mp h
  exact (DevMem.wf_iff _).mpr ⟨hdata, hpres, hpois, setWf_filter hsyms _, hkeys, hsilent, setDel_wf htold line⟩

/-- An uncorrectable line as the scrubber leaves it: its sectors are poison, to be reported at the first read where `told` has not
been (R105, R323). -/
def DevMem.scrubBad (m : DevMem) (line : Nat) (told : Bool) : DevMem :=
  { (m.poison (2 * line)).poison (2 * line + 1) with silent := if told then m.silent else setAdd m.silent line }

theorem DevMem.scrubBad_poisoned {m : DevMem} (h : m.wf = true) (line : Nat) (told : Bool) :
    (m.scrubBad line told).poisoned (64 * line) = true ∧ (m.scrubBad line told).poisoned (64 * line + 32) = true := by
  obtain ⟨-, -, hpois, -⟩ := (DevMem.wf_iff m).mp h
  have hfirst : 64 * line / 32 = 2 * line := by omega
  have hsecond : (64 * line + 32) / 32 = 2 * line + 1 := by omega
  simp [DevMem.poisoned, DevMem.scrubBad, DevMem.poison, hfirst, hsecond, setHas_setAdd hpois, setHas_setAdd (setAdd_wf hpois _)]

/-- The scrubber at a correctable line of device memory without altered symbols. -/
theorem exec_scrub_clean {s : State} {line : Nat} (t : Bool) (hclaim : s.lineClaimed .gddr line = false)
    (hbad : s.lineBad .gddr line = false) (hsyms : s.dev.symsIn line = []) (hline : line ≠ 0) :
    exec (.scrub false t line) s = .next (s.modDmem .gddr (·.cleanLine line)) := by
  have hat : s.scrubLine false t line = (.gddr, line) := rfl
  have hnone : (s.dmem .gddr).symsIn line = [] := hsyms
  rw [exec_scrub, execScrub, hat]
  simp only [hclaim, hbad, hnone, Bool.false_eq_true, if_false, if_neg hline, List.filter_nil, List.foldl_nil]
  rfl

/-- The scrubber at an uncorrectable line of device memory. -/
theorem exec_scrub_bad {s : State} {line : Nat} (t : Bool) (hclaim : s.lineClaimed .gddr line = false) (hbad : s.lineBad .gddr line = true) :
    ∃ u, exec (.scrub false t line) s = .next u ∧ u.dev = (s.dev.cleanLine line).scrubBad line (setHas s.dev.told line) := by
  have hat : s.scrubLine false t line = (.gddr, line) := rfl
  rw [exec_scrub, execScrub, hat]
  simp only [hclaim, hbad, Bool.false_eq_true, if_false, if_true]
  refine ⟨_, rfl, ?_⟩
  have hbegun : (if line = 0 then s.passBegins false t else s).dev = s.dev := by
    split
    · exact State.passBegins_dev ..
    · rfl
  generalize (if line = 0 then s.passBegins false t else s) = u at hbegun
  rw [← hbegun]
  show DevMem.scrubBad (u.dev.cleanLine line) line (setHas s.dev.told line) = _
  rw [hbegun]

/-! Clocks (R333, R335). -/

/-- A state that differs in its cores alone. -/
def State.OnlyCores (s u : State) : Prop := ∃ cores, u = { s with cores := cores }

/-- A pre-emption that is asked for changes contexts alone. -/
theorem State.OnlyCores.askPreempt {s a : State} (h : s.OnlyCores a) (r : CtxRef) (ptag : Nat) : s.OnlyCores (a.askPreempt r ptag) := by
  have hask (b : State) (q : CtxRef) (tag : Nat) (hb : s.OnlyCores b) : s.OnlyCores (if (b.ctx q).status == .free then b
      else b.modCtx q fun x => { x with preempt := true, ptag := if tag = 0 then x.ptag else tag }) := by
    obtain ⟨cores, rfl⟩ := hb
    split
    · exact ⟨_, rfl⟩
    · exact ⟨_, rfl⟩
  unfold State.askPreempt
  dsimp only
  split
  · exact hask _ _ _ h
  · exact foldl_keeps s.OnlyCores _ (fun b q hb => hask b q 0 hb) _ (hask _ _ _ h)

/-- A tower's clock goes to another speed; of the rest, contexts are asked to be pre-empted (R314, R333). -/
theorem State.retrainTo_cores (s : State) (t : Bool) (v : Speed) :
    (s.modTower t fun w => { w with retrain := some v }).OnlyCores (s.retrainTo t v) :=
  foldl_keeps (State.OnlyCores _) _ (fun _ _ ha => ha.askPreempt ..) _ ⟨_, rfl⟩

theorem State.retrainTo_tower (s : State) (t : Bool) (v : Speed) (u : Bool) :
    (s.retrainTo t v).tower u = (s.modTower t fun w => { w with retrain := some v }).tower u := by
  obtain ⟨cores, h⟩ := s.retrainTo_cores t v
  rw [h]
  rfl

theorem State.lowerSpeed_bin {s : State} {t : Bool} {n : Nat} (h : (s.tower t).speed = .bin n) (hn : n < s.lowestBin t) :
    s.lowerSpeed t = some (.bin (n + 1)) := by
  rw [State.lowerSpeed, h]
  exact if_neg (by omega)

theorem State.lowerSpeed_none {s : State} {t : Bool} (h : (s.tower t).speed = .slow ∨ ∃ n, (s.tower t).speed = .bin n ∧ s.lowestBin t ≤ n) :
    s.lowerSpeed t = none := by
  rcases h with h | ⟨n, h, hn⟩
  · rw [State.lowerSpeed, h]
  · rw [State.lowerSpeed, h]
    exact if_pos hn

/-- A tower that is excluded keeps its clock as full service begins; the others go to the speed that step 8 gave them (R333). -/
def State.toBaseSpeed (s : State) (t : Bool) : State := if (s.tower t).excluded then s else s.retrainTo t (s.tower t).baseSpeed

theorem State.toBaseSpeed_own {s : State} {t : Bool} (h : (s.tower t).excluded = false) :
    ((s.toBaseSpeed t).tower t).retrain = some (s.tower t).baseSpeed := by
  rw [State.toBaseSpeed, h, if_neg Bool.false_ne_true, State.retrainTo_tower, State.tower_modTower]

theorem State.toBaseSpeed_ne (s : State) {t u : Bool} (h : u ≠ t) : (s.toBaseSpeed t).tower u = s.tower u := by
  unfold State.toBaseSpeed
  split
  · rfl
  · rw [State.retrainTo_tower, State.tower_modTower_ne _ _ h]

theorem State.toBaseSpeed_toFull (s : State) (t : Bool) : (s.toBaseSpeed t).toFull = s.toFull := by
  unfold State.toBaseSpeed
  split
  · rfl
  · obtain ⟨cores, h⟩ := s.retrainTo_cores t (s.tower t).baseSpeed
    rw [h]
    exact State.modTower_toFull ..

/-! Bring-up (R333, R334). -/

/-- A run of a bring-up step with its outcome, journalled and done. -/
def State.stepped (s : State) (r : BootRun) (out alt : Nat) : State := (s.journalBoot r.1 out alt r.2.2).bootStep r.1 out r.2.2

theorem State.bootSteps_cons (s : State) (r : BootRun) (rest : List BootRun) : ∃ out alt, s.bootSteps (r :: rest) =
    if staysInReset r.1 out then (false, s.stepped r out alt) else (s.stepped r out alt).bootSteps rest := by
  obtain ⟨step, passed, detail⟩ := r
  rw [State.bootSteps]
  cases s.plan step (stepUnit step detail) <;> exact ⟨_, _, rfl⟩

theorem State.memoryUp_boot (s : State) (t : Bool) : ((s.memoryUp t).bootNo, (s.memoryUp t).bootJournal) = (s.bootNo, s.bootJournal) := by
  unfold State.memoryUp
  dsimp only
  split
  · exact (State.Kills.deviceError ..).boot_eq.trans (by simp)
  · simp

theorem State.startEasel_boot (s : State) (t primary standby : Bool) :
    ((s.startEasel t primary standby).bootNo, (s.startEasel t primary standby).bootJournal) = (s.bootNo, s.bootJournal) := by
  simp [State.startEasel, State.startBeat, State.draw]

theorem State.modTower_boot (s : State) (t : Bool) (f : Tower → Tower) :
    ((s.modTower t f).bootNo, (s.modTower t f).bootJournal) = (s.bootNo, s.bootJournal) := by simp

/-- A step of bring-up leaves the boot number and the journal alone. -/
theorem State.bootStep_boot (s : State) (step out detail : Nat) :
    ((s.bootStep step out detail).bootNo, (s.bootStep step out detail).bootJournal) = (s.bootNo, s.bootJournal) := by
  have hexcluded (t : Bool) : ((if out = 3 then s.modTower t fun w => { w with excluded := true } else s).bootNo,
      (if out = 3 then s.modTower t fun w => { w with excluded := true } else s).bootJournal) = (s.bootNo, s.bootJournal) := by
    split
    · exact State.modTower_boot ..
    · rfl
  unfold State.bootStep
  dsimp only
  split
  · split <;> rfl
  · exact hexcluded _
  · split
    · refine (State.memoryUp_boot ..).trans ((State.memoryUp_boot ..).trans ?_)
      split <;> rfl
    · rfl
  · exact State.modTower_boot ..
  · split
    · rfl
    · split
      · exact State.startEasel_boot ..
      · exact State.modTower_boot ..
  · split
    · exact State.modTower_boot ..
    · rfl
  · exact State.modTower_boot ..
  · exact State.modTower_boot ..
  · rfl
  · rfl
  · rfl

theorem State.stepped_boot (s : State) (r : BootRun) (out alt : Nat) :
    (s.stepped r out alt).bootNo = s.bootNo ∧ (s.stepped r out alt).bootJournal.length = s.bootJournal.length + 1 := by
  have h := State.bootStep_boot (s.journalBoot r.1 out alt r.2.2) r.1 out r.2.2
  rw [Prod.mk.injEq] at h
  refine ⟨h.1, (congrArg List.length h.2).trans ?_⟩
  exact List.length_append

/-- The runs of a bring-up keep the boot number and add to the journal. -/
theorem State.bootSteps_boot (runs : List BootRun) (s : State) :
    (s.bootSteps runs).2.bootNo = s.bootNo ∧ s.bootJournal.length ≤ (s.bootSteps runs).2.bootJournal.length := by
  induction runs generalizing s with
  | nil => exact ⟨rfl, Nat.le_refl _⟩
  | cons r rest ih =>
    obtain ⟨out, alt, hsteps⟩ := s.bootSteps_cons r rest
    obtain ⟨hno, hlen⟩ := s.stepped_boot r out alt
    rw [hsteps]
    split
    · exact ⟨hno, hlen ▸ Nat.le_succ _⟩
    · obtain ⟨hno', hlen'⟩ := ih (s.stepped r out alt)
      exact ⟨hno'.trans hno, by omega⟩

theorem State.bootSteps_journal {runs : List BootRun} (h : runs ≠ []) (s : State) :
    s.bootJournal.length < (s.bootSteps runs).2.bootJournal.length := by
  cases runs with
  | nil => exact absurd rfl h
  | cons r rest =>
    obtain ⟨out, alt, hsteps⟩ := s.bootSteps_cons r rest
    obtain ⟨-, hlen⟩ := s.stepped_boot r out alt
    rw [hsteps]
    split
    · exact hlen ▸ Nat.lt_succ_self _
    · obtain ⟨-, hlen'⟩ := State.bootSteps_boot rest (s.stepped r out alt)
      omega

/-- A bring-up that names step 1 runs it. -/
theorem bootRuns_ne_nil {outs : List (Nat × Nat × Nat × Nat)} (h : ∃ o ∈ outs, o.1 = 1) : bootRuns 1 outs ≠ [] := by
  obtain ⟨o, ho, hone⟩ := h
  have hany : outs.any (fun o => o.1 == 1) = true := List.any_eq_true.mpr ⟨o, ho, beq_iff_eq.mpr hone⟩
  have hrun : (1, o.2.1 == 0 || o.2.1 == 3, o.2.2.2) ∈ bootRuns 1 outs := by
    unfold bootRuns
    refine List.mem_flatMap.mpr ⟨1, ?_, List.mem_flatMap.mpr ⟨o, ?_, ?_⟩⟩
    · have hsteps : ((List.range 10).map (· + 1)).filter (fun k => decide (1 ≤ k)) = 1 :: [2, 3, 4, 5, 6, 7, 8, 9, 10] := by decide
      rw [hsteps, List.takeWhile_cons, if_pos hany]
      exact List.mem_cons_self
    · exact List.mem_filter.mpr ⟨ho, beq_iff_eq.mpr hone⟩
    · exact List.mem_singleton.mpr rfl
  exact List.ne_nil_of_mem hrun

theorem State.bootBegins_boot (s : State) : s.bootBegins.bootNo = s.bootNo + 1 ∧ s.bootBegins.bootJournal = s.bootJournal := by
  simp [State.bootBegins]

/-- A boot whose runs have come to their end: what a warm reset kept is in use, and reduced service begins where it can (R333). -/
def State.served (s : State) : State :=
  let u := (s.modTower false fun w => { w with kept := false }).modTower true fun w => { w with kept := false }
  if u.service == .off && u.canServe then { u with service := .reduced } else u

theorem State.served_boot (s : State) : (s.served.bootNo, s.served.bootJournal) = (s.bootNo, s.bootJournal) := by
  have h := (State.modTower_boot (s.modTower false fun w => { w with kept := false }) true fun w => { w with kept := false }).trans
    (State.modTower_boot ..)
  unfold State.served
  dsimp only
  split <;> exact h

/-- A boot whose last record is signed where step 10 has run (R334). -/
def State.closed (s : State) (ran : Bool) : State :=
  if ran then match s.bootJournal.getLast? with
    | some r => { s with bootSigs := s.bootSigs ++ [r.closing] }
    | none => s
  else s

theorem State.closed_boot (s : State) (ran : Bool) : ((s.closed ran).bootNo, (s.closed ran).bootJournal) = (s.bootNo, s.bootJournal) := by
  unfold State.closed
  split
  · split <;> rfl
  · rfl

/-- A bring-up from reset. -/
theorem exec_bringUp_off {s : State} (outs : List (Nat × Nat × Nat × Nat)) (hoff : s.service = .off) (hfull : s.toFull = none) :
    ∃ u, exec (.bringUp outs) s = .next u ∧ u.bootNo = (s.bootBegins.bootSteps (bootRuns 1 outs)).2.bootNo ∧
      u.bootJournal = (s.bootBegins.bootSteps (bootRuns 1 outs)).2.bootJournal := by
  rw [exec_bringUp, execBringUp, hoff, hfull, if_neg (by decide)]
  simp only [beq_self_eq_true, if_true]
  generalize s.bootBegins.bootSteps (bootRuns 1 outs) = p
  obtain ⟨go, u⟩ := p
  cases go with
  | false => exact ⟨_, rfl, rfl, rfl⟩
  | true =>
    have h := (State.closed_boot u.served ((bootRuns 1 outs).any (·.1 == 10))).trans u.served_boot
    rw [Prod.mk.injEq] at h
    exact ⟨u.served.closed ((bootRuns 1 outs).any (·.1 == 10)), rfl, h⟩

/-! Resets and soft errors (R70, R326). -/

/-- A discarded command leaves the scratchpads and the segments' tenants alone. -/
theorem State.discardCmd_core (s : State) (c : Cmd) (d : CoreRef) :
    ((s.discardCmd c).core d).mem = (s.core d).mem ∧ ((s.discardCmd c).core d).segTenant = (s.core d).segTenant := by
  have hend : (((s.endTransfer c).endCmd c.id).core d).mem = (s.core d).mem ∧
      (((s.endTransfer c).endCmd c.id).core d).segTenant = (s.core d).segTenant := by
    have hcore : ((s.endTransfer c).endCmd c.id).core d = (s.endTransfer c).core d := rfl
    rw [hcore, State.endTransfer]
    by_cases hd : d = c.core
    · rw [hd, State.core_modCore]
      exact ⟨rfl, rfl⟩
    · rw [State.core_modCore_ne _ _ hd]
      exact ⟨rfl, rfl⟩
  have hcores : (s.discardCmd c).cores = ((s.endTransfer c).endCmd c.id).cores := by
    unfold State.discardCmd
    dsimp only
    split
    · rfl
    · refine foldl_keeps (fun a : State => a.cores = ((s.endTransfer c).endCmd c.id).cores) _ (fun a p ha => ?_) _ rfl
      split
      · exact ha
      · exact (State.modTower_cores ..).trans ha
    · exact State.modTower_cores ..
  have hcore : (s.discardCmd c).core d = ((s.endTransfer c).endCmd c.id).core d := congrArg (fun v => v[d.val]) hcores
  rw [hcore]
  exact hend

theorem State.discardAll_core (l : List Cmd) (s : State) (d : CoreRef) : ((l.foldl State.discardCmd s).core d).mem = (s.core d).mem ∧
    ((l.foldl State.discardCmd s).core d).segTenant = (s.core d).segTenant := by
  induction l generalizing s with
  | nil => exact ⟨rfl, rfl⟩
  | cons c l ih =>
    obtain ⟨hmem, htenant⟩ := s.discardCmd_core c d
    obtain ⟨hmem', htenant'⟩ := ih (s.discardCmd c)
    exact ⟨hmem'.trans hmem, htenant'.trans htenant⟩

theorem mem_setFlip {m : List Nat} (h : setWf m = true) (x : Nat) : x ∈ setFlip m x ↔ x ∉ m := by
  have hsort := (setWf_iff m).mp h
  unfold setFlip
  split
  next hhas =>
    have hin := (setHas_iff hsort x).mp hhas
    simp [setDel_mem hsort, hin]
  next hhas =>
    have hout : x ∉ m := fun hx => hhas ((setHas_iff hsort x).mpr hx)
    simp [setAdd_mem, hout]

/-- A bit of a scratchpad word that turns over (R70). -/
theorem exec_softError_flip (s : State) (unit a b : Nat) : exec (.softError 0 unit a b) s = .next (s.modCore (coreOfId unit) fun k =>
    { k with mem := { k.mem with flips := setFlip k.mem.flips (77 * (a % 2 ^ 20) + b % 77) } }) := rfl

/-! The obligation. -/

/-- Settles O50: failures, clocks, bring-up and resets, clause by clause; a device-level error by what its kills leave alone. -/
theorem reliability : Obligations.Reliability := by
  refine ⟨fun s t hout hstandby => ?_, fun s t hout hlost => ?_, fun s t agree f hf hdue hno htake howed => ?_, fun s t agree hdue => ?_,
    fun s v t hv hleft hnew => ?_, fun s t line hclaim hbad hsyms hline => exec_scrub_clean t hclaim hbad hsyms hline,
    fun s t line hwf hclaim hbad => ?_, fun s cause t column => ?_, fun s t n hspeed hlow => ?_, fun s t hspeed => ?_,
    fun s t since hsince htime hidle => ?_, fun s outs hoff hfull => ?_, fun s => ?_, fun s r hrun hbad hctl => ?_,
    fun s r hrun hbad hctl hprimary => ?_, fun s unit a b hwf ha hb => ?_, fun s passed hreduced htest htrained => ?_, fun s => ?_⟩
  · rw [execTakeOver_out hout, State.takeOver_standby hstandby]
    refine ⟨_, rfl, ?_⟩
    have htower : (((s.seized t).modTower t fun w => { w with standbyOk := false, takeover := true }).setCtx ⟨s.controlCore t false, false⟩
        (ctlStart ((s.firmware t).getD FwImage.empty).standby s.cycle)).tower t =
        { (s.tower t).seized with standbyOk := false, takeover := true } := by
      refine (State.tower_modTower ..).trans ?_
      rw [State.seized_tower]
    have hother : (⟨s.controlCore t true, false⟩ : CtxRef) ≠ ⟨s.controlCore t false, false⟩ :=
      fun h => s.controlCore_ne t (congrArg CtxRef.core h)
    rw [htower, State.ctx_setCtx_ne _ _ hother, State.ctx_modTower, State.ctx_setCtx]
    refine ⟨rfl, rfl, rfl, rfl, (s.tower t).seized_kick, rfl, rfl, fun c hc => ?_, s.seized_stopped t, rfl, ?_⟩
    · obtain ⟨d, -, rfl⟩ := List.mem_map.mp hc
      rfl
    · cases s.firmware t <;> rfl
  · rw [execTakeOver_out hout, State.takeOver_lost hlost]
    obtain ⟨hfault, hhold, hjapp, hbeat, hkick, hstop, hfollows⟩ := (s.seized t).easelLost_laws t
    rw [State.seized_tower] at hjapp hbeat hkick
    refine ⟨_, rfl, hhold, hjapp, hbeat, ?_, (hstop _).mpr (s.seized_stopped t), hfault, fun h => ?_⟩
    · rw [hkick]
      exact (s.tower t).seized_kick
    · exact FaultFollows.of_same (hfollows (by simpa [State.seized] using h)) (by simp [State.seized]) (by simp [State.seized])
        (by simp [State.seized, State.time])
  · have hgo : (!(s.tower t).reloadDue || (s.tower t).standbyOk || (s.tower t).takeover || s.owed ⟨s.controlCore t false, false⟩) = false := by
      rw [hdue, hno, htake, howed]
      rfl
    rw [exec_standbyReload, execStandbyReload]
    dsimp only
    rw [hgo, hf]
    rfl
  · rw [exec_standbyReload, execStandbyReload]
    exact if_pos (by simp [hdue])
  · obtain ⟨u, hu, htlb⟩ := exec_invalidationAck_done hv hleft hnew
    exact ⟨u, hu, congrArg _ htlb⟩
  · obtain ⟨u, hu, hdev⟩ := exec_scrub_bad t hclaim hbad
    rw [← DevMem.cleanLine_symsIn s.dev line]
    obtain ⟨hfirst, hsecond⟩ := DevMem.scrubBad_poisoned (s.dev.cleanLine_wf hwf line) line (setHas s.dev.told line)
    refine ⟨u, hu, by rw [hdev]; rfl, hdev ▸ hfirst, hdev ▸ hsecond, fun htold => ?_⟩
    obtain ⟨-, -, -, -, -, hsilent, -⟩ := (DevMem.wf_iff s.dev).mp hwf
    rw [hdev, htold]
    exact (setHas_setAdd hsilent line line).trans (by simp)
  · refine ⟨_, rfl, fun h => State.deviceError_faulted h .., fun h => State.deviceError_follows h ..⟩
  · rw [exec_thermalLimit, execThermalLimit, State.lowerSpeed_bin hspeed hlow]
    refine ⟨_, rfl, ?_⟩
    rw [State.tower_modTower, State.retrainTo_tower, State.tower_modTower]
    exact ⟨rfl, rfl⟩
  · rw [exec_thermalLimit, execThermalLimit, State.lowerSpeed_none hspeed]
    exact ⟨_, rfl, fun h => State.deviceError_faulted h .., fun h => State.deviceError_follows h ..⟩
  · have hgo : ¬(s.time < since + 10 ^ 10 ∨ (s.tower t).retrain.isSome = true) := by
      rw [hidle]
      rintro (h | h)
      · omega
      · cases h
    rw [exec_clockRestore, execClockRestore, hsince]
    dsimp only
    rw [if_neg hgo]
    refine ⟨_, rfl, ?_⟩
    rw [State.tower_modTower, State.retrainTo_tower, State.tower_modTower]
    exact ⟨rfl, rfl⟩
  · obtain ⟨u, hu, hno, hjournal⟩ := exec_bringUp_off outs hoff hfull
    obtain ⟨hbegins, hbefore⟩ := s.bootBegins_boot
    refine ⟨u, hu, ?_, fun hone => ?_⟩
    · rw [hno, (State.bootSteps_boot ..).1, hbegins]
    · rw [hjournal, ← hbefore]
      exact State.bootSteps_journal (bootRuns_ne_nil hone) _
  · refine ⟨_, rfl, rfl, rfl, rfl, rfl, rfl, fun c => ?_⟩
    have hwarm (v : Vector Core 516) : (v.map Core.warm)[c.val] = v[c.val].warm := Vector.getElem_map ..
    rw [State.core]
    dsimp only
    rw [hwarm]
    exact ⟨rfl, rfl, State.discardAll_core s.cmds s c⟩
  · have hgo : ((s.ctx r).status != .running || !(s.core r.core).imemBad.contains (s.ctx r).pc.toNat) = false := by
      simp [hrun, hbad]
    rw [exec_imemue, execImemue]
    dsimp only
    rw [hgo, hctl]
    rfl
  · have hgo : ((s.ctx r).status != .running || !(s.core r.core).imemBad.contains (s.ctx r).pc.toNat) = false := by
      simp [hrun, hbad]
    rw [exec_imemue, execImemue]
    dsimp only
    rw [hgo, hctl, hprimary, Bool.not_true, Bool.and_false]
    rfl
  · have hflip : 77 * (a % 2 ^ 20) + b % 77 = 77 * a + b := by rw [Nat.mod_eq_of_lt ha, Nat.mod_eq_of_lt hb]
    obtain ⟨-, -, -, hflips, -⟩ := (Scratch.wf_iff _).mp hwf
    refine ⟨_, exec_softError_flip .., ?_⟩
    rw [State.core_modCore]
    dsimp only
    rw [hflip]
    exact mem_setFlip hflips _
  · have hgo : (s.service != .reduced || s.selfTest.isNone || [false, true].any fun t => !(s.tower t).excluded && !(s.tower t).trained) =
        false := by
      have hall : ∀ w, (!(s.tower w).excluded && !(s.tower w).trained) = false := fun w => by
        cases h : (s.tower w).excluded with
        | true => rfl
        | false => rw [htrained w h]; rfl
      rw [hreduced, Option.isNone_eq_false_iff.mpr htest, List.any_cons, List.any_cons, hall, hall]
      rfl
    rw [exec_fullService, execFullService, hgo]
    refine ⟨(({ s with toFull := some passed } : State).toBaseSpeed false).toBaseSpeed true, rfl, ?_, fun w hw => ?_⟩
    · rw [State.toBaseSpeed_toFull, State.toBaseSpeed_toFull]
    · cases w with
      | false =>
        rw [State.toBaseSpeed_ne _ (by decide)]
        exact State.toBaseSpeed_own hw
      | true =>
        have hsame : (({ s with toFull := some passed } : State).toBaseSpeed false).tower true = s.tower true :=
          State.toBaseSpeed_ne _ (by decide)
        rw [State.toBaseSpeed_own (hsame ▸ hw), hsame]
  · exact ⟨_, rfl, rfl, rfl, rfl, rfl, rfl, rfl, rfl, rfl, rfl, rfl⟩

end Sys2Proof.Machine
end
